-- ==== Sys2Proof/Word.lean ====
section
/-! DEFINITION. The words of the machine: widths, and the plainest arithmetic on them (R2, R215). -/
namespace Sys2Proof

/-- A scalar register, address operand or register word: 64 bits. -/
abbrev Word := BitVec 64
/-- An instruction word, a lane of a token, a constant: 32 bits. -/
abbrev W32 := BitVec 32
/-- A handle, an iteration tag, a context key: 16 bits. -/
abbrev Half := BitVec 16
/-- The smallest addressable unit of every space. -/
abbrev Byte := BitVec 8
/-- The number of a scalar register S0–S31. -/
abbrev Reg := BitVec 5
/-- The number of a predicate P0–P7. -/
abbrev Pred := BitVec 3
/-- The number of a handle register H0–H15. -/
abbrev HReg := BitVec 4
/-- The number of a laminated register L0–L63. -/
abbrev LReg := BitVec 6

end Sys2Proof
end

