-- ==== Sys2Proof/Syntax.lean ====
section
/-! DEFINITION. The instructions: one constructor for each row of spec/opcode_table.json. The sequencer profile
(R216–R224) and the element profile (R225–R229) carry the fields of their words; the events, which have no encoding,
carry what happens to the machine from outside, or which of its units acts. -/
namespace Sys2Proof

/-- The guard of an SR-form word, or the condition of BR (R217). -/
structure Guard where
  p   : Pred
  neg : Bool
  deriving DecidableEq, Repr

/-- No guard: P0, not inverted. -/
def Guard.always : Guard := { p := 0, neg := false }

/-- Access sizes (R223). -/
inductive Size where | b | h | w | d
  deriving DecidableEq, Repr

def Size.code : Size → BitVec 2 | .b => 0 | .h => 1 | .w => 2 | .d => 3
def Size.ofCode (c : BitVec 2) : Size :=
  match c.toNat with | 0 => .b | 1 => .h | 2 => .w | _ => .d
/-- Bytes of an access. -/
def Size.bytes : Size → Nat | .b => 1 | .h => 2 | .w => 4 | .d => 8

/-- Synchronisation scopes, narrowest first (R4, R223). -/
inductive Scope where | core | bay | stack | dev | pod
  deriving DecidableEq, Repr

def Scope.code : Scope → BitVec 3 | .core => 0 | .bay => 1 | .stack => 2 | .dev => 3 | .pod => 4
def Scope.ofCode (c : BitVec 3) : Option Scope :=
  match c.toNat with
  | 0 => some .core | 1 => some .bay | 2 => some .stack | 3 => some .dev | 4 => some .pod | _ => none

/-- Condition codes of PSET, PSETI and ICMP (R223). -/
inductive Cond where | eq | ne | lt | ge | ltu | geu | le | gt | leu | gtu
  deriving DecidableEq, Repr

def Cond.code : Cond → BitVec 4
  | .eq => 0 | .ne => 1 | .lt => 2 | .ge => 3 | .ltu => 4 | .geu => 5 | .le => 6 | .gt => 7 | .leu => 8 | .gtu => 9
def Cond.ofCode (c : BitVec 4) : Option Cond :=
  match c.toNat with
  | 0 => some .eq | 1 => some .ne | 2 => some .lt | 3 => some .ge | 4 => some .ltu | 5 => some .geu
  | 6 => some .le | 7 => some .gt | 8 => some .leu | 9 => some .gtu | _ => none

/-- Conditions of FCMP (R280). -/
inductive FCond where | eq | ne | lt | ge | le | gt | un | or
  deriving DecidableEq, Repr

def FCond.code : FCond → BitVec 3
  | .eq => 0 | .ne => 1 | .lt => 2 | .ge => 3 | .le => 4 | .gt => 5 | .un => 6 | .or => 7
def FCond.ofCode (c : BitVec 3) : FCond :=
  match c.toNat with
  | 0 => .eq | 1 => .ne | 2 => .lt | 3 => .ge | 4 => .le | 5 => .gt | 6 => .un | _ => .or

/-- The loop counter of an SL word (R223). -/
inductive Lc where | lc0 | lc1 | lc2
  deriving DecidableEq, Repr

def Lc.code : Lc → BitVec 2 | .lc0 => 0 | .lc1 => 1 | .lc2 => 2
def Lc.ofCode (c : BitVec 2) : Option Lc :=
  match c.toNat with | 0 => some .lc0 | 1 => some .lc1 | 2 => some .lc2 | _ => none

/-- The ordering of an SX load or store (R222): the field x. -/
inductive MemOrd where | plain | sync (s : Scope) | sc
  deriving DecidableEq, Repr

def MemOrd.code : MemOrd → BitVec 5
  | .plain => 0 | .sync s => 1#2 ++ s.code | .sc => 16
def MemOrd.ofCode (c : BitVec 5) : Option MemOrd :=
  match (c.extractLsb' 3 2).toNat with
  | 0 => if c.extractLsb' 0 3 = 0 then some .plain else none
  | 1 => match Scope.ofCode (c.extractLsb' 0 3) with | some s => some (.sync s) | none => none
  | 2 => if c.extractLsb' 0 3 = 0 then some .sc else none
  | _ => none

/-- The ordering of a sequencer atomic (R223). -/
inductive AtomOrd where | plain | acq | rel | sc
  deriving DecidableEq, Repr

def AtomOrd.code : AtomOrd → BitVec 2 | .plain => 0 | .acq => 1 | .rel => 2 | .sc => 3
def AtomOrd.ofCode (c : BitVec 2) : AtomOrd :=
  match c.toNat with | 0 => .plain | 1 => .acq | 2 => .rel | _ => .sc

/-- The ordering of an element memory instruction (R227). -/
inductive ElemOrd where | plain | sync (s : Scope) | sc
  deriving DecidableEq, Repr

def ElemOrd.code : ElemOrd → BitVec 3
  | .plain => 0
  | .sync .core => 1 | .sync .bay => 2 | .sync .stack => 3 | .sync .dev => 4 | .sync .pod => 5
  | .sc => 6
def ElemOrd.ofCode (c : BitVec 3) : Option ElemOrd :=
  match c.toNat with
  | 0 => some .plain
  | 1 => some (.sync .core) | 2 => some (.sync .bay) | 3 => some (.sync .stack)
  | 4 => some (.sync .dev) | 5 => some (.sync .pod)
  | 6 => some .sc
  | _ => none

/-- The format of an exact accumulate operation (R221, R321). -/
inductive AxFmt where | fp32 | bf16 | fp16
  deriving DecidableEq, Repr

def AxFmt.code : AxFmt → BitVec 2 | .fp32 => 0 | .bf16 => 1 | .fp16 => 2
def AxFmt.ofCode (c : BitVec 2) : Option AxFmt :=
  match c.toNat with | 0 => some .fp32 | 1 => some .bf16 | 2 => some .fp16 | _ => none

/-- The mode of RDL (R296, R299). -/
inductive RdlMode where | value | hi | xb
  deriving DecidableEq, Repr

def RdlMode.code : RdlMode → BitVec 2 | .value => 0 | .hi => 1 | .xb => 2
def RdlMode.ofCode (c : BitVec 2) : Option RdlMode :=
  match c.toNat with | 0 => some .value | 1 => some .hi | 2 => some .xb | _ => none

/-- The predicate mode of an element word (R225). -/
inductive Pm where | always | ifTrue | ifFalse
  deriving DecidableEq, Repr

def Pm.code : Pm → BitVec 2 | .always => 0 | .ifTrue => 1 | .ifFalse => 2
def Pm.ofCode (c : BitVec 2) : Option Pm :=
  match c.toNat with | 0 => some .always | 1 => some .ifTrue | 2 => some .ifFalse | _ => none

/-- Element types (R227). -/
inductive Ty where | fp32 | bf16 | fp16 | e4m3 | e5m2 | i32 | i16 | i8
  deriving DecidableEq, Repr

def Ty.code : Ty → BitVec 3
  | .fp32 => 0 | .bf16 => 1 | .fp16 => 2 | .e4m3 => 3 | .e5m2 => 4 | .i32 => 5 | .i16 => 6 | .i8 => 7
def Ty.ofCode (c : BitVec 3) : Ty :=
  match c.toNat with
  | 0 => .fp32 | 1 => .bf16 | 2 => .fp16 | 3 => .e4m3 | 4 => .e5m2 | 5 => .i32 | 6 => .i16 | _ => .i8

/-- Rounding modes (R205). -/
inductive RMode where | rne | rtz | rup | rdn | sr | dr
  deriving DecidableEq, Repr

def RMode.code : RMode → BitVec 3 | .rne => 0 | .rtz => 1 | .rup => 2 | .rdn => 3 | .sr => 4 | .dr => 5
def RMode.ofCode (c : BitVec 3) : Option RMode :=
  match c.toNat with
  | 0 => some .rne | 1 => some .rtz | 2 => some .rup | 3 => some .rdn | 4 => some .sr | 5 => some .dr | _ => none

/-- The modes of LSHF (R285). -/
inductive Shuffle where | rot | up | down | xor
  deriving DecidableEq, Repr

def Shuffle.code : Shuffle → BitVec 3 | .rot => 0 | .up => 1 | .down => 2 | .xor => 3
def Shuffle.ofCode (c : BitVec 3) : Option Shuffle :=
  match c.toNat with | 0 => some .rot | 1 => some .up | 2 => some .down | 3 => some .xor | _ => none

/-- The operators of LRED and ACC (R286). -/
inductive RedOp where | addx | max | min | maxabs | iadd | and | or | xor
  deriving DecidableEq, Repr

def RedOp.code : RedOp → BitVec 3
  | .addx => 0 | .max => 1 | .min => 2 | .maxabs => 3 | .iadd => 4 | .and => 5 | .or => 6 | .xor => 7
def RedOp.ofCode (c : BitVec 3) : RedOp :=
  match c.toNat with
  | 0 => .addx | 1 => .max | 2 => .min | 3 => .maxabs | 4 => .iadd | 5 => .and | 6 => .or | _ => .xor

/-- The fields every element word has (R225). -/
structure EHdr where
  pm : Pm
  nt : BitVec 2
  ks : BitVec 3
  kp : BitVec 2
  om : BitVec 4
  deriving DecidableEq, Repr

/-- Who writes or reads a device register (R20). -/
inductive Src where | host (fn : Nat) | svc (n : Nat)
  deriving DecidableEq, Repr

/-- What the code of a sector read from HBM4 finds (R83–R85). -/
inductive Ecc where | clean | corrected | uncorrectable
  deriving DecidableEq, Repr

/-- A host AtomicOp (R432). -/
inductive HostAtomic where | fetchAdd | swap | cas
  deriving DecidableEq, Repr

/-- An exchange flit (R436). -/
structure Flit where
  ty   : Nat
  dst  : Nat
  src  : Nat
  vc   : Nat
  seq  : Nat
  mid  : Nat
  crc  : W32
  data : List Byte
  deriving DecidableEq, Repr

/-- A reduction contribution (R330, R331): the descriptor's fields, the contributor (device, core, context key) and its
values. -/
structure Contribution where
  asid  : BitVec 12
  op    : Nat
  fmt   : Nat
  lanes : Nat
  root  : Nat
  key   : Half
  round : Half
  nrank : Nat
  rank  : Nat
  tmo   : Nat
  dev   : Nat
  core  : Nat
  who   : Half
  vals  : List Word
  poison : Bool
  deriving DecidableEq, Repr

/-- A reduction result as it is sent to a contributor (R334): the contributor's core and context key, the record's words
0 and 1, and the lanes. -/
structure RedResult where
  asid  : BitVec 12
  core  : Nat
  who   : Half
  key   : Half
  round : Half
  w0    : Word
  w1    : Word
  lanes : List Word
  deriving DecidableEq, Repr

/-- The instructions and the events of the machine. -/
inductive Instr where
  /-- ADD (R244): Sequencer adds two scalars modulo 2^64. -/
  | add (g : Guard) (d : Reg) (a : Reg) (b : Reg)
  /-- SUB (R244): Sequencer subtracts two scalars modulo 2^64. -/
  | sub (g : Guard) (d : Reg) (a : Reg) (b : Reg)
  /-- MUL (R244): Sequencer writes the low 64 bits of a product. -/
  | mul (g : Guard) (d : Reg) (a : Reg) (b : Reg)
  /-- MULH (R244): Sequencer writes the high 64 bits of a signed product. -/
  | mulh (g : Guard) (d : Reg) (a : Reg) (b : Reg)
  /-- MULHU (R244): Sequencer writes the high 64 bits of an unsigned product. -/
  | mulhu (g : Guard) (d : Reg) (a : Reg) (b : Reg)
  /-- DIV (R244): Sequencer performs a signed division truncated towards zero. -/
  | div (g : Guard) (d : Reg) (a : Reg) (b : Reg)
  /-- DIVU (R244): Sequencer performs an unsigned division. -/
  | divu (g : Guard) (d : Reg) (a : Reg) (b : Reg)
  /-- REM (R244): Sequencer computes a signed remainder. -/
  | rem (g : Guard) (d : Reg) (a : Reg) (b : Reg)
  /-- REMU (R244): Sequencer computes an unsigned remainder. -/
  | remu (g : Guard) (d : Reg) (a : Reg) (b : Reg)
  /-- AND (R244): Sequencer computes a bitwise AND. -/
  | and (g : Guard) (d : Reg) (a : Reg) (b : Reg)
  /-- OR (R244): Sequencer computes a bitwise OR. -/
  | or (g : Guard) (d : Reg) (a : Reg) (b : Reg)
  /-- XOR (R244): Sequencer computes a bitwise XOR. -/
  | xor (g : Guard) (d : Reg) (a : Reg) (b : Reg)
  /-- ANDN (R244): Sequencer computes a AND NOT b. -/
  | andn (g : Guard) (d : Reg) (a : Reg) (b : Reg)
  /-- SHL (R244): Sequencer shifts left by b[5:0]. -/
  | shl (g : Guard) (d : Reg) (a : Reg) (b : Reg)
  /-- SHR (R244): Sequencer shifts right logically by b[5:0]. -/
  | shr (g : Guard) (d : Reg) (a : Reg) (b : Reg)
  /-- SRA (R244): Sequencer shifts right arithmetically by b[5:0]. -/
  | sra (g : Guard) (d : Reg) (a : Reg) (b : Reg)
  /-- ROL (R244): Sequencer rotates left by b[5:0]. -/
  | rol (g : Guard) (d : Reg) (a : Reg) (b : Reg)
  /-- MIN (R244): Sequencer takes the signed minimum. -/
  | min (g : Guard) (d : Reg) (a : Reg) (b : Reg)
  /-- MAX (R244): Sequencer takes the signed maximum. -/
  | max (g : Guard) (d : Reg) (a : Reg) (b : Reg)
  /-- MINU (R244): Sequencer takes the unsigned minimum. -/
  | minu (g : Guard) (d : Reg) (a : Reg) (b : Reg)
  /-- MAXU (R244): Sequencer takes the unsigned maximum. -/
  | maxu (g : Guard) (d : Reg) (a : Reg) (b : Reg)
  /-- CLZ (R244): Sequencer counts leading zero bits. -/
  | clz (g : Guard) (d : Reg) (a : Reg)
  /-- CTZ (R244): Sequencer counts trailing zero bits. -/
  | ctz (g : Guard) (d : Reg) (a : Reg)
  /-- POPC (R244): Sequencer counts one bits. -/
  | popc (g : Guard) (d : Reg) (a : Reg)
  /-- BREV (R244): Sequencer reverses the 64 bits. -/
  | brev (g : Guard) (d : Reg) (a : Reg)
  /-- SEXT_B (R244): Sequencer sign-extends the low byte. -/
  | sextB (g : Guard) (d : Reg) (a : Reg)
  /-- SEXT_H (R244): Sequencer sign-extends the low 16 bits. -/
  | sextH (g : Guard) (d : Reg) (a : Reg)
  /-- SEXT_W (R244): Sequencer sign-extends the low 32 bits. -/
  | sextW (g : Guard) (d : Reg) (a : Reg)
  /-- ZEXT_B (R244): Sequencer zero-extends the low byte. -/
  | zextB (g : Guard) (d : Reg) (a : Reg)
  /-- ZEXT_H (R244): Sequencer zero-extends the low 16 bits. -/
  | zextH (g : Guard) (d : Reg) (a : Reg)
  /-- ZEXT_W (R244): Sequencer zero-extends the low 32 bits. -/
  | zextW (g : Guard) (d : Reg) (a : Reg)
  /-- LEA (R244): Sequencer computes a + b times a scale of 1, 2, 4 or 8. -/
  | lea (g : Guard) (d : Reg) (a : Reg) (b : Reg) (s : BitVec 2)
  /-- ADDI (R245): Sequencer adds a sign-extended 16-bit immediate. -/
  | addi (d : Reg) (a : Reg) (i : Half)
  /-- ANDI (R245): Sequencer ANDs a zero-extended immediate. -/
  | andi (d : Reg) (a : Reg) (i : Half)
  /-- ORI (R245): Sequencer ORs a zero-extended immediate. -/
  | ori (d : Reg) (a : Reg) (i : Half)
  /-- XORI (R245): Sequencer XORs a zero-extended immediate. -/
  | xori (d : Reg) (a : Reg) (i : Half)
  /-- SHLI (R245): Sequencer shifts left by an immediate amount. -/
  | shli (d : Reg) (a : Reg) (n : BitVec 6)
  /-- SHRI (R245): Sequencer shifts right logically by an immediate amount. -/
  | shri (d : Reg) (a : Reg) (n : BitVec 6)
  /-- SRAI (R245): Sequencer shifts right arithmetically by an immediate amount. -/
  | srai (d : Reg) (a : Reg) (n : BitVec 6)
  /-- LUI (R245): Sequencer loads a sign-extended immediate shifted left by 16. -/
  | lui (d : Reg) (i : Half)
  /-- MOVI (R245): Sequencer loads a sign-extended 16-bit immediate. -/
  | movi (d : Reg) (i : Half)
  /-- MOVI_SX (R245): Sequencer loads a sign-extended 32-bit immediate from the SX form. -/
  | moviSx (d : Reg) (i : W32)
  /-- PSET (R246): Sequencer sets a predicate from a comparison of two scalars. -/
  | pset (g : Guard) (p : Pred) (a : Reg) (b : Reg) (c : Cond)
  /-- PSETI (R246): Sequencer sets a predicate from a comparison with a 12-bit immediate. -/
  | pseti (p : Pred) (a : Reg) (c : Cond) (i : BitVec 12)
  /-- PAND (R246): Sequencer ANDs two predicates. -/
  | pand (g : Guard) (d : Pred) (a : Pred) (b : Pred)
  /-- POR (R246): Sequencer ORs two predicates. -/
  | por (g : Guard) (d : Pred) (a : Pred) (b : Pred)
  /-- PXOR (R246): Sequencer XORs two predicates. -/
  | pxor (g : Guard) (d : Pred) (a : Pred) (b : Pred)
  /-- PNOT (R246): Sequencer inverts a predicate. -/
  | pnot (g : Guard) (d : Pred) (a : Pred)
  /-- SEL (R247): Sequencer selects one of two scalars by a predicate. -/
  | sel (g : Guard) (d : Reg) (a : Reg) (b : Reg)
  /-- BR (R248): Sequencer branches on a predicate to a PC-relative target. -/
  | br (g : Guard) (o : BitVec 22)
  /-- JMP (R248): Sequencer jumps to a PC-relative target. -/
  | jmp (o : BitVec 22)
  /-- CALL (R248): Sequencer writes the return address to S31 and jumps. -/
  | call (o : BitVec 22)
  /-- JR (R248): Sequencer jumps to the address in a scalar. -/
  | jr (g : Guard) (a : Reg)
  /-- CALLR (R248): Sequencer calls the address in a scalar. -/
  | callr (g : Guard) (a : Reg)
  /-- RET (R248): Sequencer returns to the address in S31. -/
  | ret (g : Guard)
  /-- TRAP (R249): Job context requests service and waits for DONE; a service core enters its handler. -/
  | trap (g : Guard) (n : BitVec 5)
  /-- HRET (R249): Service core returns from its handler to HPC. -/
  | hret (g : Guard)
  /-- DSTOP (R249): Sequencer raises BRKPT without retiring. -/
  | dstop (g : Guard)
  /-- NOP (R249): Sequencer does nothing. -/
  | nop (g : Guard)
  /-- HALT (R249): Sequencer stops and the context proceeds to end. -/
  | halt (g : Guard)
  /-- LOOP (R250): Sequencer starts a zero-overhead loop with an immediate count. -/
  | loop (l : Lc) (n : BitVec 8) (i : BitVec 10)
  /-- LOOPR (R250): Sequencer starts a zero-overhead loop with a count from a scalar. -/
  | loopr (l : Lc) (n : BitVec 8) (a : Reg)
  /-- LDS (R305): Sequencer loads 1 to 8 bytes from global memory, plain or acquire at DEV. -/
  | lds (d : Reg) (a : Reg) (o : BitVec 12) (s : Size) (q : Bool)
  /-- LDSC (R322): Sequencer performs an SC load on the SC ring. -/
  | ldsc (d : Reg) (a : Reg) (o : BitVec 12) (s : Size)
  /-- LDS_SX (R305): Sequencer load or SC load with any scope and a 32-bit offset. -/
  | ldsSx (d : Reg) (a : Reg) (s : Size) (q : MemOrd) (o : W32)
  /-- STS (R305): Sequencer stores 1 to 8 bytes to global memory, plain or release at DEV. -/
  | sts (d : Reg) (a : Reg) (o : BitVec 12) (s : Size) (q : Bool)
  /-- STSC (R322): Sequencer performs an SC store on the SC ring. -/
  | stsc (d : Reg) (a : Reg) (o : BitVec 12) (s : Size)
  /-- STS_SX (R305): Sequencer store or SC store with any scope and a 32-bit offset. -/
  | stsSx (d : Reg) (a : Reg) (s : Size) (q : MemOrd) (o : W32)
  /-- AADD (R319): Sequencer atomic add at the home slice. -/
  | aadd (g : Guard) (d : Reg) (a : Reg) (b : Reg) (s : Bool) (q : AtomOrd)
  /-- AAND (R319): Sequencer atomic AND. -/
  | aand (g : Guard) (d : Reg) (a : Reg) (b : Reg) (s : Bool) (q : AtomOrd)
  /-- AOR (R319): Sequencer atomic OR. -/
  | aor (g : Guard) (d : Reg) (a : Reg) (b : Reg) (s : Bool) (q : AtomOrd)
  /-- AXOR (R319): Sequencer atomic XOR. -/
  | axor (g : Guard) (d : Reg) (a : Reg) (b : Reg) (s : Bool) (q : AtomOrd)
  /-- AMIN (R319): Sequencer atomic signed minimum. -/
  | amin (g : Guard) (d : Reg) (a : Reg) (b : Reg) (s : Bool) (q : AtomOrd)
  /-- AMAX (R319): Sequencer atomic signed maximum. -/
  | amax (g : Guard) (d : Reg) (a : Reg) (b : Reg) (s : Bool) (q : AtomOrd)
  /-- AMINU (R319): Sequencer atomic unsigned minimum. -/
  | aminu (g : Guard) (d : Reg) (a : Reg) (b : Reg) (s : Bool) (q : AtomOrd)
  /-- AMAXU (R319): Sequencer atomic unsigned maximum. -/
  | amaxu (g : Guard) (d : Reg) (a : Reg) (b : Reg) (s : Bool) (q : AtomOrd)
  /-- ASWP (R319): Sequencer atomic swap. -/
  | aswp (g : Guard) (d : Reg) (a : Reg) (b : Reg) (s : Bool) (q : AtomOrd)
  /-- ACAS (R319): Sequencer atomic compare-and-swap. -/
  | acas (g : Guard) (d : Reg) (a : Reg) (b : Reg) (s : Bool) (q : AtomOrd)
  /-- AFMIN (R319): Sequencer atomic FP32 minimum. -/
  | afmin (g : Guard) (d : Reg) (a : Reg) (b : Reg) (q : AtomOrd)
  /-- AFMAX (R319): Sequencer atomic FP32 maximum. -/
  | afmax (g : Guard) (d : Reg) (a : Reg) (b : Reg) (q : AtomOrd)
  /-- AXADD (R321): Sequencer adds a value exactly into an exact accumulate object. -/
  | axadd (g : Guard) (a : Reg) (b : Reg) (f : AxFmt)
  /-- AXRD (R321): Sequencer reads an exact accumulate object rounded once. -/
  | axrd (g : Guard) (d : Reg) (a : Reg) (f : AxFmt)
  /-- AXCLR (R321): Sequencer clears an exact accumulate object. -/
  | axclr (g : Guard) (a : Reg)
  /-- BLD (R308): Sequencer loads from a typed buffer at a register offset. -/
  | bld (g : Guard) (d : Reg) (h : HReg) (b : Reg) (s : Size)
  /-- BST (R308): Sequencer stores to a typed buffer at a register offset. -/
  | bst (g : Guard) (d : Reg) (h : HReg) (b : Reg) (s : Size)
  /-- BLD_SX (R308): Sequencer loads from a typed buffer at an immediate offset. -/
  | bldSx (d : Reg) (h : HReg) (s : Size) (o : BitVec 20)
  /-- BST_SX (R308): Sequencer stores to a typed buffer at an immediate offset. -/
  | bstSx (d : Reg) (h : HReg) (s : Size) (o : BitVec 20)
  /-- HALLOC (R311): Allocates a handle descriptor and a run of granules, or returns the null handle. -/
  | halloc (g : Guard) (h : HReg) (a : Reg) (s : BitVec 2)
  /-- HFREE (R311): Frees a handle descriptor and advances its GEN. -/
  | hfree (g : Guard) (h : HReg)
  /-- HGIVE (R311): Offers a handle to a target holder and retires at OFFERED. -/
  | hgive (g : Guard) (h : HReg) (b : Reg)
  /-- HTAKE (R311): Takes or recalls an offered handle. -/
  | htake (g : Guard) (d : Reg) (a : Reg) (h : HReg)
  /-- HQRY (R311): Returns the state of a handle descriptor. -/
  | hqry (g : Guard) (d : Reg) (a : Reg)
  /-- COPY (R314): Sequencer issues a copy from a 64-byte descriptor. -/
  | copy (g : Guard) (d : Reg) (a : Reg)
  /-- CPWAIT (R317): Waits until a copy or every copy of the context has retired. -/
  | cpwait (g : Guard) (a : Reg)
  /-- CPQRY (R317): Returns the progress and state of a copy. -/
  | cpqry (g : Guard) (d : Reg) (a : Reg)
  /-- FENCE (R323): Full fence at a scope. -/
  | fence (g : Guard) (s : Scope)
  /-- FENCE_ACQ (R323): Acquire fence at a scope. -/
  | fenceAcq (g : Guard) (s : Scope)
  /-- FENCE_REL (R323): Release fence at a scope. -/
  | fenceRel (g : Guard) (s : Scope)
  /-- BARA (R325): Arrives at a barrier as a release and returns the generation. -/
  | bara (g : Guard) (d : Reg) (a : Reg) (s : Scope)
  /-- BARW (R325): Waits for a barrier generation to complete as an acquire. -/
  | barw (g : Guard) (a : Reg) (b : Reg) (s : Scope)
  /-- BAR (R325): Arrives at a barrier and waits on the generation it arrived in. -/
  | bar (g : Guard) (a : Reg) (s : Scope)
  /-- NMCMD (R326): Reads a command record, zeroes its completion word and sends a near-memory command. -/
  | nmcmd (g : Guard) (a : Reg)
  /-- NMFENCE (R327): Waits until every earlier near-memory command of the context has completed. -/
  | nmfence (g : Guard)
  /-- NMSTAT (R327): Loads word 0 of a completion record as an acquire. -/
  | nmstat (g : Guard) (d : Reg) (a : Reg)
  /-- XSEND (R328): Sends a message over the exchange as a POD-scope release. -/
  | xsend (g : Guard) (a : Reg)
  /-- XRECV (R329): Posts a receive buffer on a channel and waits for a message. -/
  | xrecv (g : Guard) (d : Reg) (a : Reg) (b : Reg)
  /-- XRED (R331): Sends a reduction contribution to the root's exchange unit. -/
  | xred (g : Guard) (a : Reg)
  /-- XRSLT (R334): Waits for a reduction result and writes its record. -/
  | xrslt (g : Guard) (d : Reg) (a : Reg)
  /-- BLKRUN (R259): Places a block if needed and creates instances for a range of iterations, optionally as a chain. -/
  | blkrun (a : Reg) (b : Reg) (c : Reg) (h : Bool)
  /-- BLKPIN (R259): Places a block and pins it under a pin number. -/
  | blkpin (a : Reg) (b : Reg) (c : Reg)
  /-- BLKUNPIN (R259): Removes a pinned placement once its instances have committed. -/
  | blkunpin (b : Reg)
  /-- JIGMAP (R259): Places a block unpinned and stores its map words. -/
  | jigmap (a : Reg) (b : Reg)
  /-- CFGSWAP (R260): Swaps the context's configuration image after the outgoing one drains. -/
  | cfgswap (a : Reg)
  /-- INJ (R261): Creates one token and sends it to an element slot. -/
  | inj (a : Reg) (b : Reg) (c : Reg) (l : Bool)
  /-- SNKRD (R262): Reads a committed token from a sink. -/
  | snkrd (a : Reg) (b : Reg) (c : Reg) (l : BitVec 5)
  /-- ARGW (R263): Stages a new constant value for the next round. -/
  | argw (a : Reg) (b : Reg)
  /-- ROUND (R263): Requests the round boundary. -/
  | round
  /-- GATE (R264): Closes the sources of a context. -/
  | gate (a : Reg) (b : Reg)
  /-- GATE_WAIT (R264): Closes the sources of a context and waits for quiescence. -/
  | gateWait (a : Reg) (b : Reg)
  /-- GATE_OPEN (R264): Reopens the sources of a context. -/
  | gateOpen (a : Reg) (b : Reg)
  /-- STRM (R266): Reads a stream descriptor and queues the stream on an edge port. -/
  | strm (a : Reg) (p : BitVec 4)
  /-- SBAR (R268): Waits until the earlier commands on the selected ports have completed. -/
  | sbar (a : Reg)
  /-- SPOS (R268): Returns the progress of an edge port's oldest command. -/
  | spos (c : Reg) (p : BitVec 4)
  /-- TDEF (R356): Loads a tensor descriptor into a tensor-table entry. -/
  | tdef (a : Reg) (b : Reg)
  /-- TQRY (R356): Returns the state of a tensor-table entry. -/
  | tqry (a : Reg) (c : Reg)
  /-- TTAG_FULL (R338): Marks an operand tensor FULL and moves its handle to the engine. -/
  | ttagFull (a : Reg)
  /-- TTAG_EMPTY (R338): Marks a destination tensor EMPTY and moves its handle to the engine. -/
  | ttagEmpty (a : Reg)
  /-- TTAG_WAITFULL (R338): Waits until a tensor's tag is FULL. -/
  | ttagWaitfull (a : Reg)
  /-- TTAG_WAITEMPTY (R338): Waits until a tensor's tag is EMPTY. -/
  | ttagWaitempty (a : Reg)
  /-- GATH (R344): Sets the row source of a binding. -/
  | gath (a : Reg) (b : Reg) (m : BitVec 2)
  /-- MMBIND (R339): Makes a matrix binding live. -/
  | mmbind (a : Reg) (b : Reg) (c : Reg)
  /-- MMUNB (R355): Ends a binding and returns its tensors to their givers. -/
  | mmunb (a : Reg)
  /-- MMEPI (R345): Sets where a binding sends its drained results. -/
  | mmepi (a : Reg) (b : Reg) (c : Reg) (x : Bool) (m : BitVec 2)
  /-- MMSMX_START (R347): Makes two bindings a softmax pair. -/
  | mmsmxStart (a : Reg) (b : Reg) (c : Reg)
  /-- MMSMX_FIN (R349): Finishes a softmax pair with division and drain. -/
  | mmsmxFin (a : Reg) (b : Reg) (c : Reg)
  /-- MMSTAT (R357): Returns binding status or a softmax side register. -/
  | mmstat (a : Reg) (c : Reg) (s : BitVec 2)
  /-- QTLD (R366): Queues a table-set load for a wiring context. -/
  | qtld (a : Reg) (b : Reg)
  /-- QWLD (R366): Queues a wiring-set load for a wiring context. -/
  | qwld (a : Reg) (b : Reg)
  /-- QCTX_CLAIM (R362): Takes ownership of the marquetry fabric and resets its state. -/
  | qctxClaim
  /-- QCTX_RELEASE (R367): Queues the release of fabric ownership. -/
  | qctxRelease
  /-- QCTX_CLEAR (R367): Queues a clear of the fabric's planes, poison mask and stop. -/
  | qctxClear
  /-- QRUN (R368): Queues an evaluation of a range of wiring contexts. -/
  | qrun (a : Reg)
  /-- XPOSE (R369): Queues a transposition of an A-buffer tensor into input planes. -/
  | xpose (a : Reg) (b : Reg) (c : Reg)
  /-- XPOSB (R370): Queues a write of planes back to bytes in the A buffer. -/
  | xposb (a : Reg) (b : Reg)
  /-- QPOPC (R372): Queues a popcount of planes to tokens, a row or a laminated register. -/
  | qpopc (a : Reg) (b : Reg) (c : Reg) (k : Bool) (d : BitVec 2)
  /-- QBRK (R373): Queues a setting of a wiring context's breakpoint comparator. -/
  | qbrk (a : Reg) (c : BitVec 2)
  /-- QSTAT_MQ (R377): Returns fabric status, optionally after the queue empties. -/
  | qstatMq (c : Reg) (s : BitVec 2)
  /-- QPUSH (R253): Appends a packet to a dispatcher queue unless it is full. -/
  | qpush (g : Guard) (d : Reg) (a : Reg) (b : Reg)
  /-- QPUSHW (R253): Appends a packet to a dispatcher queue, waiting while it is full. -/
  | qpushw (g : Guard) (a : Reg) (b : Reg)
  /-- QPOP (R253): Removes the head packet of a queue into memory. -/
  | qpop (g : Guard) (d : Reg) (a : Reg) (b : Reg)
  /-- QSTAT (R253): Returns the status of a dispatcher queue. -/
  | qstat (g : Guard) (d : Reg) (a : Reg)
  /-- DOZE (R254): Waits for the event count to be non-zero or for a timeout. -/
  | doze (g : Guard) (d : Reg) (a : Reg)
  /-- POKE (R254): Adds 1 to the event count of one or all contexts of the task. -/
  | poke (g : Guard) (a : Reg)
  /-- MFSR (R243): Reads a system register into a scalar. -/
  | mfsr (d : Reg) (r : Half)
  /-- MTSR (R243): Writes a scalar to a system register. -/
  | mtsr (a : Reg) (r : Half)
  /-- TLBINV (R255): Invalidates the TLB entries covering one page within a scope. -/
  | tlbinv (g : Guard) (s : Scope) (a : Reg) (b : Reg)
  /-- TLBINV_ASID (R255): Invalidates every non-global TLB entry of an ASID within a scope. -/
  | tlbinvAsid (g : Guard) (s : Scope) (b : Reg)
  /-- TLBINV_ALL (R255): Invalidates every TLB entry within a scope. -/
  | tlbinvAll (g : Guard) (s : Scope)
  /-- ICINV (R256): Invalidates one page in the core's fetch caches. -/
  | icinv (g : Guard) (a : Reg)
  /-- ICINV_ALL (R256): Invalidates every page of the ASID in the core's fetch caches. -/
  | icinvAll (g : Guard)
  /-- CLAMP (R257): Requests the clamp wave of the job with cause BRKPT. -/
  | clamp (g : Guard)
  /-- CTXSAVE (R257): Service core saves a context and returns its key. -/
  | ctxsave (g : Guard) (d : Reg) (a : Reg) (b : Reg)
  /-- CTXREST (R257): Service core restores a saved context into the lowest free slot. -/
  | ctxrest (g : Guard) (d : Reg) (a : Reg) (b : Reg)
  /-- TRCON (R423): Starts trace of the context for event classes. -/
  | trcon (g : Guard) (a : Reg)
  /-- TRCOFF (R257): Stops trace of the context. -/
  | trcoff (g : Guard)
  /-- TRMARK (R257): Writes a MARK trace record. -/
  | trmark (g : Guard) (a : Reg)
  /-- LDECL (R299): Sequencer declares a laminated register and discards its plies. -/
  | ldecl (a : Reg) (l : LReg)
  /-- PLY (R299): Sequencer contributes a value to one lane of a laminated register. -/
  | ply (a : Reg) (l : LReg) (n : BitVec 5) (y : BitVec 3)
  /-- RDL (R299): Sequencer gathers and reads one lane of a laminated register. -/
  | rdl (d : Reg) (l : LReg) (n : BitVec 5) (m : RdlMode)
  /-- SETTLE (R299): Sequencer combines a register's plies into its home ply. -/
  | settle (l : LReg)
  /-- FADD (R277): Element adds lanes, rounded once. -/
  | fadd (h : EHdr) (y : Ty) (r : RMode)
  /-- FSUB (R277): Element subtracts lanes, rounded once. -/
  | fsub (h : EHdr) (y : Ty) (r : RMode)
  /-- FMUL (R277): Element multiplies lanes, rounded once. -/
  | fmul (h : EHdr) (y : Ty) (r : RMode)
  /-- FFMA (R277): Element fused multiply-add per lane. -/
  | ffma (h : EHdr) (y : Ty) (r : RMode)
  /-- FFMS (R277): Element fused multiply-subtract per lane. -/
  | ffms (h : EHdr) (y : Ty) (r : RMode)
  /-- FMIN (R278): Element floating minimum per lane. -/
  | fmin (h : EHdr) (y : Ty)
  /-- FMAX (R278): Element floating maximum per lane. -/
  | fmax (h : EHdr) (y : Ty)
  /-- FABS (R278): Element clears the sign per lane. -/
  | fabs (h : EHdr) (y : Ty)
  /-- FNEG (R278): Element inverts the sign per lane. -/
  | fneg (h : EHdr) (y : Ty)
  /-- FRCP (R279): Element FP32 reciprocal per lane. -/
  | frcp (h : EHdr)
  /-- FSQRT (R279): Element FP32 square root per lane. -/
  | fsqrt (h : EHdr)
  /-- FRSQ (R279): Element FP32 reciprocal square root per lane. -/
  | frsq (h : EHdr)
  /-- FEXP2 (R279): Element FP32 power of two per lane. -/
  | fexp2 (h : EHdr)
  /-- FLOG2 (R279): Element FP32 base-2 logarithm per lane. -/
  | flog2 (h : EHdr)
  /-- FTANH (R279): Element FP32 hyperbolic tangent per lane. -/
  | ftanh (h : EHdr)
  /-- FCMP (R280): Element floating comparison giving 1 or 0 per lane. -/
  | fcmp (h : EHdr) (y : Ty) (c : FCond)
  /-- CVT (R281): Element converts lanes between types. -/
  | cvt (h : EHdr) (y : Ty) (r : RMode) (s : Ty) (u : Bool) (v : Bool)
  /-- IADD (R282): Element integer add, wrapping or saturating. -/
  | iadd (h : EHdr) (y : Ty) (u : Bool) (s : Bool)
  /-- ISUB (R282): Element integer subtract, wrapping or saturating. -/
  | isub (h : EHdr) (y : Ty) (u : Bool) (s : Bool)
  /-- IMUL (R282): Element integer multiply, low half. -/
  | imul (h : EHdr) (y : Ty)
  /-- IMULH (R282): Element integer multiply, high half. -/
  | imulh (h : EHdr) (y : Ty) (u : Bool)
  /-- IMAD (R282): Element integer multiply-add. -/
  | imad (h : EHdr) (y : Ty) (u : Bool) (s : Bool)
  /-- IAND (R282): Element bitwise AND. -/
  | iand (h : EHdr) (y : Ty)
  /-- IOR (R282): Element bitwise OR. -/
  | ior (h : EHdr) (y : Ty)
  /-- IXOR (R282): Element bitwise XOR. -/
  | ixor (h : EHdr) (y : Ty)
  /-- ISHL (R282): Element shift left. -/
  | ishl (h : EHdr) (y : Ty)
  /-- ISHR (R282): Element logical shift right. -/
  | ishr (h : EHdr) (y : Ty)
  /-- ISRA (R282): Element arithmetic shift right. -/
  | isra (h : EHdr) (y : Ty)
  /-- IMIN (R282): Element integer minimum. -/
  | imin (h : EHdr) (y : Ty) (u : Bool)
  /-- IMAX (R282): Element integer maximum. -/
  | imax (h : EHdr) (y : Ty) (u : Bool)
  /-- ICMP (R283): Element integer comparison giving 1 or 0 per lane. -/
  | icmp (h : EHdr) (y : Ty) (c : Cond)
  /-- SEL_E (R284): Element selects between two operands lane by lane. -/
  | selE (h : EHdr)
  /-- MOV (R284): Element copies its operand or delivers its constant. -/
  | mov (h : EHdr)
  /-- LBC (R285): Element broadcasts one lane to all lanes. -/
  | lbc (h : EHdr) (x : BitVec 5)
  /-- LSHF (R285): Element rotates or shifts lanes. -/
  | lshf (h : EHdr) (z : Shuffle) (x : BitVec 5)
  /-- LRED (R286): Element reduces its lanes into every lane. -/
  | lred (h : EHdr) (y : Ty) (z : RedOp)
  /-- PACK (R287): Element joins two colours' tokens into one. -/
  | pack (h : EHdr) (c : BitVec 8)
  /-- UNPACK (R287): Element splits one token into two colours. -/
  | unpack (h : EHdr)
  /-- CTXA (R288): Element allocates a colour. -/
  | ctxa (h : EHdr)
  /-- CTXF (R289): Element moves a colour to DRAINING at commit. -/
  | ctxf (h : EHdr)
  /-- NULL (R290): Element delivers a null token. -/
  | null (h : EHdr)
  /-- EXIT (R292): Element counts an exit of its instance. -/
  | exit (h : EHdr)
  /-- STEER (R291): Element steers its operand to one of two targets. -/
  | steer (h : EHdr)
  /-- MERGE (R290): Element delivers the single non-null operand. -/
  | merge (h : EHdr)
  /-- SINK (R293): Element holds a token for the sequencer until commit. -/
  | sink (h : EHdr)
  /-- LDECL_E (R294): Element declares a laminated register at commit. -/
  | ldeclE (h : EHdr) (l : LReg)
  /-- PLY_E (R295): Element contributes lanes to a laminated register at commit. -/
  | plyE (h : EHdr) (y : Ty) (l : LReg)
  /-- RDL_E (R296): Element gathers and reads a laminated register. -/
  | rdlE (h : EHdr) (z : RdlMode) (l : LReg)
  /-- SETTLE_E (R297): Element settles a laminated register into its home ply at commit. -/
  | settleE (h : EHdr) (l : LReg)
  /-- CNT (R301): Configuration-slot counter node of a counter chain. -/
  | cnt (h : EHdr) (c : BitVec 2) (v : BitVec 2)
  /-- ACC (R302): Configuration-slot accumulator of runs closed by LAST tokens. -/
  | acc (h : EHdr) (y : Ty) (z : RedOp)
  /-- LDE (R306): Element loads one element per lane from global memory. -/
  | lde (h : EHdr) (y : Ty) (i : BitVec 5) (q : ElemOrd)
  /-- LDSC_E (R322): Element SC load per lane. -/
  | ldscE (h : EHdr) (y : Ty) (i : BitVec 5)
  /-- STE (R306): Element stores one element per lane at commit. -/
  | ste (h : EHdr) (y : Ty) (i : BitVec 5) (q : ElemOrd)
  /-- STSC_E (R322): Element SC store per lane at commit. -/
  | stscE (h : EHdr) (y : Ty) (i : BitVec 5)
  /-- BLD_E (R309): Element loads per lane from a typed buffer. -/
  | bldE (h : EHdr) (y : Ty) (i : BitVec 5) (q : ElemOrd)
  /-- BST_E (R309): Element stores per lane to a typed buffer at commit. -/
  | bstE (h : EHdr) (y : Ty) (i : BitVec 5) (q : ElemOrd)
  /-- AADD_E (R320): Element atomic add per lane at commit. -/
  | aaddE (h : EHdr) (i : BitVec 5) (q : ElemOrd)
  /-- AAND_E (R320): Element atomic AND per lane at commit. -/
  | aandE (h : EHdr) (i : BitVec 5) (q : ElemOrd)
  /-- AOR_E (R320): Element atomic OR per lane at commit. -/
  | aorE (h : EHdr) (i : BitVec 5) (q : ElemOrd)
  /-- AXOR_E (R320): Element atomic XOR per lane at commit. -/
  | axorE (h : EHdr) (i : BitVec 5) (q : ElemOrd)
  /-- AMIN_E (R320): Element atomic signed minimum per lane. -/
  | aminE (h : EHdr) (i : BitVec 5) (q : ElemOrd)
  /-- AMAX_E (R320): Element atomic signed maximum per lane. -/
  | amaxE (h : EHdr) (i : BitVec 5) (q : ElemOrd)
  /-- AMINU_E (R320): Element atomic unsigned minimum per lane. -/
  | aminuE (h : EHdr) (i : BitVec 5) (q : ElemOrd)
  /-- AMAXU_E (R320): Element atomic unsigned maximum per lane. -/
  | amaxuE (h : EHdr) (i : BitVec 5) (q : ElemOrd)
  /-- ASWP_E (R320): Element atomic swap per lane. -/
  | aswpE (h : EHdr) (i : BitVec 5) (q : ElemOrd)
  /-- ACAS_E (R320): Element atomic compare-and-swap per lane. -/
  | acasE (h : EHdr) (i : BitVec 5) (q : ElemOrd)
  /-- AFMIN_E (R320): Element atomic FP32 minimum per lane. -/
  | afminE (h : EHdr) (i : BitVec 5) (q : ElemOrd)
  /-- AFMAX_E (R320): Element atomic FP32 maximum per lane. -/
  | afmaxE (h : EHdr) (i : BitVec 5) (q : ElemOrd)
  /-- AXADD_E (R321): Element adds lanes exactly into an accumulate object at commit. -/
  | axaddE (h : EHdr) (f : AxFmt) (i : BitVec 5) (q : ElemOrd)
  /-- AXRD_E (R321): Element reads an accumulate object rounded once. -/
  | axrdE (h : EHdr) (f : AxFmt) (i : BitVec 5) (q : ElemOrd)
  /-- AXCLR_E (R321): Element clears an accumulate object at commit. -/
  | axclrE (h : EHdr) (i : BitVec 5) (q : ElemOrd)
  /-- COPY_E (R314): Element sends a copy command token to the copy engine at commit. -/
  | copyE (h : EHdr)
  /-- HOST_POSTED_WRITE (R141): A posted host write reaches the hub die and is performed in order. -/
  | hostPostedWrite (f : Nat) (b : Nat) (o : Nat) (x : List Byte) (ro : Bool)
  /-- HOST_READ (R141): A host read is performed after the function's earlier posted writes. -/
  | hostRead (f : Nat) (b : Nat) (o : Nat) (n : Nat)
  /-- HOST_COMPLETION (R67): A completion for a device read of host memory arrives. -/
  | hostCompletion (i : Nat) (x : List Byte)
  /-- COMPLETION_TIMEOUT (R67): A device read of host memory times out and is answered as poisoned. -/
  | completionTimeout (i : Nat)
  /-- QDB_RING (R380): A doorbell write appends the staged packet to a queue or refuses it. -/
  | qdbRing (r : Src) (q : Nat) (v : Word)
  /-- REGISTER_WRITE (R20): A write to a device register without behaviour of its own, checked and possibly refused. -/
  | registerWrite (r : Src) (pa : Nat) (n : Nat) (v : Word)
  /-- VIOLATION_ENTRY_FREE (R43): Writing 1 to VALID frees a violation log entry. -/
  | violationEntryFree (r : Src) (d : Nat) (e : Nat)
  /-- FQCTL_WRITE (R39): Writing FQCTL captures the fault ring address and enables records. -/
  | fqctlWrite (r : Src) (c : Nat) (k : Nat) (v : Word)
  /-- FQPTR_WRITE (R39): Writing TAIL releases fault records, subject to the release check. -/
  | fqptrWrite (r : Src) (c : Nat) (k : Nat) (v : Word)
  /-- OVFBASE_WRITE (R173): Writing OVFBASE captures the overflow region. -/
  | ovfbaseWrite (r : Src) (c : Nat) (k : Nat) (v : Word)
  /-- BWCTL_WRITE (R106): Setting EN starts metering window 0 with full buckets. -/
  | bwctlWrite (r : Src) (c : Nat) (v : Word)
  /-- BWSHARE_WRITE (R106): A tenant share write is checked and staged for the next refill. -/
  | bwshareWrite (r : Src) (c : Nat) (t : Nat) (v : Word)
  /-- TRAPREQ_DONE (R249): Writing DONE retires a waiting TRAP. -/
  | trapreqDone (r : Src) (c : Nat) (k : Nat)
  /-- FIRSTX_REARM (R398): Writing 1 to FIRSTX.VALID re-arms the first-exception latch. -/
  | firstxRearm (r : Src) (c : Nat) (k : Nat)
  /-- UEADDR_CLEAR (R89): Writing 1 to UEADDR.VALID clears the uncorrectable-address record. -/
  | ueaddrClear (r : Src) (s : Nat)
  /-- CONFIG_SPACE_WRITE (R23): A configuration-space write is refused or takes effect at the context's next firing. -/
  | configSpaceWrite (r : Src) (pa : Nat) (n : Nat) (v : Word)
  /-- JOBCTL_KILL (R400): Writing KILL ends every context of the job without a save. -/
  | jobctlKill (r : Src) (j : Nat)
  /-- CLAMPCMD_CLAMP (R408): The debugger requests the clamp wave of a job. -/
  | clampcmdClamp (r : Src) (j : Nat) (v : Word)
  /-- CLAMPCMD_FIRE (R417): Performs one firing of a clamped context in canonical order. -/
  | clampcmdFire (r : Src) (j : Nat) (v : Word)
  /-- CLAMPCMD_BLOCK (R418): Runs a clamped context until its oldest uncommitted instance commits. -/
  | clampcmdBlock (r : Src) (j : Nat) (v : Word)
  /-- CLAMPCMD_TICK (R419): Runs the job for one named tick and clamps again. -/
  | clampcmdTick (r : Src) (j : Nat) (v : Word)
  /-- CLAMPCMD_UNCLAMP (R419): Schedules the job's resume at the start of a named tick. -/
  | clampcmdUnclamp (r : Src) (j : Nat) (v : Word)
  /-- CLAMPCMD_REVERSE (R431): Restores the checkpoint and replays to one firing before the present cut. -/
  | clampcmdReverse (r : Src) (j : Nat) (v : Word)
  /-- DBGDATA_WRITE (R422): The debugger writes a selected register or laminated lane of a clamped context. -/
  | dbgdataWrite (r : Src) (c : Nat) (k : Nat) (v : Word)
  /-- DBGDATA_READ (R421): The debugger reads a selected register or gathers a laminated lane without changing plies. -/
  | dbgdataRead (r : Src) (c : Nat) (k : Nat)
  /-- QUEUE_RESET (R445): QRST removes a queue's packets and ends its tasks. -/
  | queueReset (r : Src) (q : Nat)
  /-- CORE_RESET (R445): CORERST ends the core's jobs and zeroes its buffers and caches. -/
  | coreReset (r : Src) (c : Nat)
  /-- DIE_RESET (R445): DIERST writes back the die's slices, ends its jobs and resets the die. -/
  | dieReset (r : Src) (d : Nat)
  /-- DEVICE_RESET (R445): PERST#, power-on or DEVRST resets the device and starts the boot ROM. -/
  | deviceReset
  /-- BOOT_IMAGE_FETCHED (R442): The fetched boot image is verified and the service cores start or the failure is recorded. -/
  | bootImageFetched (x : List Byte)
  /-- BOOT_RETRY (R441): After 8 s a failed boot retries from the network step. -/
  | bootRetry
  /-- WALK_COMPLETE (R30): A page-table walk returns and fills the bay TLB and micro-TLB or faults. -/
  | walkComplete (i : Nat)
  /-- FAULTED_UNIT_RESTART (R41): A unit stopped at a fault restarts once its record is released. -/
  | faultedUnitRestart (c : Nat) (k : Nat) (i : Nat)
  /-- SLICE_ACCESS (R66): A home slice accepts and performs a request for one line. -/
  | sliceAccess (i : Nat)
  /-- LINE_FILL (R82): A line missing in a slice returns from HBM4 and is merged. -/
  | lineFill (s : Nat) (n : Nat) (x : Ecc)
  /-- PATROL_SCRUB (R88): The patrol scrubber reads the next sector of its stack. -/
  | patrolScrub (s : Nat) (x : Ecc)
  /-- SC_TOKEN_VISIT (R124): The SC token visits a slice, which performs up to four SC operations. -/
  | scTokenVisit (s : Nat)
  /-- REMOTE_BUFFER_REQUEST (R50): A remote typed-buffer request arrives and is served at the owning core's narrow port. -/
  | remoteBufferRequest (i : Nat)
  /-- PACKET_HOP (R73): A packet's head takes a buffer at the next router. -/
  | packetHop (i : Nat)
  /-- PACKET_ACCEPT (R74): A packet is accepted at its destination. -/
  | packetAccept (i : Nat)
  /-- RESERVATION_HEADER (R77): A reserved flow's header reserves output link slots at a router. -/
  | reservationHeader (i : Nat)
  /-- ESCAPE_OCCUPANCY_TIMEOUT (R76): An escape buffer occupied for 4,096 cycles puts the waiting flow into reservation mode. -/
  | escapeOccupancyTimeout (i : Nat)
  /-- FLOW_IDLE_TIMEOUT (R76): A flow idle for 1,024 cycles returns to normal mode. -/
  | flowIdleTimeout (i : Nat)
  /-- BW_WINDOW_REFILL (R105): At the end of a 1,024-cycle window every tenant bucket is refilled. -/
  | bwWindowRefill (c : Nat)
  /-- HANDLE_DRAIN_COMPLETE (R52): A DRAINING descriptor becomes OFFERED once the giver's accesses are performed. -/
  | handleDrainComplete (c : Nat) (p : Nat) (i : Nat)
  /-- HANDLE_MOVE_COMPLETE (R337): A handle move to or from an engine completes. -/
  | handleMoveComplete (c : Nat) (p : Nat) (i : Nat)
  /-- GRANULE_CLEAR_COMPLETE (R311): A freed descriptor's granules finish clearing and become free. -/
  | granuleClearComplete (c : Nat) (p : Nat)
  /-- COPY_COMMAND_TOKEN (R314): A copy command token at hard port 22 makes the copy engine issue the copy. -/
  | copyCommandToken (c : Nat) (k : Nat)
  /-- COPY_CHUNK (R315): The copy engine reads and writes one 4 KiB chunk. -/
  | copyChunk (c : Nat) (i : Nat)
  /-- COPY_RETIRE (R315): A copy retires after its last chunk, freeing its scoreboard entry. -/
  | copyRetire (c : Nat) (i : Nat)
  /-- TOKEN_ARRIVE (R171): A token reaches an element and completes a set, is stored or is diverted. -/
  | tokenArrive (c : Nat) (e : Nat) (i : Nat)
  /-- OVERFLOW_REINJECT (R174): The fabric edge re-injects an overflow record into its element. -/
  | overflowReinject (c : Nat) (k : Nat) (e : Nat)
  /-- ELEMENT_ISSUE (R172): An element issues the oldest ready matched set whose port registers are free. -/
  | elementIssue (c : Nat) (e : Nat)
  /-- FIRING_RESULT (R276): A firing's result enters its port registers after the operation latency. -/
  | firingResult (c : Nat) (i : Nat)
  /-- LOAD_RESPONSE (R307): A response to an element load arrives and its lanes go to the targets. -/
  | loadResponse (c : Nat) (i : Nat)
  /-- TOKEN_HOP (R178): A token moves into the next skid buffer or its destination under the handshake. -/
  | tokenHop (c : Nat) (i : Nat)
  /-- INSTANCE_CREATE (R162): A BLKRUN in progress creates the next instance of its range. -/
  | instanceCreate (c : Nat) (k : Nat)
  /-- INSTANCE_COMMIT (R160): The commit port commits the oldest complete instance of a context. -/
  | instanceCommit (c : Nat)
  /-- PLY_PUSH_ARRIVE (R63): A pushed ply is combined into the home ply and the transit bit clears. -/
  | plyPushArrive (c : Nat) (k : Nat) (l : LReg)
  /-- LAMINATED_GATHER (R64): A gather takes copies of a register's present plies after the transit bit clears. -/
  | laminatedGather (c : Nat) (k : Nat) (l : LReg)
  /-- CONFIG_RECORD_FETCH (R188): An element record fetched for a waiting token is written into its way. -/
  | configRecordFetch (c : Nat) (k : Nat) (e : Nat)
  /-- JIG_PLACEMENT (R193): The jig finishes a placement attempt and writes or fails it. -/
  | jigPlacement (c : Nat) (k : Nat)
  /-- FRONT_END_FETCH (R163): The block front end places a predicted successor and creates its instance. -/
  | frontEndFetch (c : Nat) (k : Nat)
  /-- COUNTER_EMIT (R301): A counter node emits its next index token. -/
  | counterEmit (c : Nat) (k : Nat) (e : Nat) (m : Nat)
  /-- ROUND_BOUNDARY (R166): At the round boundary staged constants become current and chains restart. -/
  | roundBoundary (c : Nat) (k : Nat)
  /-- ACC_FLUSH (R302): An ACC run is flushed once nothing older is outstanding. -/
  | accFlush (c : Nat) (k : Nat) (e : Nat)
  /-- COLOUR_FREE (R152): A DRAINING colour with nothing outstanding becomes FREE. -/
  | colourFree (c : Nat) (k : Nat) (n : Byte)
  /-- STREAM_RUN (R266): A stream reads or writes one run of elements as one token. -/
  | streamRun (c : Nat) (p : Nat)
  /-- STREAM_COMPLETE (R267): A stream command completes and the port starts its next command. -/
  | streamComplete (c : Nat) (p : Nat)
  /-- NM_COMMAND_ARRIVE (R95): A near-memory command reaches its engine's queue. -/
  | nmCommandArrive (s : Nat)
  /-- NM_SLOT_START (R95): A queued command takes a free slot and is checked. -/
  | nmSlotStart (s : Nat)
  /-- NM_RANGE_LOCK (R97): After translation a command takes its range lock and its lines are written back. -/
  | nmRangeLock (s : Nat) (n : Nat)
  /-- NM_CHUNK (R98): A slot processes one chunk of its primary range. -/
  | nmChunk (s : Nat) (n : Nat)
  /-- NM_COMPLETE (R101): A command's results, ply and completion record are written and its lock released. -/
  | nmComplete (s : Nat) (n : Nat)
  /-- MM_FIRING_START (R340): The array starts a ready binding firing. -/
  | mmFiringStart (c : Nat)
  /-- MM_GATHER_COMPLETE (R342): The gather unit has read a firing's A rows into the operand latch. -/
  | mmGatherComplete (c : Nat)
  /-- MM_KGROUP (R341): A k-group's short sums enter the plane. -/
  | mmKgroup (c : Nat)
  /-- MM_FIRING_END (R342): A firing's operands are consumed and non-sticky tensors return. -/
  | mmFiringEnd (c : Nat)
  /-- MM_INDEX_SET_ARRIVE (R344): A complete index set arrives at hard port 17. -/
  | mmIndexSetArrive (c : Nat) (k : Nat)
  /-- MM_DRAIN_ROW (R343): One plane row is written to DX or sent as tokens. -/
  | mmDrainRow (c : Nat)
  /-- MM_DRAIN_COMPLETE (R343): A drain ends; DX becomes FULL and the plane frees. -/
  | mmDrainComplete (c : Nat)
  /-- MM_SOFTMAX_ROW (R348): The engine processes one row of a score chain for online softmax. -/
  | mmSoftmaxRow (c : Nat)
  /-- MQ_COMMAND_START (R363): The fabric begins the command at the head of its queue. -/
  | mqCommandStart (c : Nat)
  /-- MQ_EVALUATION (R361): The fabric evaluates one wiring context over 256 lanes. -/
  | mqEvaluation (c : Nat)
  /-- MQ_COMMAND_COMPLETE (R363): A fabric command completes and returns handles no longer named. -/
  | mqCommandComplete (c : Nat)
  /-- MQ_POPCOUNT_DELIVER (R372): A popcount delivers its counts as a token, row or ply. -/
  | mqPopcountDeliver (c : Nat)
  /-- PACKET_AT_HEAD (R382): A packet reaches a queue's head and is checked or refused. -/
  | packetAtHead (q : Nat)
  /-- DISPATCH_DECISION (R386): The dispatcher chooses a ready head to start. -/
  | dispatchDecision
  /-- WAITSIG_POLL (R384): The dispatcher rereads a WAITSIG word. -/
  | waitsigPoll (q : Nat)
  /-- SIGNAL_PERFORM (R384): A SIGNAL adds to its word once earlier tasks have retired. -/
  | signalPerform (q : Nat)
  /-- PHASE_END (R391): A PHASE packet compares signatures and advances the phase. -/
  | phaseEnd (q : Nat)
  /-- DETLEVEL_APPLY (R392): A DETLEVEL sets the job's determinism level once earlier tasks retire. -/
  | detlevelApply (q : Nat)
  /-- MEMBER_END (R388): A member ends, releasing its descriptors, slot and quota. -/
  | memberEnd (c : Nat) (k : Nat)
  /-- WATCHDOG_EXPIRE (R399): A context without progress for LIMIT cycles raises WATCHDOG. -/
  | watchdogExpire (c : Nat) (k : Nat)
  /-- QPUSHW_TIMEOUT (R389): A QPUSHW waiting QTMO cycles raises QFULLTMO. -/
  | qpushwTimeout (c : Nat) (k : Nat)
  /-- DOZE_TIMEOUT (R254): A DOZE times out and returns 0. -/
  | dozeTimeout (c : Nat) (k : Nat)
  /-- POKE_DELIVER (R254): A poke reaches a context and raises its event count, waking a DOZE. -/
  | pokeDeliver (c : Nat) (k : Nat)
  /-- BARRIER_ARRIVAL (R324): An arrival is counted and may complete a barrier generation. -/
  | barrierArrival (c : Nat) (k : Nat)
  /-- QUIESCENCE_DRAIN_END (R402): The drain stage of gating ends. -/
  | quiescenceDrainEnd (c : Nat) (k : Nat)
  /-- QUIESCENCE_STOP_END (R402): The stop stage of gating ends. -/
  | quiescenceStopEnd (c : Nat) (k : Nat)
  /-- QUIESCENCE_REPORT (R402): The quiescence tree reports the context quiescent after capture. -/
  | quiescenceReport (c : Nat) (k : Nat)
  /-- CONTEXT_SAVED (R405): A save finishes with a DEV-scope release and the slot frees. -/
  | contextSaved (c : Nat) (k : Nat)
  /-- RESTORE_COMPLETE (R196): A restore's placements are written back and the context resumes its prior state. -/
  | restoreComplete (c : Nat) (k : Nat)
  /-- CLAMP_REQUEST (R408): A clamp request reaches the device's clamp arbiter. -/
  | clampRequest (i : Nat)
  /-- CLAMP_LAND (R410): The clamp lands on the device and freezes the job. -/
  | clampLand (j : Nat)
  /-- CLAMP_RESUME (R420): At the resume boundary stale plies are discarded and the job proceeds. -/
  | clampResume (j : Nat)
  /-- BLOCK_STEP_TIMEOUT (R418): A BLOCK step ends after 65,536 cycles without the commit. -/
  | blockStepTimeout (j : Nat)
  /-- TICK_STEP_END (R419): A TICK step ends at its boundary and the job clamps again. -/
  | tickStepEnd (j : Nat)
  /-- EXCHANGE_FLIT_RECEIVE (R436): An exchange port receives a flit, checks it and forwards or delivers it. -/
  | exchangeFlitReceive (p : Nat) (f : Flit)
  /-- EXCHANGE_REPLAY (R437): A NAK of sequence number n makes the sender replay from that flit; repeated failure takes the port down. -/
  | exchangeReplay (p n : Nat)
  /-- MESSAGE_DELIVERY (R328): The delivery path writes a message into a posted receive buffer. -/
  | messageDelivery (c : Nat) (k : Nat)
  /-- RED_CONTRIBUTION_ARRIVE (R331): A reduction contribution reaches a root slot and is combined, refused or answered late. -/
  | redContributionArrive (x : Contribution)
  /-- RED_SLOT_TIMEOUT (R333): A reduction slot times out and delivers a TIMEOUT result. -/
  | redSlotTimeout (i : Nat)
  /-- RED_RESULT_ARRIVE (R334): A reduction result reaches the waiting contributor. -/
  | redResultArrive (c : Nat) (k : Nat) (x : RedResult)
  /-- PTP_MESSAGE (R439): A PTP message updates the time discipline and LOCK. -/
  | ptpMessage (t : Word) (v : Bool)
  /-- TICK_BOUNDARY (R440): An exchange tick boundary passes. -/
  | tickBoundary
  /-- TEMP_NOTIFY (R446): Junction temperature of 105 °C notifies the service cores. -/
  | tempNotify
  /-- TEMP_TRIP (R446): Junction temperature of 115 °C resets the device. -/
  | tempTrip
  /-- POWER_LIMIT_WINDOW (R446): Averaged power over PWRLIM makes the limiter withhold engine issue cycles. -/
  | powerLimitWindow (w : Nat)
  /-- RESERVED_ENCODING (R224): The sequencer reaches a word with a reserved encoding and raises ILLOP at its address without retiring it. -/
  | reservedEncoding
  /-- HOLDOVER (R439): The timing unit loses lock, keeps time in holdover, clears LOCK and notifies the service cores. -/
  | holdover
  /-- ATOMICOP_REQUEST (R432): A host PCIe AtomicOp (FetchAdd, Swap or CAS) to device memory is performed and completed. -/
  | atomicopRequest (f : Nat) (b : Nat) (o : Nat) (op : HostAtomic) (n : Nat) (v : Word) (u : Word)
  /-- ATTESTATION_REPORT (R443): The security block signs a report binding a requester's nonce, identity and measurements, advancing the LMS counter and setting LMSEXH when it is spent. -/
  | attestationReport (x : List Byte)
  /-- MEASUREMENT_EXTEND (R443): Service-core software extends a measurement register as m := SHA-384(m ‖ x). -/
  | measurementExtend (r : Src) (i : Nat) (x : List Byte)
  /-- HEALTH_MONITOR_UPDATE (R444): The health monitors sample the path-delay replica or ECC rate and update MARGIN, DRIFT and EOLMON. -/
  | healthMonitorUpdate (c : Nat) (x : Nat)
  /-- BOOT_NETWORK_FAILURE (R441): The ROM's DHCP or TFTP exchange fails, records code 1 in BOOTSTAT and waits 8 s before retrying. -/
  | bootNetworkFailure
  deriving DecidableEq, Repr

end Sys2Proof
end

