-- ==== Sys2Proof/WellFormed.lean ====
section
/-! DEFINITION. Which instructions are well formed: what a reserved encoding would break beyond the opcode maps
(R217, R221–R229, R243, R272), by name, and the unit numbers an event may carry. -/
namespace Sys2Proof

/-- What is wrong with an instruction. -/
inductive Flaw where
  | guard | destinationP0 | systemRegister | scope | spaceCode | header | predicateMode | operandCount | type | rounding
  | conversion | ordering | unitNumber | outputPort
  deriving DecidableEq, Repr

/-- GP = 0 with GN = 1 is reserved (R217). -/
def Guard.ok (g : Guard) : Bool := g.p != 0 || !g.neg

/-- The numbers of R243 and R310. -/
def isSysreg (r : Half) : Bool :=
  [0x0000, 0x0001, 0x0010, 0x0011, 0x0012, 0x0013, 0x0020, 0x0021, 0x0030, 0x0031, 0x0040, 0x0080, 0x0081,
    0x0082].contains r.toNat || (0x0050 ≤ r.toNat && r.toNat ≤ 0x005F)

/-- One when the word names a constant register, else zero (R226). -/
def EHdr.consts (h : EHdr) : Nat := if h.ks = 7 then 0 else 1

/-- The combinations of R226 that no element word may have. -/
def EHdr.ok (h : EHdr) : Bool :=
  h.nt.toNat + h.consts ≤ 3 && (if h.ks = 7 then h.kp == 0 else h.kp.toNat ≤ h.nt.toNat) &&
    (h.nt != 0 || h.pm == .always)

/-- The count of data operands lies between these bounds (R272, R304). -/
def EHdr.arity (h : EHdr) (lo hi : Nat) : Bool :=
  let p := if h.pm = .always then 0 else 1
  lo + p ≤ h.nt.toNat + h.consts && h.nt.toNat + h.consts ≤ hi + p

/-- The count of data operands of NULL: none with NT = 0, else one (R272). -/
def EHdr.nullArity (h : EHdr) : Bool := if h.nt = 0 then h.consts == 0 else h.arity 1 1

/-- A word of an operation with no result uses no output port (R225, R229). -/
def EHdr.noPort (h : EHdr) : Bool := h.om == 0

/-- FP32, BF16 and FP16 (R227). -/
def Ty.isFloat : Ty → Bool | .fp32 => true | .bf16 => true | .fp16 => true | _ => false
/-- INT32, INT16 and INT8 (R227). -/
def Ty.isInt : Ty → Bool | .i32 => true | .i16 => true | .i8 => true | _ => false
/-- The modes that arithmetic accepts (R205). -/
def RMode.directed : RMode → Bool | .sr => false | .dr => false | _ => true
/-- Which types an operator of LRED and ACC takes (R286). -/
def RedOp.suits (z : RedOp) (y : Ty) : Bool :=
  match z with
  | .addx => y.isFloat | .maxabs => y.isFloat | .max => y.isFloat || y.isInt | .min => y.isFloat || y.isInt
  | _ => y.isInt
/-- The host functions PF, VF0–VF15 (R432) and the service cores of the model. -/
def Src.ok : Src → Bool | .host f => f < 17 | .svc n => n < 16

/-- The first check that fails. -/
def firstFlaw : List (Bool × Flaw) → Option Flaw
  | [] => none
  | (b, f) :: r => if b then firstFlaw r else some f

/-- What is wrong with an instruction, if anything. -/
def Instr.check : Instr → Option Flaw
  | .add g _ _ _ => firstFlaw [(g.ok, .guard)]
  | .sub g _ _ _ => firstFlaw [(g.ok, .guard)]
  | .mul g _ _ _ => firstFlaw [(g.ok, .guard)]
  | .mulh g _ _ _ => firstFlaw [(g.ok, .guard)]
  | .mulhu g _ _ _ => firstFlaw [(g.ok, .guard)]
  | .div g _ _ _ => firstFlaw [(g.ok, .guard)]
  | .divu g _ _ _ => firstFlaw [(g.ok, .guard)]
  | .rem g _ _ _ => firstFlaw [(g.ok, .guard)]
  | .remu g _ _ _ => firstFlaw [(g.ok, .guard)]
  | .and g _ _ _ => firstFlaw [(g.ok, .guard)]
  | .or g _ _ _ => firstFlaw [(g.ok, .guard)]
  | .xor g _ _ _ => firstFlaw [(g.ok, .guard)]
  | .andn g _ _ _ => firstFlaw [(g.ok, .guard)]
  | .shl g _ _ _ => firstFlaw [(g.ok, .guard)]
  | .shr g _ _ _ => firstFlaw [(g.ok, .guard)]
  | .sra g _ _ _ => firstFlaw [(g.ok, .guard)]
  | .rol g _ _ _ => firstFlaw [(g.ok, .guard)]
  | .min g _ _ _ => firstFlaw [(g.ok, .guard)]
  | .max g _ _ _ => firstFlaw [(g.ok, .guard)]
  | .minu g _ _ _ => firstFlaw [(g.ok, .guard)]
  | .maxu g _ _ _ => firstFlaw [(g.ok, .guard)]
  | .clz g _ _ => firstFlaw [(g.ok, .guard)]
  | .ctz g _ _ => firstFlaw [(g.ok, .guard)]
  | .popc g _ _ => firstFlaw [(g.ok, .guard)]
  | .brev g _ _ => firstFlaw [(g.ok, .guard)]
  | .sextB g _ _ => firstFlaw [(g.ok, .guard)]
  | .sextH g _ _ => firstFlaw [(g.ok, .guard)]
  | .sextW g _ _ => firstFlaw [(g.ok, .guard)]
  | .zextB g _ _ => firstFlaw [(g.ok, .guard)]
  | .zextH g _ _ => firstFlaw [(g.ok, .guard)]
  | .zextW g _ _ => firstFlaw [(g.ok, .guard)]
  | .lea g _ _ _ _ => firstFlaw [(g.ok, .guard)]
  | .addi _ _ _ => none
  | .andi _ _ _ => none
  | .ori _ _ _ => none
  | .xori _ _ _ => none
  | .shli _ _ _ => none
  | .shri _ _ _ => none
  | .srai _ _ _ => none
  | .lui _ _ => none
  | .movi _ _ => none
  | .moviSx _ _ => none
  | .pset g p _ _ _ => firstFlaw [(g.ok, .guard), (p != 0, .destinationP0)]
  | .pseti p _ _ _ => firstFlaw [(p != 0, .destinationP0)]
  | .pand g d _ _ => firstFlaw [(g.ok, .guard), (d != 0, .destinationP0)]
  | .por g d _ _ => firstFlaw [(g.ok, .guard), (d != 0, .destinationP0)]
  | .pxor g d _ _ => firstFlaw [(g.ok, .guard), (d != 0, .destinationP0)]
  | .pnot g d _ => firstFlaw [(g.ok, .guard), (d != 0, .destinationP0)]
  | .sel g _ _ _ => firstFlaw [(g.ok, .guard)]
  | .br g _ => firstFlaw [(g.ok, .guard)]
  | .jmp _ => none
  | .call _ => none
  | .jr g _ => firstFlaw [(g.ok, .guard)]
  | .callr g _ => firstFlaw [(g.ok, .guard)]
  | .ret g => firstFlaw [(g.ok, .guard)]
  | .trap g _ => firstFlaw [(g.ok, .guard)]
  | .hret g => firstFlaw [(g.ok, .guard)]
  | .dstop g => firstFlaw [(g.ok, .guard)]
  | .nop g => firstFlaw [(g.ok, .guard)]
  | .halt g => firstFlaw [(g.ok, .guard)]
  | .loop _ _ _ => none
  | .loopr _ _ _ => none
  | .lds _ _ _ _ _ => none
  | .ldsc _ _ _ _ => none
  | .ldsSx _ _ _ _ _ => none
  | .sts _ _ _ _ _ => none
  | .stsc _ _ _ _ => none
  | .stsSx _ _ _ _ _ => none
  | .aadd g _ _ _ _ _ => firstFlaw [(g.ok, .guard)]
  | .aand g _ _ _ _ _ => firstFlaw [(g.ok, .guard)]
  | .aor g _ _ _ _ _ => firstFlaw [(g.ok, .guard)]
  | .axor g _ _ _ _ _ => firstFlaw [(g.ok, .guard)]
  | .amin g _ _ _ _ _ => firstFlaw [(g.ok, .guard)]
  | .amax g _ _ _ _ _ => firstFlaw [(g.ok, .guard)]
  | .aminu g _ _ _ _ _ => firstFlaw [(g.ok, .guard)]
  | .amaxu g _ _ _ _ _ => firstFlaw [(g.ok, .guard)]
  | .aswp g _ _ _ _ _ => firstFlaw [(g.ok, .guard)]
  | .acas g _ _ _ _ _ => firstFlaw [(g.ok, .guard)]
  | .afmin g _ _ _ _ => firstFlaw [(g.ok, .guard)]
  | .afmax g _ _ _ _ => firstFlaw [(g.ok, .guard)]
  | .axadd g _ _ _ => firstFlaw [(g.ok, .guard)]
  | .axrd g _ _ _ => firstFlaw [(g.ok, .guard)]
  | .axclr g _ => firstFlaw [(g.ok, .guard)]
  | .bld g _ _ _ _ => firstFlaw [(g.ok, .guard)]
  | .bst g _ _ _ _ => firstFlaw [(g.ok, .guard)]
  | .bldSx _ _ _ _ => none
  | .bstSx _ _ _ _ => none
  | .halloc g _ _ x => firstFlaw [(g.ok, .guard), (x != 3, .spaceCode)]
  | .hfree g _ => firstFlaw [(g.ok, .guard)]
  | .hgive g _ _ => firstFlaw [(g.ok, .guard)]
  | .htake g _ _ _ => firstFlaw [(g.ok, .guard)]
  | .hqry g _ _ => firstFlaw [(g.ok, .guard)]
  | .copy g _ _ => firstFlaw [(g.ok, .guard)]
  | .cpwait g _ => firstFlaw [(g.ok, .guard)]
  | .cpqry g _ _ => firstFlaw [(g.ok, .guard)]
  | .fence g _ => firstFlaw [(g.ok, .guard)]
  | .fenceAcq g _ => firstFlaw [(g.ok, .guard)]
  | .fenceRel g _ => firstFlaw [(g.ok, .guard)]
  | .bara g _ _ _ => firstFlaw [(g.ok, .guard)]
  | .barw g _ _ _ => firstFlaw [(g.ok, .guard)]
  | .bar g _ _ => firstFlaw [(g.ok, .guard)]
  | .nmcmd g _ => firstFlaw [(g.ok, .guard)]
  | .nmfence g => firstFlaw [(g.ok, .guard)]
  | .nmstat g _ _ => firstFlaw [(g.ok, .guard)]
  | .xsend g _ => firstFlaw [(g.ok, .guard)]
  | .xrecv g _ _ _ => firstFlaw [(g.ok, .guard)]
  | .xred g _ => firstFlaw [(g.ok, .guard)]
  | .xrslt g _ _ => firstFlaw [(g.ok, .guard)]
  | .blkrun _ _ _ _ => none
  | .blkpin _ _ _ => none
  | .blkunpin _ => none
  | .jigmap _ _ => none
  | .cfgswap _ => none
  | .inj _ _ _ _ => none
  | .snkrd _ _ _ _ => none
  | .argw _ _ => none
  | .round => none
  | .gate _ _ => none
  | .gateWait _ _ => none
  | .gateOpen _ _ => none
  | .strm _ _ => none
  | .sbar _ => none
  | .spos _ _ => none
  | .tdef _ _ => none
  | .tqry _ _ => none
  | .ttagFull _ => none
  | .ttagEmpty _ => none
  | .ttagWaitfull _ => none
  | .ttagWaitempty _ => none
  | .gath _ _ _ => none
  | .mmbind _ _ _ => none
  | .mmunb _ => none
  | .mmepi _ _ _ _ _ => none
  | .mmsmxStart _ _ _ => none
  | .mmsmxFin _ _ _ => none
  | .mmstat _ _ _ => none
  | .qtld _ _ => none
  | .qwld _ _ => none
  | .qctxClaim => none
  | .qctxRelease => none
  | .qctxClear => none
  | .qrun _ => none
  | .xpose _ _ _ => none
  | .xposb _ _ => none
  | .qpopc _ _ _ _ _ => none
  | .qbrk _ _ => none
  | .qstatMq _ _ => none
  | .qpush g _ _ _ => firstFlaw [(g.ok, .guard)]
  | .qpushw g _ _ => firstFlaw [(g.ok, .guard)]
  | .qpop g _ _ _ => firstFlaw [(g.ok, .guard)]
  | .qstat g _ _ => firstFlaw [(g.ok, .guard)]
  | .doze g _ _ => firstFlaw [(g.ok, .guard)]
  | .poke g _ => firstFlaw [(g.ok, .guard)]
  | .mfsr _ r => firstFlaw [(isSysreg r, .systemRegister)]
  | .mtsr _ r => firstFlaw [(isSysreg r, .systemRegister)]
  | .tlbinv g s _ _ => firstFlaw [(g.ok, .guard), (s != .pod, .scope)]
  | .tlbinvAsid g s _ => firstFlaw [(g.ok, .guard), (s != .pod, .scope)]
  | .tlbinvAll g s => firstFlaw [(g.ok, .guard), (s != .pod, .scope)]
  | .icinv g _ => firstFlaw [(g.ok, .guard)]
  | .icinvAll g => firstFlaw [(g.ok, .guard)]
  | .clamp g => firstFlaw [(g.ok, .guard)]
  | .ctxsave g _ _ _ => firstFlaw [(g.ok, .guard)]
  | .ctxrest g _ _ _ => firstFlaw [(g.ok, .guard)]
  | .trcon g _ => firstFlaw [(g.ok, .guard)]
  | .trcoff g => firstFlaw [(g.ok, .guard)]
  | .trmark g _ => firstFlaw [(g.ok, .guard)]
  | .ldecl _ _ => none
  | .ply _ _ _ y => firstFlaw [(y != 4, .type)]
  | .rdl _ _ _ _ => none
  | .settle _ => none
  | .fadd h y r => firstFlaw [(h.ok, .header), (h.arity 2 2, .operandCount), (y.isFloat, .type), (r.directed, .rounding)]
  | .fsub h y r => firstFlaw [(h.ok, .header), (h.arity 2 2, .operandCount), (y.isFloat, .type), (r.directed, .rounding)]
  | .fmul h y r => firstFlaw [(h.ok, .header), (h.arity 2 2, .operandCount), (y.isFloat, .type), (r.directed, .rounding)]
  | .ffma h y r => firstFlaw [(h.ok, .header), (h.arity 3 3, .operandCount), (y.isFloat, .type), (r.directed, .rounding)]
  | .ffms h y r => firstFlaw [(h.ok, .header), (h.arity 3 3, .operandCount), (y.isFloat, .type), (r.directed, .rounding)]
  | .fmin h y => firstFlaw [(h.ok, .header), (h.arity 2 2, .operandCount), (y.isFloat, .type)]
  | .fmax h y => firstFlaw [(h.ok, .header), (h.arity 2 2, .operandCount), (y.isFloat, .type)]
  | .fabs h y => firstFlaw [(h.ok, .header), (h.arity 1 1, .operandCount), (y.isFloat, .type)]
  | .fneg h y => firstFlaw [(h.ok, .header), (h.arity 1 1, .operandCount), (y.isFloat, .type)]
  | .frcp h => firstFlaw [(h.ok, .header), (h.arity 1 1, .operandCount)]
  | .fsqrt h => firstFlaw [(h.ok, .header), (h.arity 1 1, .operandCount)]
  | .frsq h => firstFlaw [(h.ok, .header), (h.arity 1 1, .operandCount)]
  | .fexp2 h => firstFlaw [(h.ok, .header), (h.arity 1 1, .operandCount)]
  | .flog2 h => firstFlaw [(h.ok, .header), (h.arity 1 1, .operandCount)]
  | .ftanh h => firstFlaw [(h.ok, .header), (h.arity 1 1, .operandCount)]
  | .fcmp h y _ => firstFlaw [(h.ok, .header), (h.arity 2 2, .operandCount), (y.isFloat, .type)]
  | .cvt h y r s u v => firstFlaw [(h.ok, .header), (h.arity 1 1, .operandCount), (r != .dr, .rounding), (!u || s == .i8, .conversion), (!v || y == .i8 || y == .e4m3 || y == .e5m2, .conversion)]
  | .iadd h y u s => firstFlaw [(h.ok, .header), (h.arity 2 2, .operandCount), (y.isInt, .type), (!u || s, .conversion)]
  | .isub h y u s => firstFlaw [(h.ok, .header), (h.arity 2 2, .operandCount), (y.isInt, .type), (!u || s, .conversion)]
  | .imul h y => firstFlaw [(h.ok, .header), (h.arity 2 2, .operandCount), (y.isInt, .type)]
  | .imulh h y _ => firstFlaw [(h.ok, .header), (h.arity 2 2, .operandCount), (y.isInt, .type)]
  | .imad h y u s => firstFlaw [(h.ok, .header), (h.arity 3 3, .operandCount), (y.isInt, .type), (!u || s, .conversion)]
  | .iand h y => firstFlaw [(h.ok, .header), (h.arity 2 2, .operandCount), (y.isInt, .type)]
  | .ior h y => firstFlaw [(h.ok, .header), (h.arity 2 2, .operandCount), (y.isInt, .type)]
  | .ixor h y => firstFlaw [(h.ok, .header), (h.arity 2 2, .operandCount), (y.isInt, .type)]
  | .ishl h y => firstFlaw [(h.ok, .header), (h.arity 2 2, .operandCount), (y.isInt, .type)]
  | .ishr h y => firstFlaw [(h.ok, .header), (h.arity 2 2, .operandCount), (y.isInt, .type)]
  | .isra h y => firstFlaw [(h.ok, .header), (h.arity 2 2, .operandCount), (y.isInt, .type)]
  | .imin h y _ => firstFlaw [(h.ok, .header), (h.arity 2 2, .operandCount), (y.isInt, .type)]
  | .imax h y _ => firstFlaw [(h.ok, .header), (h.arity 2 2, .operandCount), (y.isInt, .type)]
  | .icmp h y _ => firstFlaw [(h.ok, .header), (h.arity 2 2, .operandCount), (y.isInt, .type)]
  | .selE h => firstFlaw [(h.ok, .header), (h.pm == .always, .predicateMode), (h.arity 3 3, .operandCount)]
  | .mov h => firstFlaw [(h.ok, .header), (h.arity 1 1, .operandCount)]
  | .lbc h _ => firstFlaw [(h.ok, .header), (h.arity 1 1, .operandCount)]
  | .lshf h _ _ => firstFlaw [(h.ok, .header), (h.arity 1 1, .operandCount)]
  | .lred h y z => firstFlaw [(h.ok, .header), (h.arity 1 1, .operandCount), (z.suits y, .type)]
  | .pack h _ => firstFlaw [(h.ok, .header), (h.pm == .always, .predicateMode), (h.arity 2 2, .operandCount), (h.nt == 2, .operandCount)]
  | .unpack h => firstFlaw [(h.ok, .header), (h.nt == 1 && h.ks != 7 && h.pm == .always, .operandCount)]
  | .ctxa h => firstFlaw [(h.ok, .header), (h.arity 1 1, .operandCount)]
  | .ctxf h => firstFlaw [(h.ok, .header), (h.noPort, .outputPort), (h.arity 1 1, .operandCount)]
  | .null h => firstFlaw [(h.ok, .header), (h.nullArity, .operandCount)]
  | .exit h => firstFlaw [(h.ok, .header), (h.noPort, .outputPort), (h.pm == .always, .predicateMode), (h.arity 1 1, .operandCount)]
  | .steer h => firstFlaw [(h.ok, .header), (h.pm == .always, .predicateMode), (h.arity 2 2, .operandCount), (h.nt == 2, .operandCount)]
  | .merge h => firstFlaw [(h.ok, .header), (h.pm == .always, .predicateMode), (h.arity 2 2, .operandCount)]
  | .sink h => firstFlaw [(h.ok, .header), (h.noPort, .outputPort), (h.pm == .always, .predicateMode), (h.arity 1 1, .operandCount)]
  | .ldeclE h _ => firstFlaw [(h.ok, .header), (h.noPort, .outputPort), (h.arity 1 1, .operandCount)]
  | .plyE h y _ => firstFlaw [(h.ok, .header), (h.noPort, .outputPort), (h.arity 1 1, .operandCount), (y.isFloat || y.isInt, .type)]
  | .rdlE h _ _ => firstFlaw [(h.ok, .header), (h.arity 1 1, .operandCount)]
  | .settleE h _ => firstFlaw [(h.ok, .header), (h.noPort, .outputPort), (h.arity 1 1, .operandCount)]
  | .cnt h _ _ => firstFlaw [(h.ok, .header), (h.pm == .always, .predicateMode), (h.nt == 0 && h.ks.toNat ≤ 4 && h.kp == 0, .operandCount)]
  | .acc h y z => firstFlaw [(h.ok, .header), (h.pm == .always, .predicateMode), (h.arity 1 1, .operandCount), (h.nt == 1, .operandCount), (z.suits y, .type)]
  | .lde h _ _ q => firstFlaw [(h.ok, .header), (h.arity 1 2, .operandCount), (q != .sc, .ordering)]
  | .ldscE h _ _ => firstFlaw [(h.ok, .header), (h.arity 1 2, .operandCount)]
  | .ste h _ _ q => firstFlaw [(h.ok, .header), (h.noPort, .outputPort), (h.arity 2 3, .operandCount), (q != .sc, .ordering)]
  | .stscE h _ _ => firstFlaw [(h.ok, .header), (h.noPort, .outputPort), (h.arity 2 3, .operandCount)]
  | .bldE h _ _ _ => firstFlaw [(h.ok, .header), (h.arity 2 2, .operandCount)]
  | .bstE h _ _ _ => firstFlaw [(h.ok, .header), (h.noPort, .outputPort), (h.arity 3 3, .operandCount)]
  | .aaddE h _ _ => firstFlaw [(h.ok, .header), (h.arity 2 3, .operandCount)]
  | .aandE h _ _ => firstFlaw [(h.ok, .header), (h.arity 2 3, .operandCount)]
  | .aorE h _ _ => firstFlaw [(h.ok, .header), (h.arity 2 3, .operandCount)]
  | .axorE h _ _ => firstFlaw [(h.ok, .header), (h.arity 2 3, .operandCount)]
  | .aminE h _ _ => firstFlaw [(h.ok, .header), (h.arity 2 3, .operandCount)]
  | .amaxE h _ _ => firstFlaw [(h.ok, .header), (h.arity 2 3, .operandCount)]
  | .aminuE h _ _ => firstFlaw [(h.ok, .header), (h.arity 2 3, .operandCount)]
  | .amaxuE h _ _ => firstFlaw [(h.ok, .header), (h.arity 2 3, .operandCount)]
  | .aswpE h _ _ => firstFlaw [(h.ok, .header), (h.arity 2 3, .operandCount)]
  | .acasE h _ _ => firstFlaw [(h.ok, .header), (h.arity 3 3, .operandCount)]
  | .afminE h _ _ => firstFlaw [(h.ok, .header), (h.arity 2 3, .operandCount)]
  | .afmaxE h _ _ => firstFlaw [(h.ok, .header), (h.arity 2 3, .operandCount)]
  | .axaddE h _ _ _ => firstFlaw [(h.ok, .header), (h.noPort, .outputPort), (h.arity 2 3, .operandCount)]
  | .axrdE h _ _ _ => firstFlaw [(h.ok, .header), (h.arity 1 2, .operandCount)]
  | .axclrE h _ _ => firstFlaw [(h.ok, .header), (h.noPort, .outputPort), (h.arity 1 2, .operandCount)]
  | .copyE h => firstFlaw [(h.ok, .header), (h.noPort, .outputPort), (h.arity 1 2, .operandCount)]
  | .hostPostedWrite f _ _ _ _ => firstFlaw [(decide (f < 17), .unitNumber)]
  | .hostRead f _ _ _ => firstFlaw [(decide (f < 17), .unitNumber)]
  | .hostCompletion _ _ => none
  | .completionTimeout _ => none
  | .qdbRing r q _ => firstFlaw [(r.ok, .unitNumber), (decide (q < 128), .unitNumber)]
  | .registerWrite r _ _ _ => firstFlaw [(r.ok, .unitNumber)]
  | .violationEntryFree r d e => firstFlaw [(r.ok, .unitNumber), (decide (d < 3), .unitNumber), (decide (e < 16), .unitNumber)]
  | .fqctlWrite r c k _ => firstFlaw [(r.ok, .unitNumber), (decide (c < 224), .unitNumber), (decide (k < 4), .unitNumber)]
  | .fqptrWrite r c k _ => firstFlaw [(r.ok, .unitNumber), (decide (c < 224), .unitNumber), (decide (k < 4), .unitNumber)]
  | .ovfbaseWrite r c k _ => firstFlaw [(r.ok, .unitNumber), (decide (c < 224), .unitNumber), (decide (k < 4), .unitNumber)]
  | .bwctlWrite r c _ => firstFlaw [(r.ok, .unitNumber), (decide (c < 224), .unitNumber)]
  | .bwshareWrite r c t _ => firstFlaw [(r.ok, .unitNumber), (decide (c < 224), .unitNumber), (decide (t < 17), .unitNumber)]
  | .trapreqDone r c k => firstFlaw [(r.ok, .unitNumber), (decide (c < 224), .unitNumber), (decide (k < 4), .unitNumber)]
  | .firstxRearm r c k => firstFlaw [(r.ok, .unitNumber), (decide (c < 224), .unitNumber), (decide (k < 4), .unitNumber)]
  | .ueaddrClear r s => firstFlaw [(r.ok, .unitNumber), (decide (s < 8), .unitNumber)]
  | .configSpaceWrite r _ _ _ => firstFlaw [(r.ok, .unitNumber)]
  | .jobctlKill r j => firstFlaw [(r.ok, .unitNumber), (decide (j < 4096), .unitNumber)]
  | .clampcmdClamp r j _ => firstFlaw [(r.ok, .unitNumber), (decide (j < 4096), .unitNumber)]
  | .clampcmdFire r j _ => firstFlaw [(r.ok, .unitNumber), (decide (j < 4096), .unitNumber)]
  | .clampcmdBlock r j _ => firstFlaw [(r.ok, .unitNumber), (decide (j < 4096), .unitNumber)]
  | .clampcmdTick r j _ => firstFlaw [(r.ok, .unitNumber), (decide (j < 4096), .unitNumber)]
  | .clampcmdUnclamp r j _ => firstFlaw [(r.ok, .unitNumber), (decide (j < 4096), .unitNumber)]
  | .clampcmdReverse r j _ => firstFlaw [(r.ok, .unitNumber), (decide (j < 4096), .unitNumber)]
  | .dbgdataWrite r c k _ => firstFlaw [(r.ok, .unitNumber), (decide (c < 224), .unitNumber), (decide (k < 4), .unitNumber)]
  | .dbgdataRead r c k => firstFlaw [(r.ok, .unitNumber), (decide (c < 224), .unitNumber), (decide (k < 4), .unitNumber)]
  | .queueReset r q => firstFlaw [(r.ok, .unitNumber), (decide (q < 128), .unitNumber)]
  | .coreReset r c => firstFlaw [(r.ok, .unitNumber), (decide (c < 224), .unitNumber)]
  | .dieReset r d => firstFlaw [(r.ok, .unitNumber), (decide (d < 2), .unitNumber)]
  | .deviceReset => none
  | .bootImageFetched _ => none
  | .bootRetry => none
  | .walkComplete _ => none
  | .faultedUnitRestart c k _ => firstFlaw [(decide (c < 224), .unitNumber), (decide (k < 4), .unitNumber)]
  | .sliceAccess _ => none
  | .lineFill s _ _ => firstFlaw [(decide (s < 32), .unitNumber)]
  | .patrolScrub s _ => firstFlaw [(decide (s < 8), .unitNumber)]
  | .scTokenVisit s => firstFlaw [(decide (s < 32), .unitNumber)]
  | .remoteBufferRequest _ => none
  | .packetHop _ => none
  | .packetAccept _ => none
  | .reservationHeader _ => none
  | .escapeOccupancyTimeout _ => none
  | .flowIdleTimeout _ => none
  | .bwWindowRefill c => firstFlaw [(decide (c < 224), .unitNumber)]
  | .handleDrainComplete c p _ => firstFlaw [(decide (c < 224), .unitNumber), (decide (p < 3), .unitNumber)]
  | .handleMoveComplete c p _ => firstFlaw [(decide (c < 224), .unitNumber), (decide (p < 3), .unitNumber)]
  | .granuleClearComplete c p => firstFlaw [(decide (c < 224), .unitNumber), (decide (p < 3), .unitNumber)]
  | .copyCommandToken c k => firstFlaw [(decide (c < 224), .unitNumber), (decide (k < 4), .unitNumber)]
  | .copyChunk c _ => firstFlaw [(decide (c < 224), .unitNumber)]
  | .copyRetire c _ => firstFlaw [(decide (c < 224), .unitNumber)]
  | .tokenArrive c e _ => firstFlaw [(decide (c < 224), .unitNumber), (decide (e < 64), .unitNumber)]
  | .overflowReinject c k e => firstFlaw [(decide (c < 224), .unitNumber), (decide (k < 4), .unitNumber), (decide (e < 64), .unitNumber)]
  | .elementIssue c e => firstFlaw [(decide (c < 224), .unitNumber), (decide (e < 64), .unitNumber)]
  | .firingResult c _ => firstFlaw [(decide (c < 224), .unitNumber)]
  | .loadResponse c _ => firstFlaw [(decide (c < 224), .unitNumber)]
  | .tokenHop c _ => firstFlaw [(decide (c < 224), .unitNumber)]
  | .instanceCreate c k => firstFlaw [(decide (c < 224), .unitNumber), (decide (k < 4), .unitNumber)]
  | .instanceCommit c => firstFlaw [(decide (c < 224), .unitNumber)]
  | .plyPushArrive c k _ => firstFlaw [(decide (c < 224), .unitNumber), (decide (k < 4), .unitNumber)]
  | .laminatedGather c k _ => firstFlaw [(decide (c < 224), .unitNumber), (decide (k < 4), .unitNumber)]
  | .configRecordFetch c k e => firstFlaw [(decide (c < 224), .unitNumber), (decide (k < 4), .unitNumber), (decide (e < 64), .unitNumber)]
  | .jigPlacement c k => firstFlaw [(decide (c < 224), .unitNumber), (decide (k < 4), .unitNumber)]
  | .frontEndFetch c k => firstFlaw [(decide (c < 224), .unitNumber), (decide (k < 4), .unitNumber)]
  | .counterEmit c k e m => firstFlaw [(decide (c < 224), .unitNumber), (decide (k < 4), .unitNumber), (decide (e < 64), .unitNumber), (decide (m < 4), .unitNumber)]
  | .roundBoundary c k => firstFlaw [(decide (c < 224), .unitNumber), (decide (k < 4), .unitNumber)]
  | .accFlush c k e => firstFlaw [(decide (c < 224), .unitNumber), (decide (k < 4), .unitNumber), (decide (e < 64), .unitNumber)]
  | .colourFree c k _ => firstFlaw [(decide (c < 224), .unitNumber), (decide (k < 4), .unitNumber)]
  | .streamRun c p => firstFlaw [(decide (c < 224), .unitNumber), (decide (p < 16), .unitNumber)]
  | .streamComplete c p => firstFlaw [(decide (c < 224), .unitNumber), (decide (p < 16), .unitNumber)]
  | .nmCommandArrive s => firstFlaw [(decide (s < 8), .unitNumber)]
  | .nmSlotStart s => firstFlaw [(decide (s < 8), .unitNumber)]
  | .nmRangeLock s _ => firstFlaw [(decide (s < 8), .unitNumber)]
  | .nmChunk s _ => firstFlaw [(decide (s < 8), .unitNumber)]
  | .nmComplete s _ => firstFlaw [(decide (s < 8), .unitNumber)]
  | .mmFiringStart c => firstFlaw [(decide (c < 224), .unitNumber)]
  | .mmGatherComplete c => firstFlaw [(decide (c < 224), .unitNumber)]
  | .mmKgroup c => firstFlaw [(decide (c < 224), .unitNumber)]
  | .mmFiringEnd c => firstFlaw [(decide (c < 224), .unitNumber)]
  | .mmIndexSetArrive c k => firstFlaw [(decide (c < 224), .unitNumber), (decide (k < 4), .unitNumber)]
  | .mmDrainRow c => firstFlaw [(decide (c < 224), .unitNumber)]
  | .mmDrainComplete c => firstFlaw [(decide (c < 224), .unitNumber)]
  | .mmSoftmaxRow c => firstFlaw [(decide (c < 224), .unitNumber)]
  | .mqCommandStart c => firstFlaw [(decide (c < 224), .unitNumber)]
  | .mqEvaluation c => firstFlaw [(decide (c < 224), .unitNumber)]
  | .mqCommandComplete c => firstFlaw [(decide (c < 224), .unitNumber)]
  | .mqPopcountDeliver c => firstFlaw [(decide (c < 224), .unitNumber)]
  | .packetAtHead q => firstFlaw [(decide (q < 128), .unitNumber)]
  | .dispatchDecision => none
  | .waitsigPoll q => firstFlaw [(decide (q < 128), .unitNumber)]
  | .signalPerform q => firstFlaw [(decide (q < 128), .unitNumber)]
  | .phaseEnd q => firstFlaw [(decide (q < 128), .unitNumber)]
  | .detlevelApply q => firstFlaw [(decide (q < 128), .unitNumber)]
  | .memberEnd c k => firstFlaw [(decide (c < 224), .unitNumber), (decide (k < 4), .unitNumber)]
  | .watchdogExpire c k => firstFlaw [(decide (c < 224), .unitNumber), (decide (k < 4), .unitNumber)]
  | .qpushwTimeout c k => firstFlaw [(decide (c < 224), .unitNumber), (decide (k < 4), .unitNumber)]
  | .dozeTimeout c k => firstFlaw [(decide (c < 224), .unitNumber), (decide (k < 4), .unitNumber)]
  | .pokeDeliver c k => firstFlaw [(decide (c < 224), .unitNumber), (decide (k < 4), .unitNumber)]
  | .barrierArrival c k => firstFlaw [(decide (c < 224 ∨ 256 ≤ c), .unitNumber), (decide (k < if c < 224 then 4 else 8), .unitNumber)]
  | .quiescenceDrainEnd c k => firstFlaw [(decide (c < 224), .unitNumber), (decide (k < 4), .unitNumber)]
  | .quiescenceStopEnd c k => firstFlaw [(decide (c < 224), .unitNumber), (decide (k < 4), .unitNumber)]
  | .quiescenceReport c k => firstFlaw [(decide (c < 224), .unitNumber), (decide (k < 4), .unitNumber)]
  | .contextSaved c k => firstFlaw [(decide (c < 224), .unitNumber), (decide (k < 4), .unitNumber)]
  | .restoreComplete c k => firstFlaw [(decide (c < 224), .unitNumber), (decide (k < 4), .unitNumber)]
  | .clampRequest _ => none
  | .clampLand j => firstFlaw [(decide (j < 4096), .unitNumber)]
  | .clampResume j => firstFlaw [(decide (j < 4096), .unitNumber)]
  | .blockStepTimeout j => firstFlaw [(decide (j < 4096), .unitNumber)]
  | .tickStepEnd j => firstFlaw [(decide (j < 4096), .unitNumber)]
  | .exchangeFlitReceive p _ => firstFlaw [(decide (p < 16), .unitNumber)]
  | .exchangeReplay p _ => firstFlaw [(decide (p < 16), .unitNumber)]
  | .messageDelivery c k => firstFlaw [(decide (c < 224), .unitNumber), (decide (k < 4), .unitNumber)]
  | .redContributionArrive _ => none
  | .redSlotTimeout _ => none
  | .redResultArrive c k _ => firstFlaw [(decide (c < 224), .unitNumber), (decide (k < 4), .unitNumber)]
  | .ptpMessage _ _ => none
  | .tickBoundary => none
  | .tempNotify => none
  | .tempTrip => none
  | .powerLimitWindow _ => none
  | .reservedEncoding => none
  | .holdover => none
  | .atomicopRequest f _ _ _ _ _ _ => firstFlaw [(decide (f < 17), .unitNumber)]
  | .attestationReport _ => none
  | .measurementExtend r _ _ => firstFlaw [(r.ok, .unitNumber)]
  | .healthMonitorUpdate c _ => firstFlaw [(decide (c < 232), .unitNumber)]
  | .bootNetworkFailure => none

/-- No check fails. -/
abbrev Instr.WellFormed (i : Instr) : Prop := i.check = none

end Sys2Proof
end

