-- ==== Sys2Proof/Decode.lean ====
section
/-! DEFINITION. The decoder of both profiles (R215–R229), total on any bytes and rejecting by name; the encoder; and
the decoder on a word as the opcode table numbers its bits. -/
namespace Sys2Proof

/-- Why bytes are no instruction. -/
inductive Reject where
  | truncated | reservedMajor | reservedFunction | reservedCommand | reservedSubcode | reservedOpcode | fieldCode
  | unusedField
  | malformed (f : Flaw)
  deriving DecidableEq, Repr

/-! ### Words from fields (R216, R225) -/

def srWord (maj : BitVec 6) (d a b : BitVec 5) (g : Guard) (fn : BitVec 7) : W32 :=
  maj ++ (d ++ (a ++ (b ++ (g.p ++ (BitVec.ofBool g.neg ++ fn)))))
def siWord (maj : BitVec 6) (d a : BitVec 5) (imm : BitVec 16) : W32 := maj ++ (d ++ (a ++ imm))
def sbWord (maj : BitVec 6) (g : Guard) (off : BitVec 22) : W32 := maj ++ (g.p ++ (BitVec.ofBool g.neg ++ off))
/-- The size code is that of R223. -/
def smWord (maj : BitVec 6) (d a : BitVec 5) (off : BitVec 12) (s : Size) (ord : BitVec 2) : W32 :=
  maj ++ (d ++ (a ++ (off ++ (s.code ++ ord))))
def slWord (maj : BitVec 6) (lc : BitVec 2) (len : BitVec 8) (mode : BitVec 1) (a : BitVec 5) (imm : BitVec 10) : W32 :=
  maj ++ (lc ++ (len ++ (mode ++ (a ++ imm))))
def scWord (maj cmd : BitVec 6) (a b c imm : BitVec 5) : W32 := maj ++ (cmd ++ (a ++ (b ++ (c ++ imm))))
def sxWord (sub : BitVec 6) (d a b x : BitVec 5) : W32 := (0x3F : BitVec 6) ++ (sub ++ (d ++ (a ++ (b ++ x))))
def elWord (opc : BitVec 8) (h : EHdr) (ty : BitVec 3) (aux : BitVec 8) : W32 :=
  opc ++ (h.pm.code ++ (h.nt ++ (h.ks ++ (h.kp ++ (ty ++ (h.om ++ aux))))))

/-! ### Fields of words -/

def fMaj (w : W32) : BitVec 6 := w.extractLsb' 26 6
def fD (w : W32) : BitVec 5 := w.extractLsb' 21 5
def fA (w : W32) : BitVec 5 := w.extractLsb' 16 5
def fB (w : W32) : BitVec 5 := w.extractLsb' 11 5
def fFn (w : W32) : BitVec 7 := w.extractLsb' 0 7
def fImm16 (w : W32) : BitVec 16 := w.extractLsb' 0 16
def fOff22 (w : W32) : BitVec 22 := w.extractLsb' 0 22
def fOff12 (w : W32) : BitVec 12 := w.extractLsb' 4 12
def fSz (w : W32) : BitVec 2 := w.extractLsb' 2 2
def fOrd (w : W32) : BitVec 2 := w.extractLsb' 0 2
def fLc (w : W32) : BitVec 2 := w.extractLsb' 24 2
def fLen (w : W32) : BitVec 8 := w.extractLsb' 16 8
def fMode (w : W32) : BitVec 1 := w.extractLsb' 15 1
def fLa (w : W32) : BitVec 5 := w.extractLsb' 10 5
def fImm10 (w : W32) : BitVec 10 := w.extractLsb' 0 10
def fCmd (w : W32) : BitVec 6 := w.extractLsb' 20 6
def fCa (w : W32) : BitVec 5 := w.extractLsb' 15 5
def fCb (w : W32) : BitVec 5 := w.extractLsb' 10 5
def fCc (w : W32) : BitVec 5 := w.extractLsb' 5 5
def fImm5 (w : W32) : BitVec 5 := w.extractLsb' 0 5
def fXd (w : W32) : BitVec 5 := w.extractLsb' 15 5
def fXa (w : W32) : BitVec 5 := w.extractLsb' 10 5
def fXb (w : W32) : BitVec 5 := w.extractLsb' 5 5
def fXx (w : W32) : BitVec 5 := w.extractLsb' 0 5
def fOpc (w : W32) : BitVec 8 := w.extractLsb' 24 8
def fTy (w : W32) : BitVec 3 := w.extractLsb' 12 3
def fAux (w : W32) : BitVec 8 := w.extractLsb' 0 8
/-- GP and GN of the SR form. -/
def fG (w : W32) : Guard := { p := w.extractLsb' 8 3, neg := w.extractLsb' 7 1 == 1 }
/-- BP and BN of the SB form. -/
def fBr (w : W32) : Guard := { p := w.extractLsb' 23 3, neg := w.extractLsb' 22 1 == 1 }

/-- Goes on when a check holds. -/
def need (b : Bool) (r : Reject) (k : Except Reject Instr) : Except Reject Instr := if b then k else .error r
/-- Goes on with the meaning of a code, when the code has one. -/
def withCode {α : Type} (o : Option α) (k : α → Except Reject Instr) : Except Reject Instr :=
  match o with | some a => k a | none => .error .fieldCode

/-! ### Decoding -/

/-- CTRL, MAJ 0x1B (R221). -/
def decodeCtrl (w : W32) : Except Reject Instr :=
  match (fFn w).toNat with
  | 0 => need ((fD w) == 0) .unusedField <| need ((fB w) == 0) .unusedField <| .ok (.jr (fG w) (fA w))
  | 1 => need ((fD w) == 0) .unusedField <| need ((fB w) == 0) .unusedField <| .ok (.callr (fG w) (fA w))
  | 2 => need ((fD w) == 0) .unusedField <| need ((fA w) == 0) .unusedField <| need ((fB w) == 0) .unusedField <| .ok (.ret (fG w))
  | 3 => need ((fA w) == 0) .unusedField <| need ((fB w) == 0) .unusedField <| .ok (.trap (fG w) (fD w))
  | 4 => need ((fD w) == 0) .unusedField <| need ((fA w) == 0) .unusedField <| need ((fB w) == 0) .unusedField <| .ok (.hret (fG w))
  | 5 => need ((fD w) == 0) .unusedField <| need ((fA w) == 0) .unusedField <| need ((fB w) == 0) .unusedField <| .ok (.dstop (fG w))
  | 6 => need ((fD w) == 0) .unusedField <| need ((fA w) == 0) .unusedField <| need ((fB w) == 0) .unusedField <| .ok (.nop (fG w))
  | 7 => need ((fD w) == 0) .unusedField <| need ((fA w) == 0) .unusedField <| need ((fB w) == 0) .unusedField <| .ok (.halt (fG w))
  | _ => .error .reservedFunction

/-- ATOM, MAJ 0x22 (R221). -/
def decodeAtom (w : W32) : Except Reject Instr :=
  match ((fFn w).extractLsb' 3 4).toNat with
  | 0 => .ok (.aadd (fG w) (fD w) (fA w) (fB w) (((fFn w).extractLsb' 2 1) == 1) (AtomOrd.ofCode ((fFn w).extractLsb' 0 2)))
  | 1 => .ok (.aand (fG w) (fD w) (fA w) (fB w) (((fFn w).extractLsb' 2 1) == 1) (AtomOrd.ofCode ((fFn w).extractLsb' 0 2)))
  | 2 => .ok (.aor (fG w) (fD w) (fA w) (fB w) (((fFn w).extractLsb' 2 1) == 1) (AtomOrd.ofCode ((fFn w).extractLsb' 0 2)))
  | 3 => .ok (.axor (fG w) (fD w) (fA w) (fB w) (((fFn w).extractLsb' 2 1) == 1) (AtomOrd.ofCode ((fFn w).extractLsb' 0 2)))
  | 4 => .ok (.amin (fG w) (fD w) (fA w) (fB w) (((fFn w).extractLsb' 2 1) == 1) (AtomOrd.ofCode ((fFn w).extractLsb' 0 2)))
  | 5 => .ok (.amax (fG w) (fD w) (fA w) (fB w) (((fFn w).extractLsb' 2 1) == 1) (AtomOrd.ofCode ((fFn w).extractLsb' 0 2)))
  | 6 => .ok (.aminu (fG w) (fD w) (fA w) (fB w) (((fFn w).extractLsb' 2 1) == 1) (AtomOrd.ofCode ((fFn w).extractLsb' 0 2)))
  | 7 => .ok (.amaxu (fG w) (fD w) (fA w) (fB w) (((fFn w).extractLsb' 2 1) == 1) (AtomOrd.ofCode ((fFn w).extractLsb' 0 2)))
  | 8 => .ok (.aswp (fG w) (fD w) (fA w) (fB w) (((fFn w).extractLsb' 2 1) == 1) (AtomOrd.ofCode ((fFn w).extractLsb' 0 2)))
  | 9 => .ok (.acas (fG w) (fD w) (fA w) (fB w) (((fFn w).extractLsb' 2 1) == 1) (AtomOrd.ofCode ((fFn w).extractLsb' 0 2)))
  | 10 => need (((fFn w).extractLsb' 2 1) == 0) .unusedField <| .ok (.afmin (fG w) (fD w) (fA w) (fB w) (AtomOrd.ofCode ((fFn w).extractLsb' 0 2)))
  | 11 => need (((fFn w).extractLsb' 2 1) == 0) .unusedField <| .ok (.afmax (fG w) (fD w) (fA w) (fB w) (AtomOrd.ofCode ((fFn w).extractLsb' 0 2)))
  | _ => .error .reservedFunction

/-- XACC, MAJ 0x23 (R221). -/
def decodeXacc (w : W32) : Except Reject Instr :=
  match ((fFn w).extractLsb' 2 5).toNat with
  | 0 => need ((fD w) == 0) .unusedField <| withCode (AxFmt.ofCode ((fFn w).extractLsb' 0 2)) fun f => .ok (.axadd (fG w) (fA w) (fB w) f)
  | 1 => need ((fB w) == 0) .unusedField <| withCode (AxFmt.ofCode ((fFn w).extractLsb' 0 2)) fun f => .ok (.axrd (fG w) (fD w) (fA w) f)
  | 2 => need ((fD w) == 0) .unusedField <| need ((fB w) == 0) .unusedField <| need ((fFn w) == 8) .unusedField <| .ok (.axclr (fG w) (fA w))
  | _ => .error .reservedFunction

/-- BUF, MAJ 0x24 (R221). -/
def decodeBuf (w : W32) : Except Reject Instr :=
  match ((fFn w).extractLsb' 2 5).toNat with
  | 0 => need (((fA w).extractLsb' 4 1) == 0) .unusedField <| .ok (.bld (fG w) (fD w) ((fA w).extractLsb' 0 4) (fB w) (Size.ofCode ((fFn w).extractLsb' 0 2)))
  | 1 => need (((fA w).extractLsb' 4 1) == 0) .unusedField <| .ok (.bst (fG w) (fD w) ((fA w).extractLsb' 0 4) (fB w) (Size.ofCode ((fFn w).extractLsb' 0 2)))
  | _ => .error .reservedFunction

/-- HND, MAJ 0x25 (R221, R311). -/
def decodeHnd (w : W32) : Except Reject Instr :=
  match (fFn w).toNat with
  | 0 => need (((fD w).extractLsb' 4 1) == 0) .unusedField <| need (((fB w).extractLsb' 2 3) == 0) .unusedField <| .ok (.halloc (fG w) ((fD w).extractLsb' 0 4) (fA w) ((fB w).extractLsb' 0 2))
  | 1 => need ((fD w) == 0) .unusedField <| need (((fA w).extractLsb' 4 1) == 0) .unusedField <| need ((fB w) == 0) .unusedField <| .ok (.hfree (fG w) ((fA w).extractLsb' 0 4))
  | 2 => need ((fD w) == 0) .unusedField <| need (((fA w).extractLsb' 4 1) == 0) .unusedField <| .ok (.hgive (fG w) ((fA w).extractLsb' 0 4) (fB w))
  | 3 => need (((fB w).extractLsb' 4 1) == 0) .unusedField <| .ok (.htake (fG w) (fD w) (fA w) ((fB w).extractLsb' 0 4))
  | 4 => need ((fB w) == 0) .unusedField <| .ok (.hqry (fG w) (fD w) (fA w))
  | _ => .error .reservedFunction

/-- CPY, MAJ 0x26 (R221). -/
def decodeCpy (w : W32) : Except Reject Instr :=
  match (fFn w).toNat with
  | 0 => need ((fB w) == 0) .unusedField <| .ok (.copy (fG w) (fD w) (fA w))
  | 1 => need ((fD w) == 0) .unusedField <| need ((fB w) == 0) .unusedField <| .ok (.cpwait (fG w) (fA w))
  | 2 => need ((fB w) == 0) .unusedField <| .ok (.cpqry (fG w) (fD w) (fA w))
  | _ => .error .reservedFunction

/-- SYNC, MAJ 0x27 (R221). -/
def decodeSync (w : W32) : Except Reject Instr :=
  match ((fFn w).extractLsb' 3 4).toNat with
  | 0 => need ((fD w) == 0) .unusedField <| need ((fA w) == 0) .unusedField <| need ((fB w) == 0) .unusedField <| withCode (Scope.ofCode ((fFn w).extractLsb' 0 3)) fun s => .ok (.fence (fG w) s)
  | 1 => need ((fD w) == 0) .unusedField <| need ((fA w) == 0) .unusedField <| need ((fB w) == 0) .unusedField <| withCode (Scope.ofCode ((fFn w).extractLsb' 0 3)) fun s => .ok (.fenceAcq (fG w) s)
  | 2 => need ((fD w) == 0) .unusedField <| need ((fA w) == 0) .unusedField <| need ((fB w) == 0) .unusedField <| withCode (Scope.ofCode ((fFn w).extractLsb' 0 3)) fun s => .ok (.fenceRel (fG w) s)
  | 3 => need ((fB w) == 0) .unusedField <| withCode (Scope.ofCode ((fFn w).extractLsb' 0 3)) fun s => .ok (.bara (fG w) (fD w) (fA w) s)
  | 4 => need ((fD w) == 0) .unusedField <| withCode (Scope.ofCode ((fFn w).extractLsb' 0 3)) fun s => .ok (.barw (fG w) (fA w) (fB w) s)
  | 5 => need ((fD w) == 0) .unusedField <| need ((fB w) == 0) .unusedField <| withCode (Scope.ofCode ((fFn w).extractLsb' 0 3)) fun s => .ok (.bar (fG w) (fA w) s)
  | 6 => need ((fD w) == 0) .unusedField <| need ((fB w) == 0) .unusedField <| need ((fFn w) == 48) .unusedField <| .ok (.nmcmd (fG w) (fA w))
  | 7 => need ((fD w) == 0) .unusedField <| need ((fA w) == 0) .unusedField <| need ((fB w) == 0) .unusedField <| need ((fFn w) == 56) .unusedField <| .ok (.nmfence (fG w))
  | 8 => need ((fB w) == 0) .unusedField <| need ((fFn w) == 64) .unusedField <| .ok (.nmstat (fG w) (fD w) (fA w))
  | 9 => need ((fD w) == 0) .unusedField <| need ((fB w) == 0) .unusedField <| need ((fFn w) == 72) .unusedField <| .ok (.xsend (fG w) (fA w))
  | 10 => need ((fFn w) == 80) .unusedField <| .ok (.xrecv (fG w) (fD w) (fA w) (fB w))
  | 11 => need ((fD w) == 0) .unusedField <| need ((fB w) == 0) .unusedField <| need ((fFn w) == 88) .unusedField <| .ok (.xred (fG w) (fA w))
  | 12 => need ((fB w) == 0) .unusedField <| need ((fFn w) == 96) .unusedField <| .ok (.xrslt (fG w) (fD w) (fA w))
  | _ => .error .reservedFunction

/-- PLOG, MAJ 0x12 (R221). -/
def decodePlog (w : W32) : Except Reject Instr :=
  match (fFn w).toNat with
  | 0 => need (((fD w).extractLsb' 3 2) == 0) .unusedField <| need (((fA w).extractLsb' 3 2) == 0) .unusedField <| need (((fB w).extractLsb' 3 2) == 0) .unusedField <| .ok (.pand (fG w) ((fD w).extractLsb' 0 3) ((fA w).extractLsb' 0 3) ((fB w).extractLsb' 0 3))
  | 1 => need (((fD w).extractLsb' 3 2) == 0) .unusedField <| need (((fA w).extractLsb' 3 2) == 0) .unusedField <| need (((fB w).extractLsb' 3 2) == 0) .unusedField <| .ok (.por (fG w) ((fD w).extractLsb' 0 3) ((fA w).extractLsb' 0 3) ((fB w).extractLsb' 0 3))
  | 2 => need (((fD w).extractLsb' 3 2) == 0) .unusedField <| need (((fA w).extractLsb' 3 2) == 0) .unusedField <| need (((fB w).extractLsb' 3 2) == 0) .unusedField <| .ok (.pxor (fG w) ((fD w).extractLsb' 0 3) ((fA w).extractLsb' 0 3) ((fB w).extractLsb' 0 3))
  | 3 => need (((fD w).extractLsb' 3 2) == 0) .unusedField <| need (((fA w).extractLsb' 3 2) == 0) .unusedField <| need ((fB w) == 0) .unusedField <| .ok (.pnot (fG w) ((fD w).extractLsb' 0 3) ((fA w).extractLsb' 0 3))
  | 8 => .ok (.sel (fG w) (fD w) (fA w) (fB w))
  | _ => .error .reservedFunction

/-- QUE, MAJ 0x30 (R221). -/
def decodeQue (w : W32) : Except Reject Instr :=
  match (fFn w).toNat with
  | 0 => .ok (.qpush (fG w) (fD w) (fA w) (fB w))
  | 1 => need ((fD w) == 0) .unusedField <| .ok (.qpushw (fG w) (fA w) (fB w))
  | 2 => .ok (.qpop (fG w) (fD w) (fA w) (fB w))
  | 3 => need ((fB w) == 0) .unusedField <| .ok (.qstat (fG w) (fD w) (fA w))
  | 4 => need ((fB w) == 0) .unusedField <| .ok (.doze (fG w) (fD w) (fA w))
  | 5 => need ((fD w) == 0) .unusedField <| need ((fB w) == 0) .unusedField <| .ok (.poke (fG w) (fA w))
  | _ => .error .reservedFunction

/-- ALU, MAJ 0x00 (R220). -/
def decodeAlu (w : W32) : Except Reject Instr :=
  if (fFn w).extractLsb' 2 5 = 8 then .ok (.lea (fG w) (fD w) (fA w) (fB w) ((fFn w).extractLsb' 0 2))
  else match (fFn w).toNat with
  | 0 => .ok (.add (fG w) (fD w) (fA w) (fB w))
  | 1 => .ok (.sub (fG w) (fD w) (fA w) (fB w))
  | 2 => .ok (.mul (fG w) (fD w) (fA w) (fB w))
  | 3 => .ok (.mulh (fG w) (fD w) (fA w) (fB w))
  | 4 => .ok (.mulhu (fG w) (fD w) (fA w) (fB w))
  | 5 => .ok (.div (fG w) (fD w) (fA w) (fB w))
  | 6 => .ok (.divu (fG w) (fD w) (fA w) (fB w))
  | 7 => .ok (.rem (fG w) (fD w) (fA w) (fB w))
  | 8 => .ok (.remu (fG w) (fD w) (fA w) (fB w))
  | 9 => .ok (.and (fG w) (fD w) (fA w) (fB w))
  | 10 => .ok (.or (fG w) (fD w) (fA w) (fB w))
  | 11 => .ok (.xor (fG w) (fD w) (fA w) (fB w))
  | 12 => .ok (.andn (fG w) (fD w) (fA w) (fB w))
  | 13 => .ok (.shl (fG w) (fD w) (fA w) (fB w))
  | 14 => .ok (.shr (fG w) (fD w) (fA w) (fB w))
  | 15 => .ok (.sra (fG w) (fD w) (fA w) (fB w))
  | 16 => .ok (.rol (fG w) (fD w) (fA w) (fB w))
  | 17 => .ok (.min (fG w) (fD w) (fA w) (fB w))
  | 18 => .ok (.max (fG w) (fD w) (fA w) (fB w))
  | 19 => .ok (.minu (fG w) (fD w) (fA w) (fB w))
  | 20 => .ok (.maxu (fG w) (fD w) (fA w) (fB w))
  | 21 => need ((fB w) == 0) .unusedField <| .ok (.clz (fG w) (fD w) (fA w))
  | 22 => need ((fB w) == 0) .unusedField <| .ok (.ctz (fG w) (fD w) (fA w))
  | 23 => need ((fB w) == 0) .unusedField <| .ok (.popc (fG w) (fD w) (fA w))
  | 24 => need ((fB w) == 0) .unusedField <| .ok (.brev (fG w) (fD w) (fA w))
  | 25 => need ((fB w) == 0) .unusedField <| .ok (.sextB (fG w) (fD w) (fA w))
  | 26 => need ((fB w) == 0) .unusedField <| .ok (.sextH (fG w) (fD w) (fA w))
  | 27 => need ((fB w) == 0) .unusedField <| .ok (.sextW (fG w) (fD w) (fA w))
  | 28 => need ((fB w) == 0) .unusedField <| .ok (.zextB (fG w) (fD w) (fA w))
  | 29 => need ((fB w) == 0) .unusedField <| .ok (.zextH (fG w) (fD w) (fA w))
  | 30 => need ((fB w) == 0) .unusedField <| .ok (.zextW (fG w) (fD w) (fA w))
  | _ => .error .reservedFunction

/-- PSET, MAJ 0x10 (R221). -/
def decodePset (w : W32) : Except Reject Instr :=
  need (((fD w).extractLsb' 3 2) == 0) .unusedField <| need (((fFn w).extractLsb' 4 3) == 0) .unusedField <| withCode (Cond.ofCode ((fFn w).extractLsb' 0 4)) fun c => .ok (.pset (fG w) ((fD w).extractLsb' 0 3) (fA w) (fB w) c)

/-- SYS, MAJ 0x33 (R221, R255, R256). -/
def decodeSys (w : W32) : Except Reject Instr :=
  match (fFn w).toNat with
  | 0 =>
    match ((fD w).extractLsb' 3 2).toNat with
    | 0 => withCode (Scope.ofCode ((fD w).extractLsb' 0 3)) fun s => .ok (.tlbinv (fG w) s (fA w) (fB w))
    | 1 => need ((fA w) == 0) .unusedField <| withCode (Scope.ofCode ((fD w).extractLsb' 0 3)) fun s => .ok (.tlbinvAsid (fG w) s (fB w))
    | 2 => need ((fA w) == 0) .unusedField <| need ((fB w) == 0) .unusedField <| withCode (Scope.ofCode ((fD w).extractLsb' 0 3)) fun s => .ok (.tlbinvAll (fG w) s)
    | _ => .error .fieldCode
  | 1 =>
    match (fD w).toNat with
    | 0 => need ((fB w) == 0) .unusedField <| .ok (.icinv (fG w) (fA w))
    | 1 => need ((fA w) == 0) .unusedField <| need ((fB w) == 0) .unusedField <| .ok (.icinvAll (fG w))
    | _ => .error .unusedField
  | 2 => need ((fD w) == 0) .unusedField <| need ((fA w) == 0) .unusedField <| need ((fB w) == 0) .unusedField <| .ok (.clamp (fG w))
  | 3 => .ok (.ctxsave (fG w) (fD w) (fA w) (fB w))
  | 4 => .ok (.ctxrest (fG w) (fD w) (fA w) (fB w))
  | 5 => need ((fD w) == 0) .unusedField <| need ((fB w) == 0) .unusedField <| .ok (.trcon (fG w) (fA w))
  | 6 => need ((fD w) == 0) .unusedField <| need ((fA w) == 0) .unusedField <| need ((fB w) == 0) .unusedField <| .ok (.trcoff (fG w))
  | 7 => need ((fD w) == 0) .unusedField <| need ((fB w) == 0) .unusedField <| .ok (.trmark (fG w) (fA w))
  | _ => .error .reservedFunction

/-- FAB, MAJ 0x28 (R222, R258). -/
def decodeFab (w : W32) : Except Reject Instr :=
  match (fCmd w).toNat with
  | 0 => need (((fImm5 w).extractLsb' 1 4) == 0) .unusedField <| .ok (.blkrun (fCa w) (fCb w) (fCc w) (((fImm5 w).extractLsb' 0 1) == 1))
  | 1 => need ((fImm5 w) == 0) .unusedField <| .ok (.blkpin (fCa w) (fCb w) (fCc w))
  | 2 => need ((fCa w) == 0) .unusedField <| need ((fCc w) == 0) .unusedField <| need ((fImm5 w) == 0) .unusedField <| .ok (.blkunpin (fCb w))
  | 3 => need ((fCc w) == 0) .unusedField <| need ((fImm5 w) == 0) .unusedField <| .ok (.jigmap (fCa w) (fCb w))
  | 4 => need ((fCb w) == 0) .unusedField <| need ((fCc w) == 0) .unusedField <| need ((fImm5 w) == 0) .unusedField <| .ok (.cfgswap (fCa w))
  | 5 => need (((fImm5 w).extractLsb' 1 4) == 0) .unusedField <| .ok (.inj (fCa w) (fCb w) (fCc w) (((fImm5 w).extractLsb' 0 1) == 1))
  | 6 => .ok (.snkrd (fCa w) (fCb w) (fCc w) (fImm5 w))
  | 7 => need ((fCc w) == 0) .unusedField <| need ((fImm5 w) == 0) .unusedField <| .ok (.argw (fCa w) (fCb w))
  | 8 => need ((fCa w) == 0) .unusedField <| need ((fCb w) == 0) .unusedField <| need ((fCc w) == 0) .unusedField <| need ((fImm5 w) == 0) .unusedField <| .ok (.round)
  | 9 =>
    match (fImm5 w).toNat with
    | 0 => need ((fCc w) == 0) .unusedField <| .ok (.gate (fCa w) (fCb w))
    | 2 => need ((fCc w) == 0) .unusedField <| .ok (.gateWait (fCa w) (fCb w))
    | 1 => need ((fCc w) == 0) .unusedField <| .ok (.gateOpen (fCa w) (fCb w))
    | _ => .error .fieldCode
  | _ => .error .reservedCommand

/-- STRM, MAJ 0x29 (R222). -/
def decodeStrm (w : W32) : Except Reject Instr :=
  match (fCmd w).toNat with
  | 0 => need ((fCb w) == 0) .unusedField <| need ((fCc w) == 0) .unusedField <| need (((fImm5 w).extractLsb' 4 1) == 0) .unusedField <| .ok (.strm (fCa w) ((fImm5 w).extractLsb' 0 4))
  | 1 => need ((fCb w) == 0) .unusedField <| need ((fCc w) == 0) .unusedField <| need ((fImm5 w) == 0) .unusedField <| .ok (.sbar (fCa w))
  | 2 => need ((fCa w) == 0) .unusedField <| need ((fCb w) == 0) .unusedField <| need (((fImm5 w).extractLsb' 4 1) == 0) .unusedField <| .ok (.spos (fCc w) ((fImm5 w).extractLsb' 0 4))
  | _ => .error .reservedCommand

/-- MTX, MAJ 0x2A (R222, R358). -/
def decodeMtx (w : W32) : Except Reject Instr :=
  match (fCmd w).toNat with
  | 0 => need ((fCc w) == 0) .unusedField <| need ((fImm5 w) == 0) .unusedField <| .ok (.tdef (fCa w) (fCb w))
  | 1 => need ((fCb w) == 0) .unusedField <| need ((fImm5 w) == 0) .unusedField <| .ok (.tqry (fCa w) (fCc w))
  | 2 =>
    match (fImm5 w).toNat with
    | 0 => need ((fCb w) == 0) .unusedField <| need ((fCc w) == 0) .unusedField <| .ok (.ttagFull (fCa w))
    | 1 => need ((fCb w) == 0) .unusedField <| need ((fCc w) == 0) .unusedField <| .ok (.ttagEmpty (fCa w))
    | 2 => need ((fCb w) == 0) .unusedField <| need ((fCc w) == 0) .unusedField <| .ok (.ttagWaitfull (fCa w))
    | 3 => need ((fCb w) == 0) .unusedField <| need ((fCc w) == 0) .unusedField <| .ok (.ttagWaitempty (fCa w))
    | _ => .error .fieldCode
  | 3 => need ((fCc w) == 0) .unusedField <| need (((fImm5 w).extractLsb' 2 3) == 0) .unusedField <| .ok (.gath (fCa w) (fCb w) ((fImm5 w).extractLsb' 0 2))
  | 4 => need ((fImm5 w) == 0) .unusedField <| .ok (.mmbind (fCa w) (fCb w) (fCc w))
  | 5 => need ((fCb w) == 0) .unusedField <| need ((fCc w) == 0) .unusedField <| need ((fImm5 w) == 0) .unusedField <| .ok (.mmunb (fCa w))
  | 6 => need (((fImm5 w).extractLsb' 3 2) == 0) .unusedField <| .ok (.mmepi (fCa w) (fCb w) (fCc w) (((fImm5 w).extractLsb' 2 1) == 1) ((fImm5 w).extractLsb' 0 2))
  | 7 =>
    match (fImm5 w).toNat with
    | 0 => .ok (.mmsmxStart (fCa w) (fCb w) (fCc w))
    | 1 => .ok (.mmsmxFin (fCa w) (fCb w) (fCc w))
    | _ => .error .fieldCode
  | 8 => need ((fCb w) == 0) .unusedField <| need (((fImm5 w).extractLsb' 2 3) == 0) .unusedField <| .ok (.mmstat (fCa w) (fCc w) ((fImm5 w).extractLsb' 0 2))
  | _ => .error .reservedCommand

/-- MQF, MAJ 0x2B (R222, R379). -/
def decodeMqf (w : W32) : Except Reject Instr :=
  match (fCmd w).toNat with
  | 0 => need ((fCc w) == 0) .unusedField <| need ((fImm5 w) == 0) .unusedField <| .ok (.qtld (fCa w) (fCb w))
  | 1 => need ((fCc w) == 0) .unusedField <| need ((fImm5 w) == 0) .unusedField <| .ok (.qwld (fCa w) (fCb w))
  | 2 =>
    match (fImm5 w).toNat with
    | 0 => need ((fCa w) == 0) .unusedField <| need ((fCb w) == 0) .unusedField <| need ((fCc w) == 0) .unusedField <| .ok (.qctxClaim)
    | 1 => need ((fCa w) == 0) .unusedField <| need ((fCb w) == 0) .unusedField <| need ((fCc w) == 0) .unusedField <| .ok (.qctxRelease)
    | 2 => need ((fCa w) == 0) .unusedField <| need ((fCb w) == 0) .unusedField <| need ((fCc w) == 0) .unusedField <| .ok (.qctxClear)
    | _ => .error .fieldCode
  | 3 => need ((fCb w) == 0) .unusedField <| need ((fCc w) == 0) .unusedField <| need ((fImm5 w) == 0) .unusedField <| .ok (.qrun (fCa w))
  | 4 => need ((fImm5 w) == 0) .unusedField <| .ok (.xpose (fCa w) (fCb w) (fCc w))
  | 5 => need ((fCc w) == 0) .unusedField <| need ((fImm5 w) == 0) .unusedField <| .ok (.xposb (fCa w) (fCb w))
  | 6 => need (((fImm5 w).extractLsb' 3 2) == 0) .unusedField <| .ok (.qpopc (fCa w) (fCb w) (fCc w) (((fImm5 w).extractLsb' 2 1) == 1) ((fImm5 w).extractLsb' 0 2))
  | 7 => need ((fCb w) == 0) .unusedField <| need ((fCc w) == 0) .unusedField <| need (((fImm5 w).extractLsb' 2 3) == 0) .unusedField <| .ok (.qbrk (fCa w) ((fImm5 w).extractLsb' 0 2))
  | 8 => need ((fCa w) == 0) .unusedField <| need ((fCb w) == 0) .unusedField <| need (((fImm5 w).extractLsb' 2 3) == 0) .unusedField <| .ok (.qstatMq (fCc w) ((fImm5 w).extractLsb' 0 2))
  | _ => .error .reservedCommand

/-- SX, MAJ 0x3F (R218, R222). -/
def decodeSx (w imm : W32) : Except Reject Instr :=
  match (fCmd w).toNat with
  | 4 => need ((fXa w) == 0) .unusedField <| need ((fXb w) == 0) .unusedField <| need ((fXx w) == 0) .unusedField <| .ok (.moviSx (fXd w) imm)
  | 0 => need (((fXb w).extractLsb' 2 3) == 0) .unusedField <| withCode (MemOrd.ofCode (fXx w)) fun q => .ok (.ldsSx (fXd w) (fXa w) (Size.ofCode ((fXb w).extractLsb' 0 2)) q imm)
  | 1 => need (((fXb w).extractLsb' 2 3) == 0) .unusedField <| withCode (MemOrd.ofCode (fXx w)) fun q => .ok (.stsSx (fXd w) (fXa w) (Size.ofCode ((fXb w).extractLsb' 0 2)) q imm)
  | 2 => need (((fXa w).extractLsb' 4 1) == 0) .unusedField <| need (((fXb w).extractLsb' 2 3) == 0) .unusedField <| need ((fXx w) == 0) .unusedField <| need ((imm.extractLsb' 20 12) == 0) .unusedField <| .ok (.bldSx (fXd w) ((fXa w).extractLsb' 0 4) (Size.ofCode ((fXb w).extractLsb' 0 2)) (imm.extractLsb' 0 20))
  | 3 => need (((fXa w).extractLsb' 4 1) == 0) .unusedField <| need (((fXb w).extractLsb' 2 3) == 0) .unusedField <| need ((fXx w) == 0) .unusedField <| need ((imm.extractLsb' 20 12) == 0) .unusedField <| .ok (.bstSx (fXd w) ((fXa w).extractLsb' 0 4) (Size.ofCode ((fXb w).extractLsb' 0 2)) (imm.extractLsb' 0 20))
  | 5 => need ((fXd w) == 0) .unusedField <| need ((fXb w) == 0) .unusedField <| need ((fXx w) == 0) .unusedField <| need ((imm.extractLsb' 6 26) == 0) .unusedField <| .ok (.ldecl (fXa w) (imm.extractLsb' 0 6))
  | 6 => need ((fXd w) == 0) .unusedField <| need ((fXb w) == 0) .unusedField <| need ((fXx w) == 0) .unusedField <| need ((imm.extractLsb' 15 17) == 0) .unusedField <| need ((imm.extractLsb' 11 1) == 0) .unusedField <| .ok (.ply (fXa w) (imm.extractLsb' 0 6) (imm.extractLsb' 6 5) (imm.extractLsb' 12 3))
  | 7 => need ((fXa w) == 0) .unusedField <| need ((fXb w) == 0) .unusedField <| need ((fXx w) == 0) .unusedField <| need ((imm.extractLsb' 14 18) == 0) .unusedField <| need ((imm.extractLsb' 11 1) == 0) .unusedField <| withCode (RdlMode.ofCode (imm.extractLsb' 12 2)) fun m => .ok (.rdl (fXd w) (imm.extractLsb' 0 6) (imm.extractLsb' 6 5) m)
  | 8 => need ((fXd w) == 0) .unusedField <| need ((fXa w) == 0) .unusedField <| need ((fXb w) == 0) .unusedField <| need ((fXx w) == 0) .unusedField <| need ((imm.extractLsb' 6 26) == 0) .unusedField <| .ok (.settle (imm.extractLsb' 0 6))
  | _ => .error .reservedSubcode

/-- LDS and LDSC, MAJ 0x20 (R223, R305, R322). -/
def decodeLds (w : W32) : Except Reject Instr :=
  match ((fOrd w).extractLsb' 1 1).toNat with
  | 0 => .ok (.lds (fD w) (fA w) (fOff12 w) (Size.ofCode (fSz w)) (((fOrd w).extractLsb' 0 1) == 1))
  | _ => need (fOrd w == 2) .fieldCode <| .ok (.ldsc (fD w) (fA w) (fOff12 w) (Size.ofCode (fSz w)))

/-- STS and STSC, MAJ 0x21. -/
def decodeSts (w : W32) : Except Reject Instr :=
  match ((fOrd w).extractLsb' 1 1).toNat with
  | 0 => .ok (.sts (fD w) (fA w) (fOff12 w) (Size.ofCode (fSz w)) (((fOrd w).extractLsb' 0 1) == 1))
  | _ => need (fOrd w == 2) .fieldCode <| .ok (.stsc (fD w) (fA w) (fOff12 w) (Size.ofCode (fSz w)))

/-- LOOP and LOOPR, MAJ 0x1C (R223, R250). -/
def decodeLoop (w : W32) : Except Reject Instr :=
  match (fMode w).toNat with
  | 0 => need ((fLa w) == 0) .unusedField <| withCode (Lc.ofCode (fLc w)) fun l => .ok (.loop l (fLen w) (fImm10 w))
  | _ => need ((fImm10 w) == 0) .unusedField <| withCode (Lc.ofCode (fLc w)) fun l => .ok (.loopr l (fLen w) (fLa w))

/-- The sequencer profile, by major opcode (R219). -/
def decodeFields (w imm : W32) : Except Reject Instr :=
  match (fMaj w).toNat with
  | 0 => decodeAlu w
  | 1 => .ok (.addi (fD w) (fA w) (fImm16 w))
  | 2 => .ok (.andi (fD w) (fA w) (fImm16 w))
  | 3 => .ok (.ori (fD w) (fA w) (fImm16 w))
  | 4 => .ok (.xori (fD w) (fA w) (fImm16 w))
  | 5 => need (((fImm16 w).extractLsb' 6 10) == 0) .unusedField <| .ok (.shli (fD w) (fA w) ((fImm16 w).extractLsb' 0 6))
  | 6 => need (((fImm16 w).extractLsb' 6 10) == 0) .unusedField <| .ok (.shri (fD w) (fA w) ((fImm16 w).extractLsb' 0 6))
  | 7 => need (((fImm16 w).extractLsb' 6 10) == 0) .unusedField <| .ok (.srai (fD w) (fA w) ((fImm16 w).extractLsb' 0 6))
  | 8 => need ((fA w) == 0) .unusedField <| .ok (.lui (fD w) (fImm16 w))
  | 9 => need ((fA w) == 0) .unusedField <| .ok (.movi (fD w) (fImm16 w))
  | 16 => decodePset w
  | 17 => need (((fD w).extractLsb' 3 2) == 0) .unusedField <| withCode (Cond.ofCode ((fImm16 w).extractLsb' 12 4)) fun c => .ok (.pseti ((fD w).extractLsb' 0 3) (fA w) c ((fImm16 w).extractLsb' 0 12))
  | 18 => decodePlog w
  | 24 => .ok (.br (fBr w) (fOff22 w))
  | 25 => need (fBr w == Guard.always) .unusedField <| .ok (.jmp (fOff22 w))
  | 26 => need (fBr w == Guard.always) .unusedField <| .ok (.call (fOff22 w))
  | 27 => decodeCtrl w
  | 28 => decodeLoop w
  | 32 => decodeLds w
  | 33 => decodeSts w
  | 34 => decodeAtom w
  | 35 => decodeXacc w
  | 36 => decodeBuf w
  | 37 => decodeHnd w
  | 38 => decodeCpy w
  | 39 => decodeSync w
  | 40 => decodeFab w
  | 41 => decodeStrm w
  | 42 => decodeMtx w
  | 43 => decodeMqf w
  | 48 => decodeQue w
  | 49 => need ((fA w) == 0) .unusedField <| .ok (.mfsr (fD w) (fImm16 w))
  | 50 => need ((fD w) == 0) .unusedField <| .ok (.mtsr (fA w) (fImm16 w))
  | 51 => decodeSys w
  | 63 => decodeSx w imm
  | _ => .error .reservedMajor

/-- The element profile, by opcode (R228). -/
def decodeElemFields (h : EHdr) (w : W32) : Except Reject Instr :=
  match (fOpc w).toNat with
  | 0 => need (((fAux w).extractLsb' 0 5) == 0) .unusedField <| withCode (RMode.ofCode ((fAux w).extractLsb' 5 3)) fun r => .ok (.fadd h (Ty.ofCode (fTy w)) r)
  | 1 => need (((fAux w).extractLsb' 0 5) == 0) .unusedField <| withCode (RMode.ofCode ((fAux w).extractLsb' 5 3)) fun r => .ok (.fsub h (Ty.ofCode (fTy w)) r)
  | 2 => need (((fAux w).extractLsb' 0 5) == 0) .unusedField <| withCode (RMode.ofCode ((fAux w).extractLsb' 5 3)) fun r => .ok (.fmul h (Ty.ofCode (fTy w)) r)
  | 3 => need (((fAux w).extractLsb' 0 5) == 0) .unusedField <| withCode (RMode.ofCode ((fAux w).extractLsb' 5 3)) fun r => .ok (.ffma h (Ty.ofCode (fTy w)) r)
  | 4 => need (((fAux w).extractLsb' 0 5) == 0) .unusedField <| withCode (RMode.ofCode ((fAux w).extractLsb' 5 3)) fun r => .ok (.ffms h (Ty.ofCode (fTy w)) r)
  | 5 => need ((fAux w) == 0) .unusedField <| .ok (.fmin h (Ty.ofCode (fTy w)))
  | 6 => need ((fAux w) == 0) .unusedField <| .ok (.fmax h (Ty.ofCode (fTy w)))
  | 7 => need ((fAux w) == 0) .unusedField <| .ok (.fabs h (Ty.ofCode (fTy w)))
  | 8 => need ((fAux w) == 0) .unusedField <| .ok (.fneg h (Ty.ofCode (fTy w)))
  | 9 => need ((fTy w) == 0) .unusedField <| need ((fAux w) == 0) .unusedField <| .ok (.frcp h)
  | 10 => need ((fTy w) == 0) .unusedField <| need ((fAux w) == 0) .unusedField <| .ok (.fsqrt h)
  | 11 => need ((fTy w) == 0) .unusedField <| need ((fAux w) == 0) .unusedField <| .ok (.frsq h)
  | 12 => need ((fTy w) == 0) .unusedField <| need ((fAux w) == 0) .unusedField <| .ok (.fexp2 h)
  | 13 => need ((fTy w) == 0) .unusedField <| need ((fAux w) == 0) .unusedField <| .ok (.flog2 h)
  | 14 => need ((fTy w) == 0) .unusedField <| need ((fAux w) == 0) .unusedField <| .ok (.ftanh h)
  | 15 => need (((fAux w).extractLsb' 3 5) == 0) .unusedField <| .ok (.fcmp h (Ty.ofCode (fTy w)) (FCond.ofCode ((fAux w).extractLsb' 0 3)))
  | 16 => withCode (RMode.ofCode ((fAux w).extractLsb' 5 3)) fun r => .ok (.cvt h (Ty.ofCode (fTy w)) r (Ty.ofCode ((fAux w).extractLsb' 2 3)) (((fAux w).extractLsb' 1 1) == 1) (((fAux w).extractLsb' 0 1) == 1))
  | 64 => need (((fAux w).extractLsb' 2 6) == 0) .unusedField <| .ok (.iadd h (Ty.ofCode (fTy w)) (((fAux w).extractLsb' 1 1) == 1) (((fAux w).extractLsb' 0 1) == 1))
  | 65 => need (((fAux w).extractLsb' 2 6) == 0) .unusedField <| .ok (.isub h (Ty.ofCode (fTy w)) (((fAux w).extractLsb' 1 1) == 1) (((fAux w).extractLsb' 0 1) == 1))
  | 66 => need ((fAux w) == 0) .unusedField <| .ok (.imul h (Ty.ofCode (fTy w)))
  | 67 => need (((fAux w).extractLsb' 2 6) == 0) .unusedField <| need (((fAux w).extractLsb' 0 1) == 0) .unusedField <| .ok (.imulh h (Ty.ofCode (fTy w)) (((fAux w).extractLsb' 1 1) == 1))
  | 68 => need (((fAux w).extractLsb' 2 6) == 0) .unusedField <| .ok (.imad h (Ty.ofCode (fTy w)) (((fAux w).extractLsb' 1 1) == 1) (((fAux w).extractLsb' 0 1) == 1))
  | 69 => need ((fAux w) == 0) .unusedField <| .ok (.iand h (Ty.ofCode (fTy w)))
  | 70 => need ((fAux w) == 0) .unusedField <| .ok (.ior h (Ty.ofCode (fTy w)))
  | 71 => need ((fAux w) == 0) .unusedField <| .ok (.ixor h (Ty.ofCode (fTy w)))
  | 72 => need ((fAux w) == 0) .unusedField <| .ok (.ishl h (Ty.ofCode (fTy w)))
  | 73 => need ((fAux w) == 0) .unusedField <| .ok (.ishr h (Ty.ofCode (fTy w)))
  | 74 => need ((fAux w) == 0) .unusedField <| .ok (.isra h (Ty.ofCode (fTy w)))
  | 75 => need (((fAux w).extractLsb' 2 6) == 0) .unusedField <| need (((fAux w).extractLsb' 0 1) == 0) .unusedField <| .ok (.imin h (Ty.ofCode (fTy w)) (((fAux w).extractLsb' 1 1) == 1))
  | 76 => need (((fAux w).extractLsb' 2 6) == 0) .unusedField <| need (((fAux w).extractLsb' 0 1) == 0) .unusedField <| .ok (.imax h (Ty.ofCode (fTy w)) (((fAux w).extractLsb' 1 1) == 1))
  | 77 => need (((fAux w).extractLsb' 0 4) == 0) .unusedField <| withCode (Cond.ofCode ((fAux w).extractLsb' 4 4)) fun c => .ok (.icmp h (Ty.ofCode (fTy w)) c)
  | 128 => need ((fTy w) == 0) .unusedField <| need ((fAux w) == 0) .unusedField <| .ok (.selE h)
  | 129 => need ((fTy w) == 0) .unusedField <| need ((fAux w) == 0) .unusedField <| .ok (.mov h)
  | 130 => need ((fTy w) == 0) .unusedField <| need (((fAux w).extractLsb' 5 3) == 0) .unusedField <| .ok (.lbc h ((fAux w).extractLsb' 0 5))
  | 131 => need ((fTy w) == 0) .unusedField <| withCode (Shuffle.ofCode ((fAux w).extractLsb' 5 3)) fun z => .ok (.lshf h z ((fAux w).extractLsb' 0 5))
  | 132 => need (((fAux w).extractLsb' 3 5) == 0) .unusedField <| .ok (.lred h (Ty.ofCode (fTy w)) (RedOp.ofCode ((fAux w).extractLsb' 0 3)))
  | 136 => need ((fTy w) == 0) .unusedField <| .ok (.pack h (fAux w))
  | 137 => need ((fTy w) == 0) .unusedField <| need ((fAux w) == 0) .unusedField <| .ok (.unpack h)
  | 138 => need ((fTy w) == 0) .unusedField <| need ((fAux w) == 0) .unusedField <| .ok (.ctxa h)
  | 139 => need ((fTy w) == 0) .unusedField <| need ((fAux w) == 0) .unusedField <| .ok (.ctxf h)
  | 144 => need ((fTy w) == 0) .unusedField <| need ((fAux w) == 0) .unusedField <| .ok (.null h)
  | 145 => need ((fTy w) == 0) .unusedField <| need ((fAux w) == 0) .unusedField <| .ok (.exit h)
  | 146 => need ((fTy w) == 0) .unusedField <| need ((fAux w) == 0) .unusedField <| .ok (.steer h)
  | 147 => need ((fTy w) == 0) .unusedField <| need ((fAux w) == 0) .unusedField <| .ok (.merge h)
  | 148 => need ((fTy w) == 0) .unusedField <| need ((fAux w) == 0) .unusedField <| .ok (.sink h)
  | 160 => need ((fTy w) == 0) .unusedField <| need (((fAux w).extractLsb' 6 2) == 0) .unusedField <| .ok (.ldeclE h ((fAux w).extractLsb' 0 6))
  | 161 => need (((fAux w).extractLsb' 6 2) == 0) .unusedField <| .ok (.plyE h (Ty.ofCode (fTy w)) ((fAux w).extractLsb' 0 6))
  | 162 => need ((fTy w) == 0) .unusedField <| withCode (RdlMode.ofCode ((fAux w).extractLsb' 6 2)) fun z => .ok (.rdlE h z ((fAux w).extractLsb' 0 6))
  | 163 => need ((fTy w) == 0) .unusedField <| need (((fAux w).extractLsb' 6 2) == 0) .unusedField <| .ok (.settleE h ((fAux w).extractLsb' 0 6))
  | 168 => need ((fTy w) == 5) .unusedField <| need (((fAux w).extractLsb' 4 4) == 0) .unusedField <| .ok (.cnt h ((fAux w).extractLsb' 2 2) ((fAux w).extractLsb' 0 2))
  | 169 => need (((fAux w).extractLsb' 3 5) == 0) .unusedField <| .ok (.acc h (Ty.ofCode (fTy w)) (RedOp.ofCode ((fAux w).extractLsb' 0 3)))
  | 192 => if (fAux w).extractLsb' 0 3 = 6 then .ok (.ldscE h (Ty.ofCode (fTy w)) ((fAux w).extractLsb' 3 5))
    else withCode (ElemOrd.ofCode ((fAux w).extractLsb' 0 3)) fun q => .ok (.lde h (Ty.ofCode (fTy w)) ((fAux w).extractLsb' 3 5) q)
  | 193 => if (fAux w).extractLsb' 0 3 = 6 then .ok (.stscE h (Ty.ofCode (fTy w)) ((fAux w).extractLsb' 3 5))
    else withCode (ElemOrd.ofCode ((fAux w).extractLsb' 0 3)) fun q => .ok (.ste h (Ty.ofCode (fTy w)) ((fAux w).extractLsb' 3 5) q)
  | 194 => withCode (ElemOrd.ofCode ((fAux w).extractLsb' 0 3)) fun q => .ok (.bldE h (Ty.ofCode (fTy w)) ((fAux w).extractLsb' 3 5) q)
  | 195 => withCode (ElemOrd.ofCode ((fAux w).extractLsb' 0 3)) fun q => .ok (.bstE h (Ty.ofCode (fTy w)) ((fAux w).extractLsb' 3 5) q)
  | 200 => need ((fTy w) == 5) .unusedField <| withCode (ElemOrd.ofCode ((fAux w).extractLsb' 0 3)) fun q => .ok (.aaddE h ((fAux w).extractLsb' 3 5) q)
  | 201 => need ((fTy w) == 5) .unusedField <| withCode (ElemOrd.ofCode ((fAux w).extractLsb' 0 3)) fun q => .ok (.aandE h ((fAux w).extractLsb' 3 5) q)
  | 202 => need ((fTy w) == 5) .unusedField <| withCode (ElemOrd.ofCode ((fAux w).extractLsb' 0 3)) fun q => .ok (.aorE h ((fAux w).extractLsb' 3 5) q)
  | 203 => need ((fTy w) == 5) .unusedField <| withCode (ElemOrd.ofCode ((fAux w).extractLsb' 0 3)) fun q => .ok (.axorE h ((fAux w).extractLsb' 3 5) q)
  | 204 => need ((fTy w) == 5) .unusedField <| withCode (ElemOrd.ofCode ((fAux w).extractLsb' 0 3)) fun q => .ok (.aminE h ((fAux w).extractLsb' 3 5) q)
  | 205 => need ((fTy w) == 5) .unusedField <| withCode (ElemOrd.ofCode ((fAux w).extractLsb' 0 3)) fun q => .ok (.amaxE h ((fAux w).extractLsb' 3 5) q)
  | 206 => need ((fTy w) == 5) .unusedField <| withCode (ElemOrd.ofCode ((fAux w).extractLsb' 0 3)) fun q => .ok (.aminuE h ((fAux w).extractLsb' 3 5) q)
  | 207 => need ((fTy w) == 5) .unusedField <| withCode (ElemOrd.ofCode ((fAux w).extractLsb' 0 3)) fun q => .ok (.amaxuE h ((fAux w).extractLsb' 3 5) q)
  | 208 => need ((fTy w) == 5) .unusedField <| withCode (ElemOrd.ofCode ((fAux w).extractLsb' 0 3)) fun q => .ok (.aswpE h ((fAux w).extractLsb' 3 5) q)
  | 209 => need ((fTy w) == 5) .unusedField <| withCode (ElemOrd.ofCode ((fAux w).extractLsb' 0 3)) fun q => .ok (.acasE h ((fAux w).extractLsb' 3 5) q)
  | 210 => need ((fTy w) == 0) .unusedField <| withCode (ElemOrd.ofCode ((fAux w).extractLsb' 0 3)) fun q => .ok (.afminE h ((fAux w).extractLsb' 3 5) q)
  | 211 => need ((fTy w) == 0) .unusedField <| withCode (ElemOrd.ofCode ((fAux w).extractLsb' 0 3)) fun q => .ok (.afmaxE h ((fAux w).extractLsb' 3 5) q)
  | 212 => need (((fTy w).extractLsb' 2 1) == 0) .unusedField <| withCode (AxFmt.ofCode ((fTy w).extractLsb' 0 2)) fun f => withCode (ElemOrd.ofCode ((fAux w).extractLsb' 0 3)) fun q => .ok (.axaddE h f ((fAux w).extractLsb' 3 5) q)
  | 213 => need (((fTy w).extractLsb' 2 1) == 0) .unusedField <| withCode (AxFmt.ofCode ((fTy w).extractLsb' 0 2)) fun f => withCode (ElemOrd.ofCode ((fAux w).extractLsb' 0 3)) fun q => .ok (.axrdE h f ((fAux w).extractLsb' 3 5) q)
  | 214 => need ((fTy w) == 0) .unusedField <| withCode (ElemOrd.ofCode ((fAux w).extractLsb' 0 3)) fun q => .ok (.axclrE h ((fAux w).extractLsb' 3 5) q)
  | 224 => need ((fTy w) == 0) .unusedField <| need ((fAux w) == 0) .unusedField <| .ok (.copyE h)
  | _ => .error .reservedOpcode


/-- An instruction that R224 or R229 lets stand. -/
def checked (r : Except Reject Instr) : Except Reject Instr :=
  match r with
  | .error e => .error e
  | .ok i => match i.check with | none => .ok i | some f => .error (.malformed f)

/-- Whether a word is the first of the two words of an SX instruction (R218). -/
def isSx (w : W32) : Bool := fMaj w == 0x3F

/-- The sequencer instruction of a word, with the word that follows an SX word (R215–R224). -/
def decodeSeq (w imm : W32) : Except Reject Instr := checked (decodeFields w imm)

/-- The element instruction of a word (R225–R229). -/
def decodeElem (w : W32) : Except Reject Instr :=
  match Pm.ofCode (w.extractLsb' 22 2) with
  | none => .error .fieldCode
  | some pm =>
    checked (decodeElemFields
      { pm := pm, nt := w.extractLsb' 20 2, ks := w.extractLsb' 17 3, kp := w.extractLsb' 15 2,
        om := w.extractLsb' 8 4 } w)

/-- A little-endian word of four bytes (R215). -/
def wordOfBytes (a b c d : Byte) : W32 := d ++ (c ++ (b ++ a))
/-- The bytes of a word, lowest address first. -/
def bytesOfWord (w : W32) : List Byte :=
  [w.extractLsb' 0 8, w.extractLsb' 8 8, w.extractLsb' 16 8, w.extractLsb' 24 8]

/-- The sequencer instruction at the start of a byte sequence, and the bytes after it. -/
def decodeBytes : List Byte → Except Reject (Instr × List Byte)
  | a :: b :: c :: d :: rest =>
    let w := wordOfBytes a b c d
    if isSx w then
      match rest with
      | e :: f :: g :: h :: rest' =>
        match decodeSeq w (wordOfBytes e f g h) with
        | .ok i => .ok (i, rest')
        | .error r => .error r
      | _ => .error .truncated
    else
      match decodeSeq w 0 with
      | .ok i => .ok (i, rest)
      | .error r => .error r
  | _ => .error .truncated

/-- The words of an instruction, written from the encoding tables of the spec; an event has none. -/
def encode : Instr → List W32
  | .add g d a b => [srWord 0x00 d a b g 0]
  | .sub g d a b => [srWord 0x00 d a b g 1]
  | .mul g d a b => [srWord 0x00 d a b g 2]
  | .mulh g d a b => [srWord 0x00 d a b g 3]
  | .mulhu g d a b => [srWord 0x00 d a b g 4]
  | .div g d a b => [srWord 0x00 d a b g 5]
  | .divu g d a b => [srWord 0x00 d a b g 6]
  | .rem g d a b => [srWord 0x00 d a b g 7]
  | .remu g d a b => [srWord 0x00 d a b g 8]
  | .and g d a b => [srWord 0x00 d a b g 9]
  | .or g d a b => [srWord 0x00 d a b g 10]
  | .xor g d a b => [srWord 0x00 d a b g 11]
  | .andn g d a b => [srWord 0x00 d a b g 12]
  | .shl g d a b => [srWord 0x00 d a b g 13]
  | .shr g d a b => [srWord 0x00 d a b g 14]
  | .sra g d a b => [srWord 0x00 d a b g 15]
  | .rol g d a b => [srWord 0x00 d a b g 16]
  | .min g d a b => [srWord 0x00 d a b g 17]
  | .max g d a b => [srWord 0x00 d a b g 18]
  | .minu g d a b => [srWord 0x00 d a b g 19]
  | .maxu g d a b => [srWord 0x00 d a b g 20]
  | .clz g d a => [srWord 0x00 d a 0 g 21]
  | .ctz g d a => [srWord 0x00 d a 0 g 22]
  | .popc g d a => [srWord 0x00 d a 0 g 23]
  | .brev g d a => [srWord 0x00 d a 0 g 24]
  | .sextB g d a => [srWord 0x00 d a 0 g 25]
  | .sextH g d a => [srWord 0x00 d a 0 g 26]
  | .sextW g d a => [srWord 0x00 d a 0 g 27]
  | .zextB g d a => [srWord 0x00 d a 0 g 28]
  | .zextH g d a => [srWord 0x00 d a 0 g 29]
  | .zextW g d a => [srWord 0x00 d a 0 g 30]
  | .lea g d a b s => [srWord 0x00 d a b g (0b01000#5 ++ s)]
  | .addi d a i => [siWord 1 d a i]
  | .andi d a i => [siWord 2 d a i]
  | .ori d a i => [siWord 3 d a i]
  | .xori d a i => [siWord 4 d a i]
  | .shli d a n => [siWord 5 d a (0#10 ++ n)]
  | .shri d a n => [siWord 6 d a (0#10 ++ n)]
  | .srai d a n => [siWord 7 d a (0#10 ++ n)]
  | .lui d i => [siWord 0x08 d 0 i]
  | .movi d i => [siWord 0x09 d 0 i]
  | .moviSx d i => [sxWord 0x04 d 0 0 0, i]
  | .pset g p a b c => [srWord 0x10 (0#2 ++ p) a b g (0#3 ++ c.code)]
  | .pseti p a c i => [siWord 0x11 (0#2 ++ p) a (c.code ++ i)]
  | .pand g d a b => [srWord 0x12 (0#2 ++ d) (0#2 ++ a) (0#2 ++ b) g 0]
  | .por g d a b => [srWord 0x12 (0#2 ++ d) (0#2 ++ a) (0#2 ++ b) g 1]
  | .pxor g d a b => [srWord 0x12 (0#2 ++ d) (0#2 ++ a) (0#2 ++ b) g 2]
  | .pnot g d a => [srWord 0x12 (0#2 ++ d) (0#2 ++ a) 0 g 3]
  | .sel g d a b => [srWord 0x12 d a b g 8]
  | .br g o => [sbWord 0x18 g o]
  | .jmp o => [sbWord 0x19 Guard.always o]
  | .call o => [sbWord 0x1A Guard.always o]
  | .jr g a => [srWord 0x1B 0 a 0 g 0]
  | .callr g a => [srWord 0x1B 0 a 0 g 1]
  | .ret g => [srWord 0x1B 0 0 0 g 2]
  | .trap g n => [srWord 0x1B n 0 0 g 3]
  | .hret g => [srWord 0x1B 0 0 0 g 4]
  | .dstop g => [srWord 0x1B 0 0 0 g 5]
  | .nop g => [srWord 0x1B 0 0 0 g 6]
  | .halt g => [srWord 0x1B 0 0 0 g 7]
  | .loop l n i => [slWord 0x1C l.code n 0 0 i]
  | .loopr l n a => [slWord 0x1C l.code n 1 a 0]
  | .lds d a o s q => [smWord 0x20 d a o s (0#1 ++ BitVec.ofBool q)]
  | .ldsc d a o s => [smWord 0x20 d a o s 2]
  | .ldsSx d a s q o => [sxWord 0x00 d a (0#3 ++ s.code) q.code, o]
  | .sts d a o s q => [smWord 0x21 d a o s (0#1 ++ BitVec.ofBool q)]
  | .stsc d a o s => [smWord 0x21 d a o s 2]
  | .stsSx d a s q o => [sxWord 0x01 d a (0#3 ++ s.code) q.code, o]
  | .aadd g d a b s q => [srWord 0x22 d a b g (0#4 ++ (BitVec.ofBool s ++ q.code))]
  | .aand g d a b s q => [srWord 0x22 d a b g (1#4 ++ (BitVec.ofBool s ++ q.code))]
  | .aor g d a b s q => [srWord 0x22 d a b g (2#4 ++ (BitVec.ofBool s ++ q.code))]
  | .axor g d a b s q => [srWord 0x22 d a b g (3#4 ++ (BitVec.ofBool s ++ q.code))]
  | .amin g d a b s q => [srWord 0x22 d a b g (4#4 ++ (BitVec.ofBool s ++ q.code))]
  | .amax g d a b s q => [srWord 0x22 d a b g (5#4 ++ (BitVec.ofBool s ++ q.code))]
  | .aminu g d a b s q => [srWord 0x22 d a b g (6#4 ++ (BitVec.ofBool s ++ q.code))]
  | .amaxu g d a b s q => [srWord 0x22 d a b g (7#4 ++ (BitVec.ofBool s ++ q.code))]
  | .aswp g d a b s q => [srWord 0x22 d a b g (8#4 ++ (BitVec.ofBool s ++ q.code))]
  | .acas g d a b s q => [srWord 0x22 d a b g (9#4 ++ (BitVec.ofBool s ++ q.code))]
  | .afmin g d a b q => [srWord 0x22 d a b g (10#4 ++ (0#1 ++ q.code))]
  | .afmax g d a b q => [srWord 0x22 d a b g (11#4 ++ (0#1 ++ q.code))]
  | .axadd g a b f => [srWord 0x23 0 a b g (0#5 ++ f.code)]
  | .axrd g d a f => [srWord 0x23 d a 0 g (1#5 ++ f.code)]
  | .axclr g a => [srWord 0x23 0 a 0 g 8]
  | .bld g d h b s => [srWord 0x24 d (0#1 ++ h) b g (0#5 ++ s.code)]
  | .bst g d h b s => [srWord 0x24 d (0#1 ++ h) b g (1#5 ++ s.code)]
  | .bldSx d h s o => [sxWord 0x02 d (0#1 ++ h) (0#3 ++ s.code) 0, 0#12 ++ o]
  | .bstSx d h s o => [sxWord 0x03 d (0#1 ++ h) (0#3 ++ s.code) 0, 0#12 ++ o]
  | .halloc g h a s => [srWord 0x25 (0#1 ++ h) a (0#3 ++ s) g 0]
  | .hfree g h => [srWord 0x25 0 (0#1 ++ h) 0 g 1]
  | .hgive g h b => [srWord 0x25 0 (0#1 ++ h) b g 2]
  | .htake g d a h => [srWord 0x25 d a (0#1 ++ h) g 3]
  | .hqry g d a => [srWord 0x25 d a 0 g 4]
  | .copy g d a => [srWord 0x26 d a 0 g 0]
  | .cpwait g a => [srWord 0x26 0 a 0 g 1]
  | .cpqry g d a => [srWord 0x26 d a 0 g 2]
  | .fence g s => [srWord 0x27 0 0 0 g (0#4 ++ s.code)]
  | .fenceAcq g s => [srWord 0x27 0 0 0 g (1#4 ++ s.code)]
  | .fenceRel g s => [srWord 0x27 0 0 0 g (2#4 ++ s.code)]
  | .bara g d a s => [srWord 0x27 d a 0 g (3#4 ++ s.code)]
  | .barw g a b s => [srWord 0x27 0 a b g (4#4 ++ s.code)]
  | .bar g a s => [srWord 0x27 0 a 0 g (5#4 ++ s.code)]
  | .nmcmd g a => [srWord 0x27 0 a 0 g 0x30]
  | .nmfence g => [srWord 0x27 0 0 0 g 0x38]
  | .nmstat g d a => [srWord 0x27 d a 0 g 0x40]
  | .xsend g a => [srWord 0x27 0 a 0 g 0x48]
  | .xrecv g d a b => [srWord 0x27 d a b g 0x50]
  | .xred g a => [srWord 0x27 0 a 0 g 0x58]
  | .xrslt g d a => [srWord 0x27 d a 0 g 0x60]
  | .blkrun a b c h => [scWord 40 0 a b c (0#4 ++ BitVec.ofBool h)]
  | .blkpin a b c => [scWord 40 1 a b c 0]
  | .blkunpin b => [scWord 40 2 0 b 0 0]
  | .jigmap a b => [scWord 40 3 a b 0 0]
  | .cfgswap a => [scWord 40 4 a 0 0 0]
  | .inj a b c l => [scWord 40 5 a b c (0#4 ++ BitVec.ofBool l)]
  | .snkrd a b c l => [scWord 40 6 a b c l]
  | .argw a b => [scWord 40 7 a b 0 0]
  | .round => [scWord 40 8 0 0 0 0]
  | .gate a b => [scWord 40 9 a b 0 0]
  | .gateWait a b => [scWord 40 9 a b 0 2]
  | .gateOpen a b => [scWord 40 9 a b 0 1]
  | .strm a p => [scWord 41 0 a 0 0 (0#1 ++ p)]
  | .sbar a => [scWord 41 1 a 0 0 0]
  | .spos c p => [scWord 41 2 0 0 c (0#1 ++ p)]
  | .tdef a b => [scWord 42 0 a b 0 0]
  | .tqry a c => [scWord 42 1 a 0 c 0]
  | .ttagFull a => [scWord 42 2 a 0 0 0]
  | .ttagEmpty a => [scWord 42 2 a 0 0 1]
  | .ttagWaitfull a => [scWord 42 2 a 0 0 2]
  | .ttagWaitempty a => [scWord 42 2 a 0 0 3]
  | .gath a b m => [scWord 42 3 a b 0 (0#3 ++ m)]
  | .mmbind a b c => [scWord 42 4 a b c 0]
  | .mmunb a => [scWord 42 5 a 0 0 0]
  | .mmepi a b c x m => [scWord 42 6 a b c (0#2 ++ (BitVec.ofBool x ++ m))]
  | .mmsmxStart a b c => [scWord 42 7 a b c 0]
  | .mmsmxFin a b c => [scWord 42 7 a b c 1]
  | .mmstat a c s => [scWord 42 8 a 0 c (0#3 ++ s)]
  | .qtld a b => [scWord 43 0 a b 0 0]
  | .qwld a b => [scWord 43 1 a b 0 0]
  | .qctxClaim => [scWord 43 2 0 0 0 0]
  | .qctxRelease => [scWord 43 2 0 0 0 1]
  | .qctxClear => [scWord 43 2 0 0 0 2]
  | .qrun a => [scWord 43 3 a 0 0 0]
  | .xpose a b c => [scWord 43 4 a b c 0]
  | .xposb a b => [scWord 43 5 a b 0 0]
  | .qpopc a b c k d => [scWord 43 6 a b c (0#2 ++ (BitVec.ofBool k ++ d))]
  | .qbrk a c => [scWord 43 7 a 0 0 (0#3 ++ c)]
  | .qstatMq c s => [scWord 43 8 0 0 c (0#3 ++ s)]
  | .qpush g d a b => [srWord 0x30 d a b g 0]
  | .qpushw g a b => [srWord 0x30 0 a b g 1]
  | .qpop g d a b => [srWord 0x30 d a b g 2]
  | .qstat g d a => [srWord 0x30 d a 0 g 3]
  | .doze g d a => [srWord 0x30 d a 0 g 4]
  | .poke g a => [srWord 0x30 0 a 0 g 5]
  | .mfsr d r => [siWord 0x31 d 0 r]
  | .mtsr a r => [siWord 0x32 0 a r]
  | .tlbinv g s a b => [srWord 0x33 (0#2 ++ s.code) a b g 0]
  | .tlbinvAsid g s b => [srWord 0x33 (1#2 ++ s.code) 0 b g 0]
  | .tlbinvAll g s => [srWord 0x33 (2#2 ++ s.code) 0 0 g 0]
  | .icinv g a => [srWord 0x33 0 a 0 g 1]
  | .icinvAll g => [srWord 0x33 1 0 0 g 1]
  | .clamp g => [srWord 0x33 0 0 0 g 2]
  | .ctxsave g d a b => [srWord 0x33 d a b g 3]
  | .ctxrest g d a b => [srWord 0x33 d a b g 4]
  | .trcon g a => [srWord 0x33 0 a 0 g 5]
  | .trcoff g => [srWord 0x33 0 0 0 g 6]
  | .trmark g a => [srWord 0x33 0 a 0 g 7]
  | .ldecl a l => [sxWord 0x05 0 a 0 0, 0#26 ++ l]
  | .ply a l n y => [sxWord 0x06 0 a 0 0, 0#17 ++ (y ++ (0#1 ++ (n ++ l)))]
  | .rdl d l n m => [sxWord 0x07 d 0 0 0, 0#18 ++ (m.code ++ (0#1 ++ (n ++ l)))]
  | .settle l => [sxWord 0x08 0 0 0 0, 0#26 ++ l]
  | .fadd h y r => [elWord 0x0 h y.code (r.code ++ 0#5)]
  | .fsub h y r => [elWord 0x1 h y.code (r.code ++ 0#5)]
  | .fmul h y r => [elWord 0x2 h y.code (r.code ++ 0#5)]
  | .ffma h y r => [elWord 0x3 h y.code (r.code ++ 0#5)]
  | .ffms h y r => [elWord 0x4 h y.code (r.code ++ 0#5)]
  | .fmin h y => [elWord 0x5 h y.code 0]
  | .fmax h y => [elWord 0x6 h y.code 0]
  | .fabs h y => [elWord 0x7 h y.code 0]
  | .fneg h y => [elWord 0x8 h y.code 0]
  | .frcp h => [elWord 0x9 h 0 0]
  | .fsqrt h => [elWord 0xa h 0 0]
  | .frsq h => [elWord 0xb h 0 0]
  | .fexp2 h => [elWord 0xc h 0 0]
  | .flog2 h => [elWord 0xd h 0 0]
  | .ftanh h => [elWord 0xe h 0 0]
  | .fcmp h y c => [elWord 0xf h y.code (0#5 ++ c.code)]
  | .cvt h y r s u v => [elWord 0x10 h y.code (r.code ++ (s.code ++ (BitVec.ofBool u ++ BitVec.ofBool v)))]
  | .iadd h y u s => [elWord 0x40 h y.code (0#6 ++ (BitVec.ofBool u ++ BitVec.ofBool s))]
  | .isub h y u s => [elWord 0x41 h y.code (0#6 ++ (BitVec.ofBool u ++ BitVec.ofBool s))]
  | .imul h y => [elWord 0x42 h y.code 0]
  | .imulh h y u => [elWord 0x43 h y.code (0#6 ++ (BitVec.ofBool u ++ 0#1))]
  | .imad h y u s => [elWord 0x44 h y.code (0#6 ++ (BitVec.ofBool u ++ BitVec.ofBool s))]
  | .iand h y => [elWord 0x45 h y.code 0]
  | .ior h y => [elWord 0x46 h y.code 0]
  | .ixor h y => [elWord 0x47 h y.code 0]
  | .ishl h y => [elWord 0x48 h y.code 0]
  | .ishr h y => [elWord 0x49 h y.code 0]
  | .isra h y => [elWord 0x4a h y.code 0]
  | .imin h y u => [elWord 0x4b h y.code (0#6 ++ (BitVec.ofBool u ++ 0#1))]
  | .imax h y u => [elWord 0x4c h y.code (0#6 ++ (BitVec.ofBool u ++ 0#1))]
  | .icmp h y c => [elWord 0x4d h y.code (c.code ++ 0#4)]
  | .selE h => [elWord 0x80 h 0 0]
  | .mov h => [elWord 0x81 h 0 0]
  | .lbc h x => [elWord 0x82 h 0 (0#3 ++ x)]
  | .lshf h z x => [elWord 0x83 h 0 (z.code ++ x)]
  | .lred h y z => [elWord 0x84 h y.code (0#5 ++ z.code)]
  | .pack h c => [elWord 0x88 h 0 c]
  | .unpack h => [elWord 0x89 h 0 0]
  | .ctxa h => [elWord 0x8a h 0 0]
  | .ctxf h => [elWord 0x8b h 0 0]
  | .null h => [elWord 0x90 h 0 0]
  | .exit h => [elWord 0x91 h 0 0]
  | .steer h => [elWord 0x92 h 0 0]
  | .merge h => [elWord 0x93 h 0 0]
  | .sink h => [elWord 0x94 h 0 0]
  | .ldeclE h l => [elWord 0xa0 h 0 (0#2 ++ l)]
  | .plyE h y l => [elWord 0xa1 h y.code (0#2 ++ l)]
  | .rdlE h z l => [elWord 0xa2 h 0 (z.code ++ l)]
  | .settleE h l => [elWord 0xa3 h 0 (0#2 ++ l)]
  | .cnt h c v => [elWord 0xa8 h 5 (0#4 ++ (c ++ v))]
  | .acc h y z => [elWord 0xa9 h y.code (0#5 ++ z.code)]
  | .lde h y i q => [elWord 0xc0 h y.code (i ++ q.code)]
  | .ldscE h y i => [elWord 0xc0 h y.code (i ++ 6#3)]
  | .ste h y i q => [elWord 0xc1 h y.code (i ++ q.code)]
  | .stscE h y i => [elWord 0xc1 h y.code (i ++ 6#3)]
  | .bldE h y i q => [elWord 0xc2 h y.code (i ++ q.code)]
  | .bstE h y i q => [elWord 0xc3 h y.code (i ++ q.code)]
  | .aaddE h i q => [elWord 0xc8 h 5 (i ++ q.code)]
  | .aandE h i q => [elWord 0xc9 h 5 (i ++ q.code)]
  | .aorE h i q => [elWord 0xca h 5 (i ++ q.code)]
  | .axorE h i q => [elWord 0xcb h 5 (i ++ q.code)]
  | .aminE h i q => [elWord 0xcc h 5 (i ++ q.code)]
  | .amaxE h i q => [elWord 0xcd h 5 (i ++ q.code)]
  | .aminuE h i q => [elWord 0xce h 5 (i ++ q.code)]
  | .amaxuE h i q => [elWord 0xcf h 5 (i ++ q.code)]
  | .aswpE h i q => [elWord 0xd0 h 5 (i ++ q.code)]
  | .acasE h i q => [elWord 0xd1 h 5 (i ++ q.code)]
  | .afminE h i q => [elWord 0xd2 h 0 (i ++ q.code)]
  | .afmaxE h i q => [elWord 0xd3 h 0 (i ++ q.code)]
  | .axaddE h f i q => [elWord 0xd4 h (0#1 ++ f.code) (i ++ q.code)]
  | .axrdE h f i q => [elWord 0xd5 h (0#1 ++ f.code) (i ++ q.code)]
  | .axclrE h i q => [elWord 0xd6 h 0 (i ++ q.code)]
  | .copyE h => [elWord 0xe0 h 0 0]
  | .hostPostedWrite _ _ _ _ _ => []
  | .hostRead _ _ _ _ => []
  | .hostCompletion _ _ => []
  | .completionTimeout _ => []
  | .qdbRing _ _ _ => []
  | .registerWrite _ _ _ _ => []
  | .violationEntryFree _ _ _ => []
  | .fqctlWrite _ _ _ _ => []
  | .fqptrWrite _ _ _ _ => []
  | .ovfbaseWrite _ _ _ _ => []
  | .bwctlWrite _ _ _ => []
  | .bwshareWrite _ _ _ _ => []
  | .trapreqDone _ _ _ => []
  | .firstxRearm _ _ _ => []
  | .ueaddrClear _ _ => []
  | .configSpaceWrite _ _ _ _ => []
  | .jobctlKill _ _ => []
  | .clampcmdClamp _ _ _ => []
  | .clampcmdFire _ _ _ => []
  | .clampcmdBlock _ _ _ => []
  | .clampcmdTick _ _ _ => []
  | .clampcmdUnclamp _ _ _ => []
  | .clampcmdReverse _ _ _ => []
  | .dbgdataWrite _ _ _ _ => []
  | .dbgdataRead _ _ _ => []
  | .queueReset _ _ => []
  | .coreReset _ _ => []
  | .dieReset _ _ => []
  | .deviceReset => []
  | .bootImageFetched _ => []
  | .bootRetry => []
  | .walkComplete _ => []
  | .faultedUnitRestart _ _ _ => []
  | .sliceAccess _ => []
  | .lineFill _ _ _ => []
  | .patrolScrub _ _ => []
  | .scTokenVisit _ => []
  | .remoteBufferRequest _ => []
  | .packetHop _ => []
  | .packetAccept _ => []
  | .reservationHeader _ => []
  | .escapeOccupancyTimeout _ => []
  | .flowIdleTimeout _ => []
  | .bwWindowRefill _ => []
  | .handleDrainComplete _ _ _ => []
  | .handleMoveComplete _ _ _ => []
  | .granuleClearComplete _ _ => []
  | .copyCommandToken _ _ => []
  | .copyChunk _ _ => []
  | .copyRetire _ _ => []
  | .tokenArrive _ _ _ => []
  | .overflowReinject _ _ _ => []
  | .elementIssue _ _ => []
  | .firingResult _ _ => []
  | .loadResponse _ _ => []
  | .tokenHop _ _ => []
  | .instanceCreate _ _ => []
  | .instanceCommit _ => []
  | .plyPushArrive _ _ _ => []
  | .laminatedGather _ _ _ => []
  | .configRecordFetch _ _ _ => []
  | .jigPlacement _ _ => []
  | .frontEndFetch _ _ => []
  | .counterEmit _ _ _ _ => []
  | .roundBoundary _ _ => []
  | .accFlush _ _ _ => []
  | .colourFree _ _ _ => []
  | .streamRun _ _ => []
  | .streamComplete _ _ => []
  | .nmCommandArrive _ => []
  | .nmSlotStart _ => []
  | .nmRangeLock _ _ => []
  | .nmChunk _ _ => []
  | .nmComplete _ _ => []
  | .mmFiringStart _ => []
  | .mmGatherComplete _ => []
  | .mmKgroup _ => []
  | .mmFiringEnd _ => []
  | .mmIndexSetArrive _ _ => []
  | .mmDrainRow _ => []
  | .mmDrainComplete _ => []
  | .mmSoftmaxRow _ => []
  | .mqCommandStart _ => []
  | .mqEvaluation _ => []
  | .mqCommandComplete _ => []
  | .mqPopcountDeliver _ => []
  | .packetAtHead _ => []
  | .dispatchDecision => []
  | .waitsigPoll _ => []
  | .signalPerform _ => []
  | .phaseEnd _ => []
  | .detlevelApply _ => []
  | .memberEnd _ _ => []
  | .watchdogExpire _ _ => []
  | .qpushwTimeout _ _ => []
  | .dozeTimeout _ _ => []
  | .pokeDeliver _ _ => []
  | .barrierArrival _ _ => []
  | .quiescenceDrainEnd _ _ => []
  | .quiescenceStopEnd _ _ => []
  | .quiescenceReport _ _ => []
  | .contextSaved _ _ => []
  | .restoreComplete _ _ => []
  | .clampRequest _ => []
  | .clampLand _ => []
  | .clampResume _ => []
  | .blockStepTimeout _ => []
  | .tickStepEnd _ => []
  | .exchangeFlitReceive _ _ => []
  | .exchangeReplay _ _ => []
  | .messageDelivery _ _ => []
  | .redContributionArrive _ => []
  | .redSlotTimeout _ => []
  | .redResultArrive _ _ _ => []
  | .ptpMessage _ _ => []
  | .tickBoundary => []
  | .tempNotify => []
  | .tempTrip => []
  | .powerLimitWindow _ => []
  | .reservedEncoding => []
  | .holdover => []
  | .atomicopRequest _ _ _ _ _ _ _ => []
  | .attestationReport _ => []
  | .measurementExtend _ _ _ => []
  | .healthMonitorUpdate _ _ => []
  | .bootNetworkFailure => []

/-- The decoder on a word as spec/opcode_table.json numbers its bits: the sequencer profile is tried first, then the
element profile (log 8). The longest instruction has two words; bits above `nbits` are zero. -/
def decodeTableWord (nbits w : Nat) : Option Instr :=
  let v := w % 2 ^ nbits
  let lo : W32 := BitVec.ofNat 32 v
  let hi : W32 := BitVec.ofNat 32 (v / 2 ^ 32)
  match decodeBytes (bytesOfWord lo ++ bytesOfWord hi) with
  | .ok (i, _) => some i
  | .error _ => match decodeElem lo with | .ok i => some i | .error _ => none

end Sys2Proof
end

