-- ==== Sys2Proof/Config.lean ====
section
/-! DEFINITION. What an implementation fixes, and the values the spec leaves open. Every opaque constant is a free
value: nothing in Lean can evaluate it, so a statement about it holds whatever it is (log 2, 9). -/
namespace Sys2Proof.Config

/-- A value the spec leaves open, drawn with the state's counter `free` (log 2). -/
opaque freeWord : Nat → Word
/-- A byte the spec leaves open (log 2). -/
opaque freeByte : Nat → Byte

/-- Bytes from 0 to `hbmBytes - 1` are HBM4 (R9): 384 GiB. -/
def hbmBytes : Nat := 0x6000000000
/-- One stack's region (R81): 48 GiB. -/
def stackBytes : Nat := 0xC00000000
/-- First address of the device register space (R9). -/
def regBase : Nat := 0x8000000000000
/-- First address of the configuration space (R9). -/
def cfgBase : Nat := 0x8000010000000
/-- First address of the trace space (R9). -/
def trcBase : Nat := 0x8000020000000
/-- First address past the trace space (R9). -/
def devEnd : Nat := 0x8000030000000
/-- Cores of the device (the scope file's table). -/
def cores : Nat := 224
/-- Service cores: the spec gives no number; the model has sixteen (log 13, DESIGN CHOICE). -/
def serviceCores : Nat := 16

/-- SHA-384 of a byte string, as 48 bytes (FIPS 180-4, outside the spec: log 9). -/
opaque sha384 : List Byte → List Byte
/-- Whether an ECDSA P-384 signature verifies: key, signature, digest (FIPS 186-5: log 9). -/
opaque ecdsaVerify : List Byte → List Byte → List Byte → Bool
/-- Whether an LMS signature verifies: key, signature, message (RFC 8554: log 9). -/
opaque lmsVerify : List Byte → List Byte → List Byte → Bool
/-- An ECDSA P-384 signature by the identity key derived from the device secret: secret, message (R443, log 9). -/
opaque ecdsaSign : Word → List Byte → List Byte
/-- An LMS signature by the device key with a leaf index: secret, leaf, message (R443, log 9). -/
opaque lmsSign : Word → Nat → List Byte → List Byte
/-- The fused SHA-384 hashes of the two public keys (R442): not given. -/
opaque ecdsaKeyHash : List Byte
/-- The LMS key's hash. -/
opaque lmsKeyHash : List Byte
/-- The fused device secret (R443): not given. -/
opaque deviceSecret : Word
/-- The port (0 to 15) or the internal port (16) that the boot configuration gives a destination id (R438): not given. -/
opaque bootRoute : Nat → Nat
/-- The credits of a virtual channel of an exchange link when it comes up (R437): not given. -/
opaque linkCredits : Nat → Nat
/-- Whether a job has contexts on a device, by ASID and exchange id (R146): not given. -/
opaque jobDevice : Nat → Nat → Bool
/-- CRC-32C over a flit's header below bit 32 and its payload (R436, log 9). -/
opaque crc32c : List Byte → W32
/-- The boot ROM's bytes, which measurement register 0 covers (R443): not given. -/
opaque romImage : List Byte

end Sys2Proof.Config
end

