-- ==== Sys2Proof/Machine/State.lean ====
section
/-! DEFINITION. The machine's state as plain data, and the state after reset. INVENTORY.md, State, lists each
field with the rule that names it and its reset value. -/
namespace Sys2Proof.Machine

/-- A sparse table by key: keys strictly rising; an unlisted key has the default its accessor names. -/
abbrev NMap (α : Type) := List (Nat × α)

/-- Memory: the listed cells, addresses strictly rising, none equal to what an unlisted address reads as (zero:
log 4 for HBM4, log 5 for host memory; R311 and R445 for typed buffers). -/
abbrev Mem := List Host.Cell

/-- The unit whose instruction is being executed, or that moves by default. -/
inductive Actor where
  | idle
  | seq (c k : Nat)
  | svc (n : Nat)
  | elem (c e : Nat)
  deriving DecidableEq, Repr

/-- One entry of the agenda: who moves in a step (log 1). `deferred` leaves an access in flight, `stale` fetches from
the instruction cache (log 3). -/
inductive Turn where
  | seq (c k : Nat) (deferred stale : Bool)
  | svc (n : Nat) (deferred stale : Bool)
  | elem (c e : Nat) (deferred : Bool)
  | ev (i : Instr) (deferred : Bool)
  deriving DecidableEq, Repr

/-- Stops of the machine. No instruction of this model raises one: kept so that a later reading can name a stop. -/
inductive Fault where
  /-- Raised by nothing: the spec gives every access an effect (a fault record, a trap or an error response). Safe. -/
  | stuck
  deriving DecidableEq, Repr

/-- Refusals of the model. -/
inductive Refusal where
  /-- Raised only by an arm of `exec` whose instruction has no meaning yet: safe. -/
  | notModelled (mnemonic : String)
  deriving DecidableEq, Repr

/-- Causes (R38), named as there. -/
inductive Cause where
  | none | illop | priv | align | pageflt | perm | bufown | poison | fpx | jigfail | ovfq | nmerr | xlate
  | qfulltmo | phaseconf | watchdog | brkpt | clampin | savearea
  deriving DecidableEq, Repr

/-! ### Sequencers -/

/-- A level of the loop stack (R250): the counter's number, the first and the last word of the body. -/
structure Frame where
  lc    : BitVec 2
  first : Word
  last  : Word
  deriving DecidableEq, Repr

/-- An instruction under way: what the sequencer waits for when it is executed again. -/
inductive Wait where
  | none
  /-- DOZE and QPUSHW: waiting since this cycle (R253, R254). -/
  | since (cycle : Nat)
  /-- TRAP: until DONE (R249). -/
  | trapped
  /-- The access with this id is in flight (log 3). -/
  | request (id : Nat)
  /-- The access has answered with this value. -/
  | value (v : Word)
  /-- A page-table walk is in flight. -/
  | walk (id : Nat)
  /-- RDL waits for the transit bit of a register (R64). -/
  | gather (l : Nat)
  /-- The gather has answered with these lane records. -/
  | gathered (lanes : List (BitVec 384))
  /-- The jig works on the block (R193). -/
  | placing
  /-- BLKRUN has so many instances still to create: the placement, the colour, whether a chain, the next iteration
  (R259). -/
  | creating (place : Nat) (colour : Byte) (chain : Bool) (next : Half) (left : Nat)
  /-- BAR has arrived in this generation (R325). -/
  | generation (g : Half)
  /-- XRECV has posted its buffer (R329). -/
  | posted
  /-- XRSLT waits for the result of the reduction these words describe (R334). -/
  | result (w : List Word)
  /-- A handle move or offer is under way (R52, R337, R363). -/
  | moving
  /-- HALLOC waits for a run of granules of a space that the clearings will free (R311). -/
  | halloc (space n : Nat)
  /-- CTXSAVE of the context of this core and key is under way. -/
  | saving (c : Nat) (key : Half)
  /-- CTXREST of the context of this key is under way. -/
  | restoring (key : Half)
  /-- TLBINV removes entries of this ASID, or of all, and waits for the accesses translated with them (R33). -/
  | inval (asid : Option Nat)
  /-- SBAR: the commands to wait for, as (port, number) (R268). -/
  | ports (l : List (Nat × Nat))
  deriving DecidableEq, Repr

/-- The visible state of a sequencer (R242, R243), of a context or of a service core. -/
structure Seq where
  pc      : Word
  s       : NMap Word       -- S1–S31; default 0
  p       : BitVec 8        -- P0–P7; bit 0 is not read
  lc      : NMap W32        -- LC0–LC2; default 0
  loops   : List Frame      -- innermost first
  loopBuf : NMap W32        -- the loop buffer, by address (R251)
  evcnt   : Half
  qtmo    : Word
  fpxen   : Word
  h       : NMap Half       -- H0–H15; default 0xFFFF
  wait    : Wait
  stopped : Bool            -- HALT has retired
  deriving DecidableEq, Repr

/-- A service core (R249, R243, R466). -/
structure Svc where
  seq       : Seq
  hpc       : Word
  hcause    : Word
  hvec      : Word
  hloops    : List Frame     -- the loop stack set aside while a handler runs (R242)
  inHandler : Bool
  running   : Bool           -- released by the boot (R441)
  deriving DecidableEq, Repr

/-! ### Tokens and the dataflow region -/

/-- A token (R146, R198, R273): no lanes is a null token. `src` is the instance whose firing made it, 0 for none. -/
structure Token where
  colour : Byte
  iter   : Half
  lanes  : List W32
  xb     : BitVec 6
  last   : Bool
  src    : Nat
  deriving DecidableEq, Repr

/-- Where a token is bound: element, slot, operand (R184). -/
structure Dest where
  elem : Nat
  slot : Nat
  opnd : Nat
  deriving DecidableEq, Repr

/-- A token under way on a track or in a queue of its element's door. `entry` is the switch-table entry that routed
it, `origin` the element and slot it left, `hops` the box hops made (R179). -/
structure Flight where
  tok    : Token
  dest   : Dest
  entry  : Word
  origin : Nat × Nat
  hops   : Nat
  deriving DecidableEq, Repr

/-- Entries of a matching store taken for a token: the colour charged, whether from its reserve, how many (R171). -/
structure Charge where
  colour  : Byte
  reserve : Bool
  n       : Nat
  deriving DecidableEq, Repr

/-- A set in a matching store (R171): the operands present and the entries they occupy. -/
structure MEntry where
  way     : Nat
  colour  : Byte
  iter    : Half
  slot    : Nat
  opnds   : NMap Token
  charges : List Charge
  first   : Nat             -- the cycle in which its first token was accepted (R427)
  deriving DecidableEq, Repr

/-- A matched set in a ready queue, at the issue port or in the hold queue (R172, R56); its entries are freed when it
issues. -/
structure RSet where
  way    : Nat
  slot   : Nat
  colour : Byte
  iter   : Half
  toks   : List Token
  inst   : Nat              -- the block instance, 0 for none
  charges : List Charge
  held   : Bool             -- it has waited in the hold queue: its access was issued there
  deriving DecidableEq, Repr

/-- A firing's result before it enters its port registers (R276): the token of the even entries and of the odd ones. -/
structure Firing where
  elem : Nat
  way  : Nat
  slot : Nat
  om   : BitVec 4
  even : Token
  odd  : Token
  due  : Nat
  deriving DecidableEq, Repr

/-- An output port register (R172, R179): its tokens, and which branches have accepted. -/
structure PortReg where
  even   : Token
  odd    : Token
  slot   : Nat
  done   : BitVec 4
  freeAt : Nat
  deriving DecidableEq, Repr

/-- An element record in a way (R183). -/
structure Way where
  slots : NMap W32
  k     : NMap W32
  slotv : W32
  swt   : NMap Word          -- by port × 4 + entry
  v     : Bool
  jig   : Bool
  deriving DecidableEq, Repr

/-- A switch-box record in a way (R185). -/
structure BoxWay where
  out  : NMap Byte
  drop : BitVec 40
  deriving DecidableEq, Repr

/-- A run of an ACC node (R302): one exact accumulator or partial value per lane. -/
structure AccRun where
  lanes : List (BitVec 384)
  xb    : BitVec 6
  held  : Option (Byte × Half)
  deriving DecidableEq, Repr

/-- An element (R170–R172). -/
structure Elem where
  ways    : NMap Way         -- by way
  store   : List MEntry
  ready   : List RSet
  issuing : Option RSet
  busyTo  : Nat              -- the cycle in which the issue port frees (R172)
  ports   : NMap PortReg     -- by way × 4 + port
  gen     : NMap Word        -- SR generators G, by way (R206)
  acc     : NMap (List AccRun)  -- by way × 32 + slot, oldest run first
  hist    : NMap W32         -- by way × 16 + bin (R427)
  ovfs    : NMap W32         -- diversions, by way (R427)
  deriving DecidableEq, Repr

/-! ### Laminated registers -/

/-- A ply: lane records of 384 bits (R60) of one register; `born` orders the plies of a unit, all contexts' together. -/
structure Ply where
  reg   : Nat
  born  : Nat
  lanes : List (BitVec 384)
  deriving DecidableEq, Repr

/-- A laminated register: its declaration word (R294), its home ply, and a push in transit (R63). -/
structure Lam where
  decl    : W32
  home    : List (BitVec 384)
  transit : Option (List (BitVec 384) × Nat)
  deriving DecidableEq, Repr

/-! ### Blocks and instances -/

/-- A pending effect of an instance, held in the commit buffer (R59). `at_` is element × 32 + slot, `ord` the ordering
code of R227; a lane names its address, or its offset in the handle's buffer. -/
inductive Effect where
  | store (at_ lsid ord : Nat) (lanes : List (Nat × List Byte))
  | bst (at_ lsid ord : Nat) (handle : Half) (lanes : List (Nat × List Byte))
  /-- Element atomics: the operation, whether ordered (R401), (address, value, compare) by lane, the firing that takes
  the old values. -/
  | atomic (at_ lsid ord op : Nat) (ordered : Bool) (lanes : List (Nat × W32 × W32)) (fire : Firing)
  | scload (at_ lsid : Nat) (ty : Ty) (lanes : List Nat) (fire : Firing)
  | axadd (at_ lsid ord fmt : Nat) (lanes : List (Nat × W32)) (xb : BitVec 6)
  | axclr (at_ lsid ord : Nat) (lanes : List Nat)
  | copy (fire : Firing)
  | ldecl (reg : Nat) (decl : W32)
  | ply (reg : Nat) (unit : Nat) (lanes : List (BitVec 384))
  | settle (reg : Nat)
  | sink (elem slot : Nat) (tok : Token)
  | ctxf (colour : Byte)
  deriving DecidableEq, Repr

/-- A load an instance has fired (R113, R465): its place (element × 32 + slot) and LSID; the bytes it has read (none on
UO pages, or when a null operand closed it), as a space's key and the first byte and number of each lane; whether its page
is SO; and the bytes it took from storage and not from a store of its party, as (storage, place, byte): storage 0 HBM4, 1
host memory, 2 + core × 3 + space a typed buffer. -/
structure LoadRec where
  at_   : Nat
  lsid  : Nat
  space : Nat
  cells : List (Nat × Nat)
  so    : Bool
  seen  : List (Nat × Nat × Byte)
  deriving DecidableEq, Repr

inductive InstState where
  | live | complete | committed | aborted | discarded
  deriving DecidableEq, Repr

/-- A trap an instance holds until it is oldest (R396, R397). -/
structure TrapInfo where
  cause : Cause
  unit  : Nat
  elem  : Nat
  slot  : Nat
  xb    : BitVec 6
  colour : Byte
  iter  : Half
  deriving DecidableEq, Repr

/-- A fault of an access (R37), before its record is written. -/
structure FaultInfo where
  cause : Cause
  kind  : Nat
  space : Nat
  straddle : Bool
  addr  : Nat
  elem  : Nat
  slot  : Nat
  lsid  : Nat
  unit  : Nat
  colour : Byte
  iter  : Half
  entry : Word
  code  : Nat
  level : Nat
  deriving DecidableEq, Repr

/-- A block instance (R158–R160). `age` names it: its order of creation in the context. -/
structure Inst where
  age     : Nat
  born    : Nat              -- the cycle in which it was created, or presented again
  place   : Nat              -- the placement's id
  va      : Nat              -- the block's address
  colour  : Byte
  iter    : Half
  state   : InstState
  closedE : List Nat         -- effect instructions closed, by element × 32 + slot
  closedL : List Nat
  exits   : Nat              -- null exits counted
  exitTok : Option (Nat × Token)   -- the non-null exit: element × 32 + slot, and its token
  effects : List Effect
  loads   : List LoadRec
  inputs  : List (Dest × Token)
  fired   : Nat
  chain   : Bool
  held    : List Nat         -- LSIDs of replayed loads held (R465)
  colours : List Byte        -- colours it allocated by CTXA (R288)
  fault   : Option FaultInfo
  trap    : Option TrapInfo
  waitSeq : Option Nat       -- the record number whose release it waits for (R41)
  deriving DecidableEq, Repr

/-- A placed block (R189–R196). -/
structure Placement where
  id     : Nat
  va     : Nat
  pin    : Option (Nat × Byte)   -- pin number and colour
  unpinning : Bool
  count  : Nat
  exits  : Nat
  scount : Nat
  lcount : Nat
  nopred : Bool
  map    : List W32
  routes : List (List Nat)
  deriving DecidableEq, Repr

/-- The block front end's chain (R163). -/
structure Chain where
  colour : Byte
  next   : Half
  active : Bool
  waiting : Option Nat       -- the successor to be fetched and placed
  predicted : Option (Nat × Nat)  -- (age of the parent, predicted successor)
  deriving DecidableEq, Repr

/-- A placement the jig works on (R193): the block, the pin, whether the front end asked. -/
structure JigJob where
  va    : Nat
  pin   : Option (Nat × Byte)
  front : Bool
  deriving DecidableEq, Repr

/-- A counter node's position (R301): the value, the emissions left, whether it is in its sweep. -/
structure Node where
  elem  : Nat
  slot  : Nat
  level : Nat
  value : W32
  left  : Nat
  deriving DecidableEq, Repr

/-- A counter chain (R165, R301), by element × 4 + chain. -/
structure CntChain where
  nodes : List Node          -- innermost first
  next  : Half
  running : Bool
  start : Half               -- the first iteration of the round (R166)
  made  : Nat                -- iterations created in the round
  deriving DecidableEq, Repr

/-- A committed effect that waits for its turn: behind a faulted ordered atomic (R401), an acquire or SC operation in
flight, or what its release waits for (R112, R117, R125). Its instance's tag and age, and the record it waits for. -/
structure Late where
  eff    : Effect
  colour : Byte
  iter   : Half
  age    : Nat
  stop   : Option Nat
  deriving DecidableEq, Repr

/-- A lane of a load: the access it waits for, if it waits, else its value, its bits and whether it is poisoned. -/
structure LaneWait where
  req : Option Nat
  v   : W32
  xb  : BitVec 6
  bad : Bool
  deriving DecidableEq, Repr

/-- A firing whose lanes come by accesses in flight (R307). `at_` is the element × 32 + slot of a load of an instance,
which is then on record there. -/
structure LoadWait where
  firing : Firing
  ty     : Ty
  at_    : Option Nat
  lanes  : List LaneWait
  trap   : Option TrapInfo        -- what poison raises, where no token carries it or R401 asks for it
  again  : Option Late            -- the ordered atomic that poison leaves to be performed (R401)
  deriving DecidableEq, Repr

/-- A sink slot's tokens (R293): committed and unread, in commit order. -/
structure SinkRec where
  tok    : Token
  after  : Nat                     -- its commit is a release: requests made before it have a lower id (R123)
  age    : Nat                     -- its instance: the COPYs of this and older ones come before it
  deriving DecidableEq, Repr
abbrev SinkQ := List SinkRec

/-! ### Tensors, bindings, streams, copies -/

structure Tensor where
  w0 : Word
  w1 : Word
  w2 : Word
  full  : Bool
  giver : Nat
  deriving DecidableEq, Repr

inductive BindState where
  | waiting | firing | draining | stopped
  deriving DecidableEq, Repr

/-- An epilogue setting (R345, R346): mode 0 C, 1 PORT, 2 BOTH, the tokens' colour, next iteration and destination, and
the register of AMAX. -/
structure Epi where
  mode   : Nat
  colour : Byte
  iter   : Half
  dest   : Dest
  lreg   : Option Nat
  deriving DecidableEq, Repr

/-- A binding of the matrix engine (R339–R357). A gather setting is its mode and index tensor (R344). -/
structure Binding where
  dx : Nat
  ax : Nat
  bx : Nat
  p  : Nat
  nch : Nat
  state : BindState
  cause : Cause
  tensor : Nat
  xb : BitVec 6
  chains : Nat
  firing : Nat               -- firings completed in the chain
  kgroup : Nat
  gather : Nat × Nat         -- of the firing under way
  gatherNext : Nat × Nat
  index  : Option (List W32)      -- the complete set at hard port 17
  inSet  : List W32               -- the set being received
  rows   : Option (List Nat)      -- the operand latch: gathered row numbers
  epi    : Epi                    -- in force for the running chain
  epiNext : Option Epi
  plane  : Option (List (List W32)) -- the plane held, by rows
  out    : Bool                   -- the plane lies in a save image or has come back from one
  rowXb  : NMap (BitVec 6)
  drained : Nat                   -- rows and tokens drained
  pair   : Option (Nat × Bool × W32)  -- the softmax partner, whether this is the score side, τ
  fin    : Bool                   -- FIN drains it
  ending : Bool                   -- an MMUNB waits for it
  deriving DecidableEq, Repr

/-- A stream command (R265, R266). -/
structure StreamCmd where
  space : Nat
  sz    : Nat
  write : Bool
  resv  : Bool
  lastdim : Nat
  base  : Nat
  handle : Half
  colour : Byte
  width : Nat
  next  : Half
  dims  : List (Nat × Int)        -- COUNT, STRIDE of the four dimensions
  done  : Nat                     -- elements completed, in whole runs
  part  : List (W32 × Bool)       -- the lanes of the elements of its run completed so far, with their poison
  key   : Half                    -- the context that issued it
  code  : Nat                     -- VA of the STRM
  stop  : Option Nat              -- the fault record it waits for
  fault : Option FaultInfo        -- what that record holds
  number : Nat
  deriving DecidableEq, Repr

/-- A copy (R313–R317). -/
structure Copy where
  id     : Nat
  key    : Half
  elemIssued : Option (Byte × Half)   -- tag of the completion token
  words  : List Word                  -- the descriptor's eight words
  asid   : BitVec 12
  code   : Nat                        -- VA of the COPY, or of its block
  chunks : List Nat                   -- chunks completed
  xb     : BitVec 6
  poison : Bool
  largest : W32
  stop   : Option Nat                 -- the fault record it waits for
  age    : Nat                        -- the instance that issued it, 0 for none
  given  : Bool                       -- issued while a handle it names was being given: refused there (R53)
  kept   : NMap (Byte × Bool)         -- source bytes it has overwritten, where its ranges overlap (R315)
  fetch  : Option (Nat × List Nat)    -- a chunk whose bytes of host memory are being read, and the requests (R67)
  deriving DecidableEq, Repr

/-- A posted receive buffer (R329). -/
structure Posted where
  chan : Nat
  cap  : Nat
  pages : List (Nat × Nat)   -- (physical address, bytes)
  got  : Option Word
  deriving DecidableEq, Repr

/-- A reduction result that waits for its XRSLT (R334). -/
structure GotResult where
  key   : Half
  round : Half
  words : List Word
  lanes : List Word
  deriving DecidableEq, Repr

/-! ### Contexts -/

inductive CtxState where
  | free | running | gated | quiescent | saving | saved | restoring | clamped | lost | ending
  deriving DecidableEq, Repr

/-- The context registers (offsets in the core's window, R21). -/
structure CtxRegs where
  xlroot  : Word
  fqctl   : Word
  head    : BitVec 6
  tail    : BitVec 6
  written : Nat              -- records written; SEQ is its low byte (R37)
  tenant  : BitVec 5
  ovfbase : Word
  jigstat : Word
  trapPend : Bool
  trapCode : BitVec 5
  state   : CtxState
  prev    : CtxState         -- the state an unclamp or a restore returns to (R407)
  imgkb   : Half
  traprec : Word
  firstx  : Word
  wdlim   : W32
  poisaddr : Word
  key     : Half
  dbgsel  : Word
  plystale : Bool
  lddrop  : Bool
  deriving DecidableEq, Repr

/-- A context (R148). -/
structure Ctx where
  r       : CtxRegs
  seq     : Seq
  task    : Nat                 -- the task it is a member of
  member  : Nat
  area    : Nat                 -- the member area's base (R383)
  quota   : Nat                 -- Q (R149)
  progress : Nat                -- the watchdog's count restarted here (R399)
  seqLatch : Option Word        -- poison latches (R86)
  flowLatch : Option Word
  seqStop : Option Nat          -- the fault record the sequencer waits for (R41); 0: not yet written
  pending : List FaultInfo      -- faults whose record waits for room (R40)
  colours : NMap (Nat × Bool)   -- granted width, and whether it drains (R152)
  ovf     : NMap Flight         -- occupied overflow record slots (R173)
  lam     : NMap Lam
  plies   : NMap (List Ply)     -- ply buffers by unit, oldest first (R62)
  image   : Word                -- the image word (R185)
  elemv   : Word
  hportv  : W32
  places  : List Placement
  nextPlace : Nat
  insts   : List Inst           -- uncommitted, oldest first
  nextAge : Nat
  chain   : Option Chain
  jig     : Option JigJob
  cfgStop : NMap Nat            -- by element, or 64 + hard port: the record a fetch waits for (R35)
  feStop  : Option Nat          -- the record the block front end waits for (R35)
  counters : NMap CntChain
  staged  : NMap W32            -- ARGW's values by element × 8 + constant (R263)
  ripe    : NMap W32            -- those that a ROUND makes current at its boundary (R166)
  roundReq : Bool
  round   : Half
  sinks   : NMap SinkQ
  late    : List Late           -- committed effects still to be performed, in program order
  tensors : NMap Tensor
  binds   : NMap Binding
  gates   : Nat                 -- 0 open, 1 drain, 2 stop, 3 captured (R402)
  gateAt  : Nat                 -- the cycle in which the stage began
  ckpt    : List Flight         -- checkpoint buffer, with the places to return to (R402)
  ckptPort : List (Nat × Flight) -- with a hard-port mark
  copyId  : BitVec 8
  copies  : NMap Word           -- CPQRY's last answer by id for retired copies (R317)
  nmOut   : Nat                 -- near-memory commands outstanding (R95)
  posted  : List Posted
  results : List GotResult
  trace   : Half                -- enabled classes (R423)
  trap    : Option TrapInfo     -- the trap it is stopped at (R396)
  arrived : NMap Half           -- barriers arrived at: scope × 8 + number ↦ generation
  arriving : List Nat           -- arrivals under way (log 3)
  side    : Option (NMap W32 × NMap W32) -- side registers m and l in a save image (R353)
  fires   : Nat                 -- firings performed since the checkpoint (R431)
  fireQuota : Option Nat        -- a step's firings or, for BLOCK, none (R417, R418)
  deriving DecidableEq, Repr

/-! ### A core's shared units -/

/-- State of a handle descriptor (R51). -/
inductive DescState where
  | free
  | held (h : Nat)
  | draining (h t : Nat)
  | moving (h t : Nat)            -- a move to or from an engine (R337, R363)
  | offered (h t : Nat)
  deriving DecidableEq, Repr

/-- A handle descriptor (R27), by space × 64 + index. -/
structure Desc where
  st   : DescState
  base : Nat
  size : Nat
  gen  : BitVec 5
  key  : Half
  asid : BitVec 12
  deriving DecidableEq, Repr

/-- A command of the marquetry fabric's queue (R363): the instruction's effect with its operands read. -/
inductive MqCmd where
  | tables (handle : Half) (off : Nat) (q : Nat)
  | wiring (handle : Half) (off : Nat) (q : Nat)
  | release
  | clear
  | run (first last : Nat) (at_ : Nat)
  | xpose (handle : Half) (off : Nat) (b : Word) (rs : Nat)
  | xposb (handle : Half) (off : Nat) (b : Word)
  | popc (a b c : Word) (kind : Bool) (dest : Nat) (sent : Nat)
  | brk (q plane cond : Nat)
  deriving DecidableEq, Repr

/-- The marquetry fabric (R359–R378). Planes are 256 bits. -/
structure Mq where
  input  : NMap (BitVec 256)
  tables : NMap Word              -- by q × 1024 + i
  wires  : NMap (BitVec 66)       -- by q × 1024 + i
  planes : NMap (BitVec 256)      -- by q × 1024 + i
  poison : BitVec 256
  vt     : BitVec 4
  vw     : BitVec 4
  owner  : Option Half
  ownerSlot : Nat
  queue  : List MqCmd
  busy   : Bool                   -- the head has been begun
  held   : Bool                   -- stopped at a breakpoint (R374)
  xb     : BitVec 6
  cause  : Cause
  runq   : BitVec 2
  brk    : NMap (Bool × Nat × Nat)  -- by q: HIT, cond, plane
  psel   : Word
  deriving DecidableEq, Repr

/-- A translation in a TLB (R29): page number of 4 KiB pages, log2 of the pages covered, the leaf. -/
structure TlbEntry where
  asid  : BitVec 12
  vpn   : Nat
  span  : Nat
  leaf  : Word
  aBits : BitVec 16                -- A of each entry of a run as the walk left them (R15); bit 0 for a single page
  dBits : BitVec 16                -- D likewise
  deriving DecidableEq, Repr

/-- A set of TLB entries by way, and the bits of its replacement tree by node, node 1 the root (R29). -/
structure Tlb where
  ways : NMap TlbEntry
  tree : BitVec 64
  deriving DecidableEq, Repr

/-- A trace or mark record (R424). -/
structure TraceRec where
  w0 : Word
  w1 : Word
  w2 : Word
  w3 : Word
  deriving DecidableEq, Repr

/-- A saved context (R403): its state, kept by key. -/
structure Saved where
  key  : Half
  ctx  : Ctx
  gens : NMap Word              -- SR generators by element
  accs : NMap (List AccRun)     -- ACC runs by element × 32 + slot
  deriving DecidableEq, Repr

/-- A core. -/
structure Core where
  ctxs   : NMap Ctx               -- by slot; a slot unlisted is FREE at reset values
  saved  : List Saved
  nextKey : Half
  elems  : NMap Elem
  boxes  : NMap BoxWay            -- by box × 4 + way
  skid   : NMap (List Flight)     -- by (box × 4 + way) × 40 + source
  wireTurn : NMap Nat             -- round-robin of a wire, by box × 40 + output (R177)
  hport  : NMap (List Flight)     -- channels at a hard port, by port × 4 + way
  hpOut  : NMap (List Flight)     -- tokens a hard port sends, by port × 4 + way
  door   : List (Nat × Flight)    -- tokens on the control network: way, flight (R261, R174, R181)
  results : List Firing           -- firings whose result is due (R276)
  loads  : List LoadWait          -- firings that wait for responses
  hold   : List (Nat × RSet × Option Nat) -- the memory hold queue (R56): element, set, a record it waits for
  pred   : NMap Nat               -- exit predictor, by block VA and ASID (R163)
  icache : NMap W32               -- instruction cache: words by address and ASID (R256)
  ccache : NMap (List Byte)       -- configuration cache: records by address and ASID, last used first (R188)
  tbuf   : NMap Mem               -- typed buffers W, A, C as spaces 0, 1, 2
  tpoison : List Nat              -- poisoned rows: space × 2^20 + row
  tpart  : NMap (BitVec 64)       -- bytes of a poisoned row written while marked (R87)
  descs  : NMap Desc
  clearing : NMap (List (Nat × Nat))  -- runs being cleared, by space, oldest first
  copies : List Copy              -- the range scoreboard's entries, in issue order
  ports  : NMap (List StreamCmd)  -- edge ports
  portNo : Nat                    -- stream commands numbered so far
  mmBusy : Option (Nat × Nat)     -- the firing context and binding
  mmLast : Nat                    -- the context last served (R340)
  smPair : Option Half            -- the context whose softmax pair is active (R347)
  smKey  : Option Half            -- the context the side registers read as
  m      : NMap W32
  l      : NMap W32
  mq     : Mq
  utlb   : Tlb                    -- 64 ways
  plyNo  : Nat                    -- plies opened so far
  grants : NMap (Nat × Nat × List Nat) -- a space's narrow port: the cycle of its last grant, the requester, the rows (R49)
  portQ  : List (Nat × Nat)       -- requests that wait at the network port: tenant and requester, in order (R105)
  portTurn : Nat                  -- the tenant whose waiting request was admitted last
  bwEn   : Bool
  bwStart : Nat
  share  : NMap Nat
  shareNext : NMap Nat
  bucket : NMap Int
  active : List Nat
  sp     : Word × Word × Word     -- SPBASE, SPPTR, SPLOST (R428)
  trbuf  : List TraceRec
  commitTurn : Nat                -- round-robin of the commit port (R160)
  health : Word
  deriving DecidableEq, Repr

/-! ### The device -/

/-- Who makes an access (R43, R18). -/
inductive Who where
  | unit (c k : Nat) (u : Nat)     -- a unit of a context: R37's UNIT
  | svc (n : Nat)
  | host (fn : Nat)
  | engine (stack : Nat)
  | port (p : Nat)
  | hub
  deriving DecidableEq, Repr

/-- What an access in flight does at its point of performance. -/
inductive ReqOp where
  | load (n : Nat)
  | store (bytes : List Byte) (poison : Bool)
  | atomic (op : Nat) (n : Nat) (v cmp : Word)
  | axadd (fmt : Nat) (v : W32) (xb : BitVec 6)
  | axrd (fmt : Nat)
  | axclr
  deriving DecidableEq, Repr

/-- A posted write of a host requester function that the hub holds (R141): the function, the BAR and offset, the bytes, and
the Relaxed Ordering attribute. -/
structure HostWrite where
  fn    : Nat
  bar   : Nat
  off   : Nat
  bytes : List Byte
  ro    : Bool
  deriving DecidableEq, Repr

/-- An access in flight to its home slice or to the host link (log 3). -/
structure Req where
  id   : Nat
  who  : Who
  pa   : Nat
  va   : Nat
  host : Bool
  ord  : Nat                       -- the leaf's ORD
  sc   : Bool
  op   : ReqOp
  asid : BitVec 12
  accepted : Option Nat            -- the order in which its slice accepted it (R66)
  within : Option Nat              -- the request it goes with: the read it was absorbed into (R78), or the first of its line
  answer : Option (Word × Bool)    -- the value, and whether poisoned
  batch  : Nat                     -- the instruction it belongs to: lanes of one instruction have one number
  acq    : Bool                    -- an acquire that leaves its party going on: an element's ordered atomic
  axb    : BitVec 6                -- the bits an AXRD has answered with
  deriving DecidableEq, Repr

/-- What a packet carries (R71). -/
inductive Payload where
  | req (id : Nat)
  | tok (task : Nat) (f : Flight)   -- for the task's context on the destination core (R181)
  | buf (id : Nat)
  | poke (c k : Nat)
  | ctl
  deriving DecidableEq, Repr

/-- A packet on the network (R69–R79). `node` is column × 8 + row; `dir` the link it came in by, 0 at injection. -/
structure Packet where
  id    : Nat
  cls   : Nat
  core  : Nat                      -- the context it counts for: core, slot (R73)
  slot  : Nat
  flits : Nat
  dst   : Nat
  dstUnit : Nat                    -- the core, or 256 + slice, or 512 for the hub
  node  : Nat
  dir   : Nat
  esc   : Bool
  since : Nat
  load  : Payload
  line  : Option Nat               -- the line of a combinable read (R78)
  reserved : Bool
  header : Option Nat              -- where a reserved flow's header stands (R77)
  deriving DecidableEq, Repr

/-- A flow's reservation mode (R76). -/
structure Flow where
  core : Nat
  slot : Nat
  dst  : Nat
  cls  : Nat
  permanent : Bool
  lastSent : Nat
  deriving DecidableEq, Repr

/-- A remote typed-buffer request (R50). -/
structure BufReq where
  id    : Nat
  core  : Nat
  slot  : Nat
  unit  : Nat                      -- 0 the sequencer, 1 the region
  handle : Half
  off   : Nat
  n     : Nat
  data  : Option Word
  answer : Option (Word × Cause)
  deriving DecidableEq, Repr

/-- A page-table walk in flight (R30, R31). -/
structure Walk where
  id   : Nat
  core : Nat
  asid : BitVec 12
  root : Word
  va   : Nat
  write : Bool
  kind : Nat                       -- R37's KIND of the access
  acc  : Nat                       -- ACCESS of the violation log, should it be refused
  started : Bool
  deriving DecidableEq, Repr

/-- A line a slice holds (R65): its valid bytes and whether dirty. Poison is kept by sector in `poison`. -/
structure Line where
  mask  : BitVec 128
  dirty : Bool
  way   : Nat
  deriving DecidableEq, Repr

/-- A near-memory command (R90–R102). -/
structure NmCmd where
  words : List Word
  core  : Nat
  slot  : Nat
  key   : Half
  asid  : BitVec 12
  root  : Word
  cmpl  : Nat                      -- PA of the completion record
  ext   : List (Nat × Nat)         -- page extents under lock: (PA, bytes)
  obj   : Nat                      -- PA of the SUMX object or MAXABS word
  pas   : List (Nat × List (Nat × Nat × Nat)) -- translations by operand (0 DST, 1 SRC1, 2 SRC2): (VA, PA, bytes)
  home  : Nat                      -- the slice it was sent to, whose bay TLB translates its ranges
  ce    : Nat                      -- errors corrected in the stack while it holds a slot
  locked : Bool
  chunks : Nat
  poiscnt : Nat
  badva : Nat
  xb    : BitVec 6
  acc   : BitVec 384
  maxv  : W32
  abort : Bool
  deriving DecidableEq, Repr

/-- A stack's base die (R89, R95). -/
structure Stack where
  ce    : Nat
  ue    : Nat
  ueaddr : Word
  period : Byte
  scrub : Nat                      -- the next sector
  health : Word
  slots : NMap NmCmd
  queue : List NmCmd
  transit : List NmCmd             -- commands under way to the engine
  deriving DecidableEq, Repr

/-- A violation log (R43, R44). -/
structure VLog where
  entries : NMap (Word × Word)
  lost    : Nat
  now     : Nat × List Nat         -- the cycle of the latest violation, and the entries filled in it
  deriving DecidableEq, Repr

/-- A hardware queue (R380). -/
structure Queue where
  qcfg   : Word
  refuse : Byte
  qmark  : Word
  staging : NMap Word
  packets : List (List Word)
  checked : Bool                   -- the head has passed R382
  eprio  : Nat
  skips  : Nat
  fails  : Nat
  resv   : Option Nat              -- the instance reserved (R387)
  started : List Nat               -- tasks started and not retired, oldest first
  polled : Nat
  prev   : Nat                     -- the task last started from the queue, 0 for none (R384)
  early  : List Nat                -- the tasks a DETLEVEL at the head waits for (R392)
  deriving DecidableEq, Repr

/-- A task (R146, R147). -/
structure Task where
  id     : Nat
  queue  : Nat
  asid   : BitVec 12
  tier   : Nat
  inst   : Nat
  tag    : W32
  done   : Nat                     -- VA of DONE
  root   : Word
  cores  : List Nat
  ended  : List Nat
  lost   : Bool
  level  : Nat
  bars   : NMap (Nat × Half)       -- by (scope × 8 + n) × 256 + scope instance: arrivals, C
  rsig   : BitVec 2048
  wsig   : BitVec 2048
  retired : Bool
  deriving DecidableEq, Repr

/-- A clamp cause record (R414). -/
structure CauseRec where
  unit  : Nat
  cause : Cause
  dev   : Nat
  core  : Nat
  ctx   : Nat
  siteA : Nat
  siteB : Nat
  iter  : Half
  colour : Byte
  tick  : Word
  deriving DecidableEq, Repr

/-- The job register and the clamp block of an ASID (R394, R412–R414, R429). -/
structure Job where
  phase  : Half
  pq     : BitVec 7
  level  : BitVec 2
  levelNext : Option (BitVec 2)
  tact   : Bool
  lag    : BitVec 4
  clamped : Bool
  late   : Bool
  stepping : Bool
  lostsec : Nat
  stepstat : Nat
  clamptick : Word
  cmdtick : Word
  origin : Option CauseRec
  secs   : List CauseRec
  raised : List CauseRec           -- requests under way to the arbiter
  waiting : List CauseRec          -- requests at the arbiter, not yet landed
  resumeAt : Option Word           -- the tick of UNCLAMP (R419)
  stepTo : Option Word             -- the tick of TICK
  stepCore : Option (Nat × Nat × Nat)  -- FIRE or BLOCK: core, kind, start cycle
  ckctl  : Half
  cklog  : Word
  ckValid : Bool
  ckLapsed : Bool
  ckPhase : Half
  ckUsed : Nat
  undo   : List (Nat × List Byte)  -- newest first (R430)
  packets : List (Nat × List Word) -- logged packets, oldest first
  root   : Option Word             -- the tables of the job's latest LAUNCH
  fires  : NMap Nat               -- firings of ended contexts since the checkpoint, by core (R431)
  reverse : Option (Nat × Nat × Half) -- a reverse step: core, firings to perform, the phase (R431)
  deriving DecidableEq, Repr

/-- A trace ring (R425). -/
structure Ring where
  trctl  : Word
  trbase : Word
  size   : Nat
  head   : Nat
  tail   : Nat
  lost   : Nat
  deriving DecidableEq, Repr

/-- An exchange port (R436, R437). -/
structure XPort where
  down   : Bool
  nak    : Option Nat              -- the sequence number last asked for again
  failed : Nat                     -- failed replays of that flit
  errors : Nat
  nextTx : Nat
  expect : Nat
  used   : NMap Nat                -- credits used, by virtual channel
  rr     : Nat                     -- the channel of VCs 1–3 served last
  replay : List Flit
  out    : List Flit               -- waiting for transmission, oldest first
  deriving DecidableEq, Repr

/-- A message (R328): its sender, the task by its number on the sending device or, from another device, by its TAG, the
destination core and channel, whether its delivery is to be told, and its bytes. -/
structure Message where
  dev   : Nat
  core  : Nat
  asid  : BitVec 12
  task  : Option Nat
  tag   : W32
  dcore : Nat
  chan  : Nat
  mid   : Nat
  tell  : Bool
  data  : List Byte
  deriving DecidableEq, Repr

/-- A message sent and not yet done with: its sender, its completion counter (address and leaf), and whether it lies in
its receive buffer (R120, R328). -/
structure Sent where
  mid    : Nat
  asid   : BitVec 12
  core   : Nat
  key    : Half
  cmpl   : Option (Nat × Word)
  landed : Bool
  deriving DecidableEq, Repr

/-- What arrives of a message, a contribution or a result, flit by flit. -/
structure XFrame where
  src : Nat
  mid : Nat
  ty  : Nat
  got : List Byte
  deriving DecidableEq, Repr

/-- What leaves over the exchange for a device: a message, a contribution, a result, or the news that a message lies in its
receive buffer or has been delivered. -/
inductive XOut where
  | msg (dst : Nat) (m : Message)
  | red (dst : Nat) (x : Contribution)
  | res (dst : Nat) (x : RedResult)
  | note (dst mid : Nat) (done : Bool)
  deriving DecidableEq, Repr

/-- A reduction slot (R331–R333). -/
structure RedSlot where
  asid  : BitVec 12
  first : Contribution
  ranks : List (Nat × Nat × Nat × Half) -- rank, device, core and key of the contributors, in arrival order
  lanes : List (BitVec 384)
  xb    : BitVec 6
  nanrank : Option Nat
  start : Nat                      -- PTIME at its start; the time passed while the job is clamped (R411)
  lingering : Option RedResult
  missing : List Nat
  deriving DecidableEq, Repr

/-- Time (R439, R440). -/
structure Time where
  ptime : Word
  frac  : Nat                      -- fifths of a nanosecond
  epoch : Word
  per   : BitVec 6
  lock  : Bool
  offset : W32
  ticked : Word                    -- boundaries passed
  good   : Nat                     -- Sync intervals in a row within 10 ns (R439)
  deriving DecidableEq, Repr

/-- Boot and security (R441–R443). -/
structure Boot where
  bootstat : Word
  phase    : Nat                   -- 0 fetching, 1 waiting to retry, 2 started
  retryAt  : Nat
  rollback : Nat                   -- C
  leaf     : Nat
  measure  : NMap (List Byte)
  svn      : Nat
  deriving DecidableEq, Repr

/-- A read of host memory in flight (R67). -/
structure HostRead where
  id   : Nat
  addr : Nat
  n    : Nat
  who  : Who
  deriving DecidableEq, Repr

/-- What leaves the device. -/
inductive OutEv where
  | msix (fn vector : Nat)
  | service (what : String) (a b : Nat)
  | flit (port : Nat) (f : Flit)
  | nak (port seq : Nat)
  | report (bytes : List Byte)
  | aer (fn : Nat)
  | answered (fn : Nat) (bytes : List Byte)
  | unsupported (fn : Nat)
  /-- A clamp request goes to the job's other devices over the exchange (R408). -/
  | clamp (asid : Nat) (r : CauseRec)
  deriving DecidableEq, Repr

/-- The machine. -/
structure State where
  cur     : Actor
  actor   : Actor
  agenda  : List (Nat × Turn)
  deferred : Bool
  stale   : Bool
  free    : Nat
  reply   : Option (List Byte)
  events  : List OutEv
  cycle   : Nat
  cores   : NMap Core
  svcs    : NMap Svc
  hbm     : Mem
  hostMem : Mem
  poison  : List Nat               -- poisoned sectors, by PA / 64, rising (R85)
  partials : NMap (BitVec 64)      -- bytes of a poisoned sector stored while marked (R85)
  lines   : NMap Line
  scAt    : Nat                    -- the first cycle in which the next SC operation may be performed (R124)
  plru    : NMap (BitVec 16)        -- tree bits of a set, by slice × 4096 + set (R65)
  combine : List (Nat × Nat × Nat) -- combining entries: node, first request, requests sharing (R78)
  reqs    : List Req
  nextId  : Nat
  btlb    : NMap Tlb               -- sets of 8 ways of the bay TLBs, by bay × 512 + set
  walks   : List Walk
  hostReads : List HostRead
  hostQ   : List HostWrite         -- posted writes that the hub holds, as they came (R141)
  packets : List Packet
  flows   : List Flow
  slotsResv : List (Nat × Nat × Nat × Nat) -- reserved link slots: node, dir, cycle, packet (R77)
  bufreqs : List BufReq
  hbmStacks  : NMap Stack
  vlogs   : NMap VLog
  queues  : NMap Queue
  tasks   : List Task
  nextTask : Nat
  lastStart : Nat                  -- the first cycle in which the next start may be made (R384)
  served  : NMap Nat               -- the queue last served, by priority (R386)
  jobs    : NMap Job
  rings   : NMap Ring              -- by die × 64 + ring
  vfwin   : NMap Word
  msix    : NMap W32               -- MSI-X tables and PBAs, by function × 2048 + word (R433)
  exid    : BitVec 12
  xports  : NMap XPort
  messages : List Message
  redSlots : NMap RedSlot
  redWait : List Contribution      -- for a free slot, in arrival order
  redIn   : List (Word × Contribution) -- at the internal port, with the tick of their arrival (R144)
  resIn   : List RedResult         -- results in receive buffers
  sends   : List Sent
  frames  : List XFrame
  tickOut : List XOut              -- waits for the next tick boundary (R331)
  time    : Time
  boot    : Boot
  pwrlim  : Word
  limited : Bool                   -- the power limiter withholds issue cycles (R446)
  deriving DecidableEq, Repr

/-! ### Reset (R445; values the spec does not give are those of log 6) -/

def Seq.reset : Seq :=
  { pc := 0, s := [], p := 0, lc := [], loops := [], loopBuf := [], evcnt := 0, qtmo := 65536, fpxen := 0, h := [],
    wait := .none, stopped := false }

def Svc.reset : Svc :=
  { seq := Seq.reset, hpc := 0, hcause := 0, hvec := 0, hloops := [], inHandler := false, running := false }

def Way.reset : Way := { slots := [], k := [], slotv := 0, swt := [], v := false, jig := false }

def BoxWay.reset : BoxWay := { out := [], drop := 0 }

def Elem.reset : Elem :=
  { ways := [], store := [], ready := [], issuing := none, busyTo := 0, ports := [], gen := [], acc := [], hist := [],
    ovfs := [] }

def Lam.reset : Lam := { decl := 0, home := [], transit := none }

def CtxRegs.reset : CtxRegs :=
  { xlroot := 0, fqctl := 0, head := 0, tail := 0, written := 0, tenant := 0, ovfbase := 0, jigstat := 0,
    trapPend := false, trapCode := 0, state := .free, prev := .running, imgkb := 0, traprec := 0, firstx := 0,
    wdlim := 0x01000000, poisaddr := 0, key := 0, dbgsel := 0, plystale := false, lddrop := false }

def Ctx.reset : Ctx :=
  { r := CtxRegs.reset, seq := Seq.reset, task := 0, member := 0, area := 0, quota := 0, progress := 0,
    seqLatch := none, flowLatch := none, seqStop := none, pending := [], colours := [], ovf := [], lam := [],
    plies := [], image := 0, elemv := 0, hportv := 0, places := [], nextPlace := 1, insts := [], nextAge := 1,
    chain := none, jig := none, cfgStop := [], feStop := none, counters := [], staged := [], ripe := [], roundReq := false, round := 0, sinks := [], late := [],
    tensors := [], binds := [], gates := 0, gateAt := 0, ckpt := [], ckptPort := [], copyId := 0, copies := [],
    nmOut := 0, posted := [], results := [], trace := 0, trap := none, arrived := [], arriving := [], side := none, fires := 0, fireQuota := none }

def Desc.reset : Desc := { st := .free, base := 0, size := 0, gen := 0, key := 0, asid := 0 }

def Mq.reset : Mq :=
  { input := [], tables := [], wires := [], planes := [], poison := 0, vt := 0, vw := 0, owner := none, ownerSlot := 0,
    queue := [], busy := false, held := false, xb := 0, cause := .none, runq := 0, brk := [], psel := 0 }

def Tlb.reset : Tlb := { ways := [], tree := 0 }

def Core.reset : Core :=
  { ctxs := [], saved := [], nextKey := 0, elems := [], boxes := [], skid := [], wireTurn := [], hport := [],
    hpOut := [], door := [], results := [], loads := [], hold := [], pred := [], icache := [], ccache := [],
    tbuf := [], tpoison := [], tpart := [], descs := [], clearing := [], copies := [], ports := [], portNo := 0,
    mmBusy := none, mmLast := 3, smPair := none, smKey := none, m := [], l := [], mq := Mq.reset, utlb := Tlb.reset,
    plyNo := 0, grants := [], portQ := [], portTurn := 16,
    bwEn := false, bwStart := 0, share := [], shareNext := [], bucket := [], active := [], sp := (0, 0, 0),
    trbuf := [], commitTurn := 3, health := 0xFFFF0000 }

def Stack.reset : Stack :=
  { ce := 0, ue := 0, ueaddr := 0, period := 24, scrub := 0, health := 0xFFFF0000, slots := [], queue := [],
    transit := [] }

def VLog.reset : VLog := { entries := [], lost := 0, now := (0, []) }

def Queue.reset : Queue :=
  { qcfg := 0, refuse := 0, qmark := 0, staging := [], packets := [], checked := false, eprio := 0, skips := 0,
    fails := 0, resv := none, started := [], polled := 0, prev := 0, early := [] }

def Job.reset : Job :=
  { phase := 0, pq := 0, level := 0, levelNext := none, tact := false, lag := 1, clamped := false, late := false,
    stepping := false, lostsec := 0, stepstat := 0, clamptick := 0, cmdtick := 0, origin := none, secs := [],
    raised := [], waiting := [], resumeAt := none, stepTo := none, stepCore := none, ckctl := 0, cklog := 0, ckValid := false,
    ckLapsed := false, ckPhase := 0, ckUsed := 0, undo := [], packets := [], root := none, fires := [], reverse := none }

def Ring.reset : Ring := { trctl := 0, trbase := 0, size := 7, head := 0, tail := 0, lost := 0 }

def XPort.reset : XPort := 
  { down := false, nak := none, failed := 0, errors := 0, nextTx := 0, expect := 0, used := [], rr := 3, replay := [], out := [] }

def Time.reset : Time := { ptime := 0, frac := 0, epoch := 0, per := 4, lock := false, offset := 0, ticked := 0, good := 0 }

def Boot.reset : Boot :=
  { bootstat := 0, phase := 0, retryAt := 0, rollback := 0, leaf := 0, measure := [],
    svn := 0 }

/-- The machine right after a device reset. -/
def State.reset : State :=
  { cur := .idle, actor := .idle, agenda := [], deferred := false, stale := false, free := 0, reply := none,
    events := [], cycle := 0, cores := [], svcs := [], hbm := [], hostMem := [], poison := [], partials := [],
    lines := [], scAt := 0, plru := [], combine := [], reqs := [], nextId := 1, btlb := [], walks := [], hostReads := [], hostQ := [], packets := [], flows := [],
    slotsResv := [], bufreqs := [], hbmStacks := [], vlogs := [], queues := [], tasks := [], nextTask := 1,
    lastStart := 0, served := [], jobs := [], rings := [], vfwin := [], msix := [], exid := 0, xports := [],
    messages := [], redSlots := [], redWait := [], redIn := [], resIn := [], sends := [], frames := [], tickOut := [], time := Time.reset, boot := Boot.reset, pwrlim := 0,
    limited := false }

end Sys2Proof.Machine
end

