-- ==== Sys2Proof/Machine/NMap.lean ====
section
/-! DEFINITION. Sparse tables and memory: lookup, update, removal, byte order (R215: little-endian throughout), and
the canonical form of memory. -/
namespace Sys2Proof.Machine

variable {α : Type}

/-- The entry of a key, if listed. -/
def look : NMap α → Nat → Option α
  | [], _ => none
  | (j, v) :: r, k => if j = k then some v else look r k

/-- The entry of a key, or a default. -/
def lookD (m : NMap α) (k : Nat) (d : α) : α :=
  match look m k with | some v => v | none => d

/-- Sets the entry of a key. -/
def put : NMap α → Nat → α → NMap α
  | [], k, v => [(k, v)]
  | (j, w) :: r, k, v =>
    if k < j then (k, v) :: (j, w) :: r else if k = j then (k, v) :: r else (j, w) :: put r k v

/-- Removes the entry of a key. -/
def del : NMap α → Nat → NMap α
  | [], _ => []
  | (j, w) :: r, k => if j = k then r else (j, w) :: del r k

/-- The listed entries whose keys lie in [lo, hi). -/
def between (m : NMap α) (lo hi : Nat) : NMap α := m.filter fun x => lo ≤ x.1 && x.1 < hi

/-- Removes the entries whose keys lie in [lo, hi). -/
def without (m : NMap α) (lo hi : Nat) : NMap α := m.filter fun x => !(lo ≤ x.1 && x.1 < hi)

/-! ### Memory -/

/-- What a byte that nothing has written reads as: zero (log 4, log 5; R311 for typed buffers). -/
def unwritten : Byte := 0

/-- One byte of memory. -/
def readByte (m : Mem) (a : Nat) : Byte := lookD m a unwritten

/-- Writes one byte, keeping the canonical form. -/
def writeByte (m : Mem) (a : Nat) (b : Byte) : Mem := if b = unwritten then del m a else put m a b

/-- The keys rise strictly, all above `lo`. -/
def Memory.sortedFrom : Nat → Mem → Bool
  | _, [] => true
  | lo, (a, _) :: r => lo ≤ a && Memory.sortedFrom (a + 1) r

/-- Addresses strictly rising, no entry equal to what an unlisted address reads as. -/
def Memory.wf (m : Mem) : Bool := Memory.sortedFrom 0 m && m.all fun c => c.2 != unwritten

/-- `n` bytes from an address up. -/
def readBytes (m : Mem) (a : Nat) : Nat → List Byte
  | 0 => []
  | n + 1 => readByte m a :: readBytes m (a + 1) n

/-- Writes bytes from an address up. -/
def writeBytes : Mem → Nat → List Byte → Mem
  | m, _, [] => m
  | m, a, b :: r => writeBytes (writeByte m a b) (a + 1) r

/-- The number little-endian bytes hold. -/
def leNat : List Byte → Nat
  | [] => 0
  | b :: r => b.toNat + 256 * leNat r

/-- A number as `n` little-endian bytes. -/
def natLE : Nat → Nat → List Byte
  | 0, _ => []
  | n + 1, v => BitVec.ofNat 8 v :: natLE n (v / 256)

/-- A number of `n` bytes at an address. -/
def readLE (m : Mem) (a n : Nat) : Nat := leNat (readBytes m a n)

/-- Cuts bytes into 64-bit words. -/
def wordsOf : Nat → List Byte → List Word
  | 0, _ => []
  | n + 1, bs => BitVec.ofNat 64 (leNat (bs.take 8)) :: wordsOf n (bs.drop 8)

/-- Words as bytes. -/
def wordsBytes (ws : List Word) : List Byte := ws.flatMap fun w => natLE 8 w.toNat

/-- Bits [lo + n - 1 : lo] of a word, as a number. -/
def field {w : Nat} (x : BitVec w) (lo n : Nat) : Nat := (x.extractLsb' lo n).toNat

/-- A word with the number `v` placed at bit `lo`. -/
def place (v lo : Nat) : Word := BitVec.ofNat 64 (v * 2 ^ lo)

/-- The two's-complement value of a 32-bit field. -/
def signed32 (n : Nat) : Int := (BitVec.ofNat 32 n).toInt

/-- The n-th entry of a list, or a default. -/
def nth (l : List α) (n : Nat) (d : α) : α := match l[n]? with | some v => v | none => d

/-- Replaces the first entry that satisfies a test. -/
def updFirst (l : List α) (p : α → Bool) (f : α → α) : List α :=
  match l with
  | [] => []
  | x :: r => if p x then f x :: r else x :: updFirst r p f

/-- Removes the n-th entry. -/
def dropNth : List α → Nat → List α
  | [], _ => []
  | _ :: r, 0 => r
  | x :: r, n + 1 => x :: dropNth r n

/-- The numbers lo, lo + 1, … of a range of n. -/
def rangeFrom (lo n : Nat) : List Nat := (List.range n).map (lo + ·)

end Sys2Proof.Machine
end

