-- ==== Sys2Proof/Machine/Float.lean ====
section
/-! DEFINITION. Number formats and rounding (R198–R209): exact values as sign, magnitude and exponent of two; one
rounding for every format and mode; the arithmetic and the special functions on exact values. -/
namespace Sys2Proof.Machine

/-- Exception bits: IV, DZ, OF, UF, NX, PS from bit 5 down (R198). -/
abbrev Xb := BitVec 6
def xIV : Xb := 0x20
def xDZ : Xb := 0x10
def xOF : Xb := 0x08
def xUF : Xb := 0x04
def xNX : Xb := 0x02
def xPS : Xb := 0x01

/-- A floating-point format (R199): exponent and fraction bits, bias, magnitude bits of the largest finite number, of
the canonical NaN, and of infinity where there is one. -/
structure Fmt where
  eb   : Nat
  mb   : Nat
  bias : Nat
  maxf : Nat
  nan  : Nat
  inf  : Option Nat
  deriving DecidableEq, Repr

def fp32 : Fmt := { eb := 8, mb := 23, bias := 127, maxf := 0x7F7FFFFF, nan := 0x7FC00000, inf := some 0x7F800000 }
def bf16 : Fmt := { eb := 8, mb := 7, bias := 127, maxf := 0x7F7F, nan := 0x7FC0, inf := some 0x7F80 }
def fp16 : Fmt := { eb := 5, mb := 10, bias := 15, maxf := 0x7BFF, nan := 0x7E00, inf := some 0x7C00 }
def e4m3 : Fmt := { eb := 4, mb := 3, bias := 7, maxf := 0x7E, nan := 0x7F, inf := none }
def e5m2 : Fmt := { eb := 5, mb := 2, bias := 15, maxf := 0x7B, nan := 0x7E, inf := some 0x7C }

/-- The format of a floating type; FP32 for the integer types, which no caller asks for. -/
def tyFmt : Ty → Fmt
  | .fp32 => fp32 | .bf16 => bf16 | .fp16 => fp16 | .e4m3 => e4m3 | .e5m2 => e5m2 | _ => fp32

/-- Bits of a format. -/
def Fmt.width (f : Fmt) : Nat := 1 + f.eb + f.mb
/-- Exponent of the least weight. -/
def Fmt.qmin (f : Fmt) : Int := 1 - (f.bias : Int) - (f.mb : Int)

/-- An exact value: NaN, an infinity, or (−1)^neg · m · 2^e. -/
inductive Num where
  | nan
  | inf (neg : Bool)
  | fin (neg : Bool) (m : Nat) (e : Int)
  deriving DecidableEq, Repr

/-- Reads a value of a format (R199); bits above the format are ignored. -/
def Fmt.read (f : Fmt) (bits : Nat) : Num :=
  let b := bits % 2 ^ f.width
  let neg := b / 2 ^ (f.eb + f.mb) == 1
  let mag := b % 2 ^ (f.eb + f.mb)
  let ex := mag / 2 ^ f.mb
  let fr := mag % 2 ^ f.mb
  match f.inf with
  | some i =>
    if mag = i then .inf neg else if i < mag then .nan
    else if ex = 0 then .fin neg fr f.qmin else .fin neg (2 ^ f.mb + fr) (f.qmin + (ex - 1 : Nat))
  | none =>
    if mag = f.nan then .nan
    else if ex = 0 then .fin neg fr f.qmin else .fin neg (2 ^ f.mb + fr) (f.qmin + (ex - 1 : Nat))

/-- A rounding: the modes of R205 with the draw of SR (R206) or the threshold of DR (R207). -/
inductive Rnd where
  | rne | rtz | rup | rdn
  | sr (r : Nat)
  | dr (t : Nat)
  deriving DecidableEq, Repr

/-- The rounding of a mode that needs no draw. -/
def modeRnd : RMode → Rnd
  | .rne => .rne | .rtz => .rtz | .rup => .rup | .rdn => .rdn | .sr => .rne | .dr => .rne

/-- The rounding of a 2-bit mode field (R205). -/
def rnd2 (c : Nat) : Rnd := match c with | 0 => .rne | 1 => .rtz | 2 => .rup | _ => .rdn

/-- Whether a quotient n + rem/d rounds to n + 1 (R205–R207). -/
def Rnd.up (r : Rnd) (neg : Bool) (n rem d : Nat) : Bool :=
  match r with
  | .rne => d < 2 * rem || (2 * rem == d && n % 2 == 1)
  | .rtz => false
  | .rup => rem != 0 && !neg
  | .rdn => rem != 0 && neg
  | .sr x => x < rem * 2 ^ 32 / d
  | .dr t => t * d < rem * 16

/-- m · 2^e measured in units of 2^q: the quotient, and the remainder over a divisor. -/
def scale (m : Nat) (e q : Int) : Nat × Nat × Nat :=
  if q ≤ e then (m * 2 ^ (e - q).toNat, 0, 1)
  else let d := 2 ^ (q - e).toNat; (m / d, m % d, d)

/-- m · 2^e rounded to a multiple of 2^q, and whether that is exact. -/
def roundUnits (r : Rnd) (neg : Bool) (m : Nat) (e q : Int) : Nat × Bool :=
  let (n, rem, d) := scale m e q
  (if r.up neg n rem d then n + 1 else n, rem == 0)

/-- What an overflow delivers, as magnitude bits (R208): `sat` saturates an FP8 target. -/
def overflowBits (f : Fmt) (r : Rnd) (neg sat : Bool) : Nat :=
  match f.inf with
  | none => if sat then f.maxf else f.nan
  | some i =>
    if f.mb < 7 then (if sat then f.maxf else i)
    else match r with
      | .rtz => f.maxf
      | .rup => if neg then f.maxf else i
      | .rdn => if neg then i else f.maxf
      | _ => i

/-- Puts a sign before magnitude bits. -/
def Fmt.signed (f : Fmt) (neg : Bool) (mag : Nat) : Nat := (if neg then 2 ^ (f.eb + f.mb) else 0) + mag

/-- RoundTo(fmt, mode, x) with the range handling of R208 and the bits of R198. -/
def roundNum (f : Fmt) (r : Rnd) (sat : Bool) (x : Num) : Nat × Xb :=
  match x with
  | .nan => (f.nan, 0)
  | .inf neg =>
    match f.inf with
    | none => if sat then (f.signed neg f.maxf, xOF) else (f.nan, xOF)
    | some i => if f.mb < 7 && sat then (f.signed neg f.maxf, xOF) else (f.signed neg i, 0)
  | .fin neg m e =>
    if m = 0 then (f.signed neg 0, 0)
    else
      let ex : Int := (Nat.log2 m : Int) + e
      let emin : Int := 1 - (f.bias : Int)
      let q := (if ex < emin then emin else ex) - (f.mb : Int)
      let (n, exact) := roundUnits r neg m e q
      let mag := (q - f.qmin).toNat * 2 ^ f.mb + n
      if f.maxf < mag then
        let ob := overflowBits f r neg sat
        (if f.inf = none ∧ sat = false then ob else f.signed neg ob, xOF ||| xNX)
      else
        let (n', _) := roundUnits r neg m e (ex - (f.mb : Int))
        let tiny := ex < emin && !(ex + 1 == emin && n' == 2 ^ (f.mb + 1))
        (f.signed neg mag, if exact then 0 else if tiny then xUF ||| xNX else xNX)

/-- RoundTo for arithmetic results: no FP8 target, no saturation. -/
def roundTo (f : Fmt) (r : Rnd) (x : Num) : Nat × Xb := roundNum f r false x

/-! ### Exact arithmetic -/

/-- The signed magnitude at exponent `e` or above, as an integer multiple of 2^e. -/
def atExp (neg : Bool) (m : Nat) (ex e : Int) : Int :=
  let v : Int := (m * 2 ^ (ex - e).toNat : Nat)
  if neg then -v else v

/-- A finite value from an integer multiple of 2^e; `z` is the sign of a zero. -/
def ofInt (z : Bool) (v : Int) (e : Int) : Num :=
  if v = 0 then .fin z 0 e else .fin (decide (v < 0)) v.natAbs e

/-- a + b exactly (R200): zero sums take their sign from the mode. -/
def addNum (r : Rnd) (a b : Num) : Num × Xb :=
  match a, b with
  | .nan, _ => (.nan, 0)
  | _, .nan => (.nan, 0)
  | .inf s, .inf t => if s = t then (.inf s, 0) else (.nan, xIV)
  | .inf s, _ => (.inf s, 0)
  | _, .inf t => (.inf t, 0)
  | .fin s m e, .fin t n k =>
    let lo := if e ≤ k then e else k
    let z := if s = t then s else match r with | .rdn => true | _ => false
    (ofInt z (atExp s m e lo + atExp t n k lo) lo, 0)

/-- a × b exactly. -/
def mulNum (a b : Num) : Num × Xb :=
  match a, b with
  | .nan, _ => (.nan, 0)
  | _, .nan => (.nan, 0)
  | .inf s, .inf t => (.inf (s != t), 0)
  | .inf s, .fin t n _ => if n = 0 then (.nan, xIV) else (.inf (s != t), 0)
  | .fin s m _, .inf t => if m = 0 then (.nan, xIV) else (.inf (s != t), 0)
  | .fin s m e, .fin t n k => (.fin (s != t) (m * n) (e + k), 0)

/-- −a. -/
def negNum : Num → Num
  | .nan => .nan | .inf s => .inf !s | .fin s m e => .fin (!s) m e
/-- |a|. -/
def absNum : Num → Num
  | .nan => .nan | .inf _ => .inf false | .fin _ m e => .fin false m e

/-- a × 2^k. -/
def shiftNum (a : Num) (k : Int) : Num :=
  match a with | .fin s m e => .fin s m (e + k) | x => x

/-- The order of two values that are not NaN, −0 = +0: −1, 0 or 1. -/
def cmpNum (a b : Num) : Int :=
  match a, b with
  | .inf s, .inf t => if s = t then 0 else if s then -1 else 1
  | .inf s, _ => if s then -1 else 1
  | _, .inf t => if t then 1 else -1
  | .fin s m e, .fin t n k =>
    let lo := if e ≤ k then e else k
    let d := atExp s m e lo - atExp t n k lo
    if d < 0 then -1 else if 0 < d then 1 else 0
  | _, _ => 0

/-- Whether a value is NaN. -/
def Num.isNan : Num → Bool | .nan => true | _ => false
/-- The sign of a value. -/
def Num.neg : Num → Bool | .nan => false | .inf s => s | .fin s _ _ => s
/-- Whether a value is ±0. -/
def Num.isZero : Num → Bool | .fin _ 0 _ => true | _ => false

/-- The smaller operand, −0 before +0 (R213, R278, R319); NaN when either is. -/
def minNum (a b : Num) : Num :=
  if a.isNan || b.isNan then .nan
  else if cmpNum a b < 0 then a else if 0 < cmpNum a b then b else if a.neg then a else b
/-- The larger operand, −0 before +0. -/
def maxNum (a b : Num) : Num :=
  if a.isNan || b.isNan then .nan
  else if cmpNum a b < 0 then b else if 0 < cmpNum a b then a else if a.neg then b else a

/-- The exact value's bits in a format that holds it. -/
def Fmt.write (f : Fmt) (x : Num) : Nat := (roundTo f .rne x).1

/-! ### Quotients, roots and the special functions (R209)

A result that no format holds exactly is given as a magnitude of more than 60 bits with its lowest bit set whenever
something lies below it: every format here has at most 24 significant bits, so one rounding of that magnitude is one
rounding of the exact result. -/

/-- n / d · 2^e with a sticky lowest bit. -/
def quotient (neg : Bool) (n d : Nat) (e : Int) : Num :=
  let k := Nat.log2 d + 80
  let q := n * 2 ^ k / d
  .fin neg (2 * q + (if n * 2 ^ k % d = 0 then 0 else 1)) (e - (k : Int) - 1)

/-- a / b (IEEE division, R349). -/
def divNum (a b : Num) : Num × Xb :=
  match a, b with
  | .nan, _ => (.nan, 0)
  | _, .nan => (.nan, 0)
  | .inf _, .inf _ => (.nan, xIV)
  | .inf s, .fin t _ _ => (.inf (s != t), 0)
  | .fin s _ _, .inf t => (.fin (s != t) 0 0, 0)
  | .fin s m e, .fin t n k =>
    if n = 0 then (if m = 0 then (.nan, xIV) else (.inf (s != t), xDZ))
    else (quotient (s != t) m n (e - k), 0)

/-- The integer square root by binary digits: `bit` halves from a power of four. -/
def isqrtGo : Nat → Nat → Nat → Nat → Nat
  | 0, _, _, res => res
  | fuel + 1, n, bit, res =>
    if n < res + bit then isqrtGo fuel n (bit / 4) (res / 2)
    else isqrtGo fuel (n - (res + bit)) (bit / 4) (res / 2 + bit)
/-- The largest r with r · r ≤ n. -/
def isqrt (n : Nat) : Nat := let h := Nat.log2 n / 2; isqrtGo (h + 1) n (4 ^ h) 0

/-- √(n / d · 2^(2e)) with a sticky lowest bit. -/
def rootOf (n d : Nat) (e : Int) : Num :=
  let k := Nat.log2 d + 100
  let v := n * 4 ^ k / d
  let r := isqrt v
  let exact := r * r == v && n * 4 ^ k % d == 0
  .fin false (2 * r + (if exact then 0 else 1)) (e - (k : Int) - 1)

/-- Makes an exponent even. -/
def evenExp (m : Nat) (e : Int) : Nat × Int := if e % 2 = 0 then (m, e / 2) else (2 * m, (e - 1) / 2)

def rcpNum : Num → Num × Xb
  | .nan => (.nan, 0)
  | .inf s => (.fin s 0 0, 0)
  | .fin s m e => if m = 0 then (.inf s, xDZ) else (quotient s 1 m (-e), 0)

def sqrtNum : Num → Num × Xb
  | .nan => (.nan, 0)
  | .inf s => if s then (.nan, xIV) else (.inf false, 0)
  | .fin s m e =>
    if m = 0 then (.fin s 0 0, 0) else if s then (.nan, xIV)
    else let (m', h) := evenExp m e; (rootOf m' 1 h, 0)

def rsqNum : Num → Num × Xb
  | .nan => (.nan, 0)
  | .inf s => if s then (.nan, xIV) else (.fin false 0 0, 0)
  | .fin s m e =>
    if m = 0 then (.inf s, xDZ) else if s then (.nan, xIV)
    else let (m', h) := evenExp m e; (rootOf 1 m' (-h), 0)

/-- Fraction bits of the fixed-point numbers below (log 10). -/
def fracBits : Nat := 256
/-- One in fixed point. -/
def fixOne : Nat := 2 ^ fracBits

/-- Σ x^k / k! from a term on, in fixed point. -/
def expSum : Nat → Nat → Nat → Nat → Nat
  | 0, _, _, _ => 0
  | fuel + 1, k, term, x => term + expSum fuel (k + 1) (term * x / fixOne / k) x
/-- e^x in fixed point, for 0 ≤ x < 1. -/
def expFix (x : Nat) : Nat := expSum 70 1 fixOne x
/-- Σ 1 / (k · 2^k) from k on. -/
def lnSum : Nat → Nat → Nat
  | 0, _ => 0
  | fuel + 1, k => fixOne / 2 ^ k / k + lnSum fuel (k + 1)
/-- ln 2 in fixed point. -/
def ln2 : Nat := lnSum 260 1

/-- The binary digits of log2 y for 1 ≤ y < 2 in fixed point, by repeated squaring. -/
def logDigits : Nat → Nat → Nat → Nat
  | 0, _, acc => acc
  | fuel + 1, y, acc =>
    let z := y * y / fixOne
    if 2 * fixOne ≤ z then logDigits fuel (z / 2) (2 * acc + 1) else logDigits fuel z (2 * acc)

/-- A magnitude just above (`up`) or below m · 2^e. -/
def beside (neg up : Bool) (m : Nat) (e : Int) : Num :=
  .fin neg (if up then m * 2 ^ 64 + 1 else m * 2 ^ 64 - 1) (e - 64)

/-- 2^x exactly or to more than 100 bits (R209, log 10). -/
def exp2Num : Num → Num × Xb
  | .nan => (.nan, 0)
  | .inf s => if s then (.fin false 0 0, 0) else (.inf false, 0)
  | .fin s m e =>
    let x : Num := .fin s m e
    if m = 0 then (.fin false 1 0, 0)
    else if 0 ≤ cmpNum x (.fin false 128 0) then (.fin false 1 128, 0)
    else if cmpNum x (.fin true 200 0) < 0 then (.fin false 1 (-200), 0)
    else if (Nat.log2 m : Int) + e < -60 then (beside false (!s) 1 0, 0)
    else
      let v := atExp s m e (-(fracBits : Int))
      let n := v / (fixOne : Int)
      let fr := (v % (fixOne : Int)).toNat
      if fr = 0 then (.fin false 1 n, 0)
      else (.fin false (2 * expFix (fr * ln2 / fixOne) + 1) (n - (fracBits : Int) - 1), 0)

/-- log2 x exactly or to more than 100 bits (R209, log 10). -/
def log2Num : Num → Num × Xb
  | .nan => (.nan, 0)
  | .inf s => if s then (.nan, xIV) else (.inf false, 0)
  | .fin s m e =>
    if m = 0 then (.inf true, xDZ) else if s then (.nan, xIV)
    else
      let n : Int := (Nat.log2 m : Int) + e
      if m = 2 ^ Nat.log2 m then (ofInt false n 0, 0)
      else
        let y := m * fixOne / 2 ^ Nat.log2 m
        let d := logDigits 120 y 0
        (ofInt false ((n * 2 ^ 120 + (d : Int)) * 2 + 1) (-121), 0)

/-- tanh x to more than 100 bits (R209, log 10). -/
def tanhNum : Num → Num × Xb
  | .nan => (.nan, 0)
  | .inf s => (.fin s 1 0, 0)
  | .fin s m e =>
    if m = 0 then (.fin s 0 0, 0)
    else if (Nat.log2 m : Int) + e < -40 then (beside s false m e, 0)
    else if 5 ≤ (Nat.log2 m : Int) + e then (beside s false 1 0, 0)
    else
      let u := (atExp false m (e + 1) (-(fracBits : Int))).toNat
      let n := u / ln2
      let a := 2 ^ n * expFix (u % ln2)
      (quotient s (a - fixOne) (a + fixOne) 0, 0)

/-- The special functions on FP32 bits (R209). -/
def special (f : Num → Num × Xb) (x : Nat) : Nat × Xb :=
  let (y, b) := f (fp32.read x)
  let (r, c) := roundTo fp32 .rne y
  (r, b ||| c)

/-! ### Conversions (R208) -/

/-- The range of an integer type of `w` bits. -/
def intRange (w : Nat) (unsigned : Bool) : Int × Int :=
  if unsigned then (0, (2 ^ w : Nat) - 1) else (-(2 ^ (w - 1) : Nat), (2 ^ (w - 1) : Nat) - 1)

/-- Rounds a value to an integer of a range, saturating (R208). -/
def roundInt (r : Rnd) (w : Nat) (unsigned : Bool) (x : Num) : Int × Xb :=
  let (lo, hi) := intRange w unsigned
  match x with
  | .nan => (0, xIV)
  | .inf s => (if s then lo else hi, xIV)
  | .fin s m e =>
    let (n, exact) := roundUnits r s m e 0
    let v : Int := if s then -(n : Int) else n
    if v < lo then (lo, xIV) else if hi < v then (hi, xIV) else (v, if exact then 0 else xNX)

/-- Bits of an integer type. -/
def tyBits : Ty → Nat
  | .fp32 => 32 | .bf16 => 16 | .fp16 => 16 | .e4m3 => 8 | .e5m2 => 8 | .i32 => 32 | .i16 => 16 | .i8 => 8

/-- The value of the low `w` bits, signed or not. -/
def intVal (w : Nat) (unsigned : Bool) (x : Nat) : Int :=
  let v := x % 2 ^ w
  if unsigned || v < 2 ^ (w - 1) then v else (v : Int) - (2 ^ w : Nat)

/-- The exact value of a lane read as a type (R227, R272). -/
def laneNum (y : Ty) (unsigned : Bool) (x : W32) : Num :=
  if y.isInt then ofInt false (intVal (tyBits y) unsigned x.toNat) 0 else (tyFmt y).read x.toNat

/-- A lane that holds an integer result: extended by sign, or by zeros when unsigned (R272). -/
def intLane (w : Nat) (unsigned : Bool) (v : Int) : W32 :=
  BitVec.ofInt 32 (intVal w unsigned (v % ((2 ^ w : Nat) : Int)).toNat)

/-- Convert(v, target, mode, NS) (R208, R281). -/
def convert (src : Ty) (us : Bool) (dst : Ty) (ut ns : Bool) (r : Rnd) (x : W32) : W32 × Xb :=
  let v := laneNum src us x
  if dst.isInt then
    let (n, b) := roundInt r (tyBits dst) ut v
    (intLane (tyBits dst) ut n, b)
  else
    let (n, b) := roundNum (tyFmt dst) r (!ns) v
    (BitVec.ofNat 32 n, b)

/-! ### KB blocks (R202–R204) -/

/-- Elements a KB block's 16 values decode to: `k` magnitude bits, block bits as a number. -/
def kbRead (k : Nat) (b : Nat) : List Num :=
  let ex := b % 256
  (List.range 16).map fun i =>
    let x := b / 2 ^ (16 + (k + 1) * i) % 2 ^ (k + 1)
    let sg := b / 2 ^ (8 + 2 * (i / 4)) % 4
    let m := x % 2 ^ k
    if ex = 255 then .nan
    else if m = 0 then .fin false 0 0
    else .fin (x / 2 ^ k == 1) m ((ex : Int) - 127 - (sg : Int) - ((k : Int) - 1))

/-- The rounding of the element at a position under a mode, DR by its position (R204, R207). -/
def kbRnd (md : Nat) (phase i : Nat) : Rnd :=
  if md = 5 then .dr (nth [0, 8, 4, 12, 2, 10, 6, 14, 1, 9, 5, 13, 3, 11, 7, 15] ((i + phase) % 16) 0)
  else rnd2 md

/-- The magnitude of a source value; an infinity counts as 2^128. -/
def kbMag : Num → Nat × Int
  | .nan => (0, 0) | .inf _ => (1, 128) | .fin _ m e => (m, e)

/-- RoundTo(Mag, md, a / 2^q), and whether exact. -/
def kbRound (md phase i : Nat) (x : Num) (q : Int) : Nat × Bool :=
  let (m, e) := kbMag x
  roundUnits (kbRnd md phase i) x.neg m e q

/-- The largest value's first position. -/
def kbMaxAt : List Num → Nat → Nat × Num → Nat × Num
  | [], _, best => best
  | x :: r, i, best => kbMaxAt r (i + 1) (if 0 < cmpNum (absNum x) best.2 then (i, absNum x) else best)

/-- The sub-exponent of a quad: the largest that fits. -/
def kbSub (k md phase : Nat) (xs : List Num) (q : Nat) (ex : Nat) : List Nat → Nat
  | [] => 0
  | s :: r =>
    if (List.range 4).all fun j =>
        let i := 4 * q + j
        (kbRound md phase i (nth xs i (.fin false 0 0)) ((ex : Int) - 127 - (s : Int) - ((k : Int) - 1))).1 ≤ 2 ^ k - 1
    then s else kbSub k md phase xs q ex r

/-- The encoder of R204: the block's bits and the exception bits. -/
def kbWrite (k md phase : Nat) (xs : List Num) : Nat × Xb :=
  if xs.any Num.isNan then (0xFF, xIV)
  else
    let (at_, big) := kbMaxAt xs 0 (0, .fin false 0 0)
    let (m, me) := kbMag big
    let x := nth xs at_ (.fin false 0 0)
    let ex : Nat :=
      if m = 0 then 0
      else
        let e : Int := (Nat.log2 m : Int) + me
        let t := (kbRound md phase at_ x (e - ((k : Int) - 1))).1
        let raw := if t = 2 ^ k then e + 128 else e + 127
        if raw < 0 then 0 else if 254 < raw then 254 else raw.toNat
    let subs := (List.range 4).map fun q => kbSub k md phase xs q ex [3, 2, 1, 0]
    let go := (List.range 16).map fun i =>
      let xi := nth xs i (.fin false 0 0)
      let sg := nth subs (i / 4) 0
      let (n, exact) := kbRound md phase i xi ((ex : Int) - 127 - (sg : Int) - ((k : Int) - 1))
      let isInf := match xi with | .inf _ => true | _ => false
      let clip := 2 ^ k - 1 < n || isInf
      let n' := if clip then 2 ^ k - 1 else n
      let bits : Xb := (if clip then xOF else 0) ||| (if !isInf && (!exact || clip) then xNX else 0) |||
        (if !isInf && !xi.isZero && n' == 0 then xUF else 0)
      ((if n' ≠ 0 ∧ xi.neg then 2 ^ k else 0) + n', bits)
    let val := (List.range 16).foldl (fun a i => a + (nth go i (0, 0)).1 * 2 ^ (16 + (k + 1) * i)) 0
    let sv := (List.range 4).foldl (fun a q => a + nth subs q 0 * 2 ^ (8 + 2 * q)) 0
    (ex + sv + val, go.foldl (fun a p => a ||| p.2) 0)

end Sys2Proof.Machine
end

