-- ==== Sys2Proof/Machine/Exact.lean ====
section
/-! DEFINITION. Exact accumulators, lane records and accumulate objects (R60, R210–R214): what a contribution adds,
how records combine, and how a record is read with one rounding. -/
namespace Sys2Proof.Machine

/-- Bits of a lane record (R60). -/
abbrev Rec := BitVec 384

/-- An operator with the kind of its values: the code of R294, whether floating, and the bits of an integer. -/
structure OpKind where
  op    : Nat
  float : Bool
  bits  : Nat
  deriving DecidableEq, Repr

def opADDX : Nat := 0
def opMAX : Nat := 1
def opMIN : Nat := 2
def opMAXABS : Nat := 3
def opAND : Nat := 4
def opOR : Nat := 5
def opXOR : Nat := 6
def opIADD : Nat := 7
def opCOUNT : Nat := 8

/-- The fields of a lane record. -/
def recAcc (r : Rec) : BitVec 320 := r.extractLsb' 64 320
def recStk (r : Rec) : BitVec 3 := r.extractLsb' 61 3
def recXb (r : Rec) : Xb := r.extractLsb' 55 6
def recXu (r : Rec) : BitVec 7 := r.extractLsb' 48 7
def recV (r : Rec) : Bool := r.getLsbD 0

/-- The empty record (V = 0). -/
def emptyRec : Rec := 0x7F#7 ++ 0#48 |>.setWidth 384

/-- A record that holds a contribution. -/
def mkRec (acc : BitVec 320) (stk : BitVec 3) (xb : Xb) (xu : BitVec 7) : Rec :=
  acc ++ stk ++ xb ++ xu ++ 0#47 ++ 1#1

/-- ExactSum of one value into the empty accumulator (R211): ACC and the flags PINF, NINF, NAN. -/
def exactOf : Num → BitVec 320 × BitVec 3
  | .nan => (0, 1)
  | .inf s => (0, if s then 2 else 4)
  | .fin s m e => (BitVec.ofInt 320 (atExp s m e (-149)), 0)

/-- ExactRound (R212). -/
def exactRound (f : Fmt) (r : Rnd) (acc : BitVec 320) (stk : BitVec 3) : Nat × Xb :=
  if stk.getLsbD 0 then (f.nan, 0)
  else if stk.getLsbD 2 && stk.getLsbD 1 then (f.nan, xIV)
  else if stk.getLsbD 2 then roundTo f r (.inf false)
  else if stk.getLsbD 1 then roundTo f r (.inf true)
  else if acc = 0 then (0, 0) else roundTo f r (ofInt false acc.toInt (-149))

/-- The larger, the smaller or the larger magnitude of two FP32 patterns (R213). -/
def pickFp (op : Nat) (a b : Nat) : Nat :=
  let x := fp32.read a
  let y := fp32.read b
  fp32.write (if op = opMAX then maxNum x y else if op = opMIN then minNum x y else maxNum (absNum x) (absNum y))

/-- The partial values of two contributions combined, ADDX apart (R213). -/
def combinePart (k : OpKind) (a b : BitVec 320) : BitVec 320 :=
  if k.float then BitVec.ofNat 320 (pickFp k.op (field a 0 32) (field b 0 32))
  else
    let x := field a 0 k.bits
    let y := field b 0 k.bits
    let lt := decide (intVal k.bits false x < intVal k.bits false y)
    if k.op = opMAX then (if lt then b else a)
    else if k.op = opMIN then (if lt then a else b)
    else if k.op = opAND then a &&& b
    else if k.op = opOR then a ||| b
    else if k.op = opXOR then a ^^^ b
    else BitVec.ofNat 320 ((x + y) % 2 ^ k.bits)

/-- Two records combined (R211, R213, R296): XB is the OR, XU the lower. -/
def combineRec (k : OpKind) (a b : Rec) : Rec :=
  if !recV a then b else if !recV b then a
  else
    let xb := recXb a ||| recXb b
    let xu := if recXu a ≤ recXu b then recXu a else recXu b
    if k.op = opADDX then mkRec (recAcc a + recAcc b) (recStk a ||| recStk b) xb xu
    else mkRec (combinePart k (recAcc a) (recAcc b)) 0 xb xu

/-- A floating contribution under an operator. -/
def floatRec (k : OpKind) (x : Num) (xb : Xb) (xu : BitVec 7) : Rec :=
  if k.op = opADDX then let (acc, stk) := exactOf x; mkRec acc stk xb xu
  else mkRec (BitVec.ofNat 320 (fp32.write (if k.op = opMAXABS then absNum x else x))) 0 xb xu

/-- An integer contribution under an operator: COUNT adds 1 for a non-zero value (R213). -/
def intRec (k : OpKind) (v : Int) (xb : Xb) (xu : BitVec 7) : Rec :=
  let p := if k.op = opCOUNT then (if v = 0 then 0 else 1) else (v % ((2 ^ k.bits : Nat) : Int)).toNat
  mkRec (BitVec.ofNat 320 p) 0 xb xu

/-- The value read of a lane with no contribution (R213), as bits. -/
def emptyRead (k : OpKind) (f : Fmt) : Nat :=
  if k.float then
    (if k.op = opMAX then (roundTo f .rne (.inf true)).1
     else if k.op = opMIN then (roundTo f .rne (.inf false)).1 else 0)
  else if k.op = opMAX then 2 ^ (k.bits - 1)
  else if k.op = opMIN then 2 ^ (k.bits - 1) - 1
  else if k.op = opAND then 2 ^ k.bits - 1 else 0

/-- A record read into a format, or as the integer's bits, with the bits the rounding raised (R212, R213). -/
def readRec (k : OpKind) (f : Fmt) (r : Rec) : Nat × Xb :=
  if !recV r then (emptyRead k f, 0)
  else if k.float then
    (if k.op = opADDX then exactRound f .rne (recAcc r) (recStk r)
     else roundTo f .rne (fp32.read (field (recAcc r) 0 32)))
  else (field (recAcc r) 0 k.bits, 0)

/-! ### Laminated declarations (R294) -/

def declOp (d : W32) : Nat := field d 0 4
def declFmt (d : W32) : Nat := field d 4 2
def declWidth (d : W32) : Nat := field d 6 6

/-- Whether R213 lists a pair of operator and format. -/
def pairOk (op fmt : Nat) : Bool :=
  if op = opADDX ∨ op = opMAXABS then fmt ≤ 1
  else if op = opMAX ∨ op = opMIN then fmt ≤ 3
  else (op ≤ 8 && 2 ≤ fmt && fmt ≤ 3)

/-- The checks of R294 on a declaration word. -/
def declOk (d : W32) : Bool :=
  d.extractLsb' 12 20 = 0 && pairOk (declOp d) (declFmt d) && 1 ≤ declWidth d && declWidth d ≤ 32

/-- The operator of an (op, fmt) pair. -/
def lamKind (op fmt : Nat) : OpKind := { op := op, float := fmt ≤ 1, bits := if fmt = 3 then 64 else 32 }
def declKind (d : W32) : OpKind := lamKind (declOp d) (declFmt d)
/-- The format a record is read in. -/
def lamFmt (fmt : Nat) : Fmt := if fmt = 1 then bf16 else fp32

/-- Whether a declaration is in force. -/
def declared (d : W32) : Bool := declWidth d != 0

/-- The operator of LRED and ACC (R286) with its element type. -/
def redKind (op : RedOp) (y : Ty) : OpKind :=
  { op := match op with
      | .addx => opADDX | .max => opMAX | .min => opMIN | .maxabs => opMAXABS | .iadd => opIADD
      | .and => opAND | .or => opOR | .xor => opXOR,
    float := !y.isInt, bits := tyBits y }

/-- A lane of a token as a contribution under R286. -/
def redRec (op : RedOp) (y : Ty) (x : W32) (xb : Xb) : Rec :=
  let k := redKind op y
  if k.float then floatRec k ((tyFmt y).read x.toNat) xb 0x7F else intRec k (intVal k.bits false x.toNat) xb 0x7F

/-- The value of a record as a lane of a type, with the rounding's bits. -/
def redRead (op : RedOp) (y : Ty) (r : Rec) : W32 × Xb :=
  let (v, b) := readRec (redKind op y) (tyFmt y) r
  if y.isInt then (intLane (tyBits y) false (v : Int), b) else (BitVec.ofNat 32 v, b)

/-- The operator code of a reduction (R330) as the code of R294. -/
def xredOp (op : Nat) : Nat :=
  match op with | 0 => opADDX | 1 => opMAX | 2 => opMIN | 3 => opMAXABS | 4 => opIADD | 5 => opAND | 6 => opOR | _ => opXOR

/-! ### Accumulate objects (R214) -/

/-- An exact accumulate object: ACC, the flags, XB and COUNT. -/
structure AxObj where
  acc   : BitVec 320
  stk   : BitVec 3
  xb    : Xb
  count : Word
  deriving DecidableEq, Repr

/-- Reads an object of 64 bytes. -/
def axOfBytes (bs : List Byte) : AxObj :=
  let n := leNat (bs.take 40)
  let w5 := leNat ((bs.drop 40).take 8)
  { acc := BitVec.ofNat 320 n, stk := BitVec.ofNat 3 (w5 / 2 ^ 61), xb := BitVec.ofNat 6 (w5 / 2 ^ 55),
    count := BitVec.ofNat 64 (leNat ((bs.drop 48).take 8)) }

/-- The bytes of an object. -/
def axBytes (o : AxObj) : List Byte :=
  natLE 40 o.acc.toNat ++ natLE 8 (o.stk.toNat * 2 ^ 61 + o.xb.toNat * 2 ^ 55) ++ natLE 8 o.count.toNat ++ natLE 8 0

/-- A contribution of one value (R321). -/
def axPut (o : AxObj) (x : Num) (xb : Xb) : AxObj :=
  let (acc, stk) := exactOf x
  { acc := o.acc + acc, stk := o.stk ||| stk, xb := o.xb ||| xb, count := o.count + 1 }

/-- The object read into a format with one rounding. -/
def axRead (f : Fmt) (o : AxObj) : Nat × Xb := exactRound f .rne o.acc o.stk

end Sys2Proof.Machine
end

