-- ==== Sys2Proof/Machine/Geom.lean ====
section
/-! DEFINITION. Where things stand on the device (R45, R69, R70, R81): dies, columns, rows, bays, stack domains, home
slices, scope groups, routes. -/
namespace Sys2Proof.Machine

/-- Die of a core. -/
def coreDie (c : Nat) : Nat := c / 112
/-- Row of a core. -/
def coreRow (c : Nat) : Nat := c % 112 / 14
/-- Index of a core among the core columns of its row. -/
def coreIdx (c : Nat) : Nat := c % 14
/-- Global column of a core. -/
def coreCol (c : Nat) : Nat := coreDie c * 16 + (if coreIdx c < 7 then coreIdx c else coreIdx c + 1)
/-- Bay of a core. -/
def coreBay (c : Nat) : Nat := coreDie c * 16 + coreRow c * 2 + (if coreIdx c < 7 then 0 else 1)
/-- Position of a core within its bay. -/
def bayPos (c : Nat) : Nat := coreIdx c % 7
/-- Stack domain of a core. -/
def coreStack (c : Nat) : Nat := coreBay c / 4
/-- The core at a position of a bay. -/
def bayCore (b p : Nat) : Nat := b / 16 * 112 + b % 16 / 2 * 14 + (b % 2) * 7 + p
/-- The node of a core's router: column × 8 + row. -/
def coreNode (c : Nat) : Nat := coreCol c * 8 + coreRow c
/-- The node of a slice's router. -/
def sliceNode (b : Nat) : Nat := (b / 16 * 16 + (if b % 2 = 0 then 7 else 15)) * 8 + b % 16 / 2
/-- The node of a die's hub port. -/
def hubNode (die : Nat) : Nat := (if die = 0 then 15 else 16) * 8 + 7

/-- The stack that holds a physical address. -/
def paStack (pa : Nat) : Nat := pa / Config.stackBytes
/-- The home slice of a physical address (R81). -/
def homeSlice (pa : Nat) : Nat :=
  4 * paStack pa + ((pa / 2 ^ 8 % 4) ^^^ (pa / 2 ^ 12 % 4) ^^^ (pa / 2 ^ 16 % 4))
/-- The channel, of its slice's eight, that holds an address (R81). -/
def homeChannel (pa : Nat) : Nat := (pa / 2 ^ 10 % 8) ^^^ (pa / 2 ^ 20 % 8)
/-- Whether a physical address with HOST = 0 is HBM4 (R9). -/
def isHbm (pa : Nat) : Bool := pa < Config.hbmBytes
/-- Whether a physical address lies in the register, configuration or trace space. -/
def isDevice (pa : Nat) : Bool := Config.regBase ≤ pa && pa < Config.devEnd

/-- The instance of a scope a core lies in (R119). -/
def scopeInst (sc : Scope) (c : Nat) : Nat :=
  match sc with | .core => c | .bay => coreBay c | .stack => coreStack c | .dev => 0 | .pod => 0
/-- Width of a scope, narrowest 0. -/
def scopeRank (sc : Scope) : Nat := sc.code.toNat
/-- The cores of an instance of a tier (R147). -/
def tierCores (tier inst : Nat) : List Nat :=
  match tier with
  | 0 => [inst]
  | 1 => rangeFrom (bayCore inst 0) 7
  | 2 => (List.range Config.cores).filter fun c => coreStack c == inst
  | _ => List.range Config.cores
/-- How many instances a tier has on the device. -/
def tierInsts (tier : Nat) : Nat := match tier with | 0 => 224 | 1 => 32 | 2 => 8 | _ => 1

/-- The next column of a route (R70): a step of 16, 4 or 1 towards the target. -/
def nextCol (col dst : Nat) : Nat :=
  let up := decide (col < dst)
  let d := if up then dst - col else col - dst
  let move (k : Nat) := if up then col + k else col - k
  if 16 ≤ d then move 16
  else if 4 ≤ d ∧ move 4 / 16 = col / 16 then move 4
  else move 1
/-- The next row of a route. -/
def nextRow (row dst : Nat) : Nat :=
  let up := decide (row < dst)
  let d := if up then dst - row else row - dst
  let k := if 4 ≤ d then 4 else 1
  if up then row + k else row - k
/-- The next node of a route: columns first, then rows. -/
def nextNode (node dst : Nat) : Nat :=
  if node / 8 ≠ dst / 8 then nextCol (node / 8) (dst / 8) * 8 + node % 8
  else if node % 8 ≠ dst % 8 then node / 8 * 8 + nextRow (node % 8) (dst % 8) else node
/-- Cycles of a hop between two nodes (R72). -/
def hopCycles (a b : Nat) : Nat := if a / 128 ≠ b / 128 then 42 else 2
/-- Hops left from a node to a destination, at most the fuel. -/
def routeFrom : Nat → Nat → Nat → List Nat
  | 0, _, _ => []
  | fuel + 1, a, b => if a = b then [] else nextNode a b :: routeFrom fuel (nextNode a b) b
/-- The nodes of a route after its first. -/
def route (a b : Nat) : List Nat := routeFrom 64 a b

end Sys2Proof.Machine
end

