-- ==== Sys2Proof/Machine/Ops.lean ====
section
/-! DEFINITION. The named operations on the machine: its parts, the registers of a sequencer, retirement and loops
(R242–R252), events, the violation log (R43, R44), trace records (R424, R425), taking a trap (R395–R398, R249), fault
records (R35–R42), the machine check (R404), and the return from a handler. -/
namespace Sys2Proof.Machine

/-- What an instruction answers. -/
abbrev Out := Host.Outcome State Fault Refusal

/-! ### Parts of the machine -/

def coreOf (s : State) (c : Nat) : Core := lookD s.cores c Core.reset
def setCore (s : State) (c : Nat) (x : Core) : State := { s with cores := put s.cores c x }
def modCore (s : State) (c : Nat) (f : Core → Core) : State := setCore s c (f (coreOf s c))

def ctxIn (x : Core) (k : Nat) : Ctx := lookD x.ctxs k Ctx.reset
def ctxOf (s : State) (c k : Nat) : Ctx := ctxIn (coreOf s c) k
def setCtx (s : State) (c k : Nat) (x : Ctx) : State := modCore s c fun y => { y with ctxs := put y.ctxs k x }
def modCtx (s : State) (c k : Nat) (f : Ctx → Ctx) : State := setCtx s c k (f (ctxOf s c k))
def modRegs (s : State) (c k : Nat) (f : CtxRegs → CtxRegs) : State :=
  modCtx s c k fun x => { x with r := f x.r }

def svcOf (s : State) (n : Nat) : Svc := lookD s.svcs n Svc.reset
def modSvc (s : State) (n : Nat) (f : Svc → Svc) : State := { s with svcs := put s.svcs n (f (svcOf s n)) }

def elemIn (x : Core) (e : Nat) : Elem := lookD x.elems e Elem.reset
def elemOf (s : State) (c e : Nat) : Elem := elemIn (coreOf s c) e
def modElem (s : State) (c e : Nat) (f : Elem → Elem) : State :=
  modCore s c fun x => { x with elems := put x.elems e (f (elemIn x e)) }

def jobOf (s : State) (a : Nat) : Job := lookD s.jobs a Job.reset
def modJob (s : State) (a : Nat) (f : Job → Job) : State := { s with jobs := put s.jobs a (f (jobOf s a)) }
def queueOf (s : State) (q : Nat) : Queue := lookD s.queues q Queue.reset
def modQueue (s : State) (q : Nat) (f : Queue → Queue) : State := { s with queues := put s.queues q (f (queueOf s q)) }
def stackOf (s : State) (k : Nat) : Stack := lookD s.hbmStacks k Stack.reset
def modStack (s : State) (k : Nat) (f : Stack → Stack) : State := { s with hbmStacks := put s.hbmStacks k (f (stackOf s k)) }
def taskOf (s : State) (t : Nat) : Option Task := s.tasks.find? fun x => x.id == t
def modTask (s : State) (t : Nat) (f : Task → Task) : State :=
  { s with tasks := updFirst s.tasks (fun x => x.id == t) f }

/-- The ASID of a context (R7). -/
def asidOf (x : Ctx) : Nat := field x.r.xlroot 52 12
/-- The sequencer of an actor. -/
def seqOf (s : State) : Actor → Seq
  | .seq c k => (ctxOf s c k).seq
  | .svc n => (svcOf s n).seq
  | _ => Seq.reset
/-- Changes the sequencer of an actor; an element has none. -/
def modSeq (s : State) (a : Actor) (f : Seq → Seq) : State :=
  match a with
  | .seq c k => modCtx s c k fun x => { x with seq := f x.seq }
  | .svc n => modSvc s n fun v => { v with seq := f v.seq }
  | _ => s
/-- The sequencer whose instruction is being executed. -/
def curSeq (s : State) : Seq := seqOf s s.cur
def modCur (s : State) (f : Seq → Seq) : State := modSeq s s.cur f
/-- The core and slot of the executing context. -/
def curCK (s : State) : Nat × Nat := match s.cur with | .seq c k => (c, k) | .elem c _ => (c, 0) | _ => (0, 0)
/-- Whether the executing sequencer is a service core's. -/
def onService (s : State) : Bool := match s.cur with | .svc _ => true | _ => false
/-- The ASID of the executing context, zero on a service core. -/
def curAsid (s : State) : Nat := match s.cur with | .seq c k => asidOf (ctxOf s c k) | _ => 0

/-- A free value, and the counter advanced (log 2). -/
def drawFree (s : State) : Word × State := (Config.freeWord s.free, { s with free := s.free + 1 })

/-- Records what leaves the device. -/
def emit (s : State) (e : OutEv) : State := { s with events := s.events ++ [e] }

/-! ### Registers -/

/-- Reads a scalar: S0 reads as zero (R3). -/
def readS (q : Seq) (r : Reg) : Word := if r = 0 then 0 else lookD q.s r.toNat 0
/-- Writes a scalar: a write to S0 is discarded. -/
def writeS (q : Seq) (r : Reg) (v : Word) : Seq := if r = 0 then q else { q with s := put q.s r.toNat v }
/-- Reads a predicate: P0 is always true (R3). -/
def readP (q : Seq) (p : Pred) : Bool := if p = 0 then true else q.p.getLsbD p.toNat
/-- Writes a predicate; P0 is no destination (R246). -/
def writeP (q : Seq) (p : Pred) (v : Bool) : Seq :=
  if p = 0 then q
  else { q with p := if v then q.p ||| (1#8 <<< p.toNat) else q.p &&& ~~~(1#8 <<< p.toNat) }
/-- Reads a loop counter. -/
def readLC (q : Seq) (n : Nat) : W32 := lookD q.lc n 0
/-- Writes a loop counter. -/
def writeLC (q : Seq) (n : Nat) (v : W32) : Seq := { q with lc := put q.lc n v }
/-- Reads a handle register (R310). -/
def readH (q : Seq) (h : HReg) : Half := lookD q.h h.toNat 0xFFFF
/-- Writes a handle register. -/
def writeH (q : Seq) (h : HReg) (v : Half) : Seq := { q with h := put q.h h.toNat v }
/-- Whether a guard passes: P[GP] XOR GN = 1 (R217). -/
def guardHolds (q : Seq) (g : Guard) : Bool := readP q g.p != g.neg

/-- The link register S31 (R242). -/
def linkReg : Reg := 31

/-! ### Retirement, loops and transfers -/

/-- The loops after the body word `w` has retired without a taken transfer (R250): the frames, the counters, and the
address to continue at. -/
def loopStep : List Frame → NMap W32 → Word → List Frame × NMap W32 × Word
  | [], lc, w => ([], lc, w + 4)
  | f :: r, lc, w =>
    if f.last = w then
      let n := lookD lc f.lc.toNat 0
      let n' := if n = 0 then 0 else n - 1
      let lc' := put lc f.lc.toNat n'
      if n' = 0 then loopStep r lc' w else (f :: r, lc', f.first)
    else (f :: r, lc, w + 4)

/-- The sequencer after an instruction of `words` words has retired without a taken transfer. -/
def seqRetired (q : Seq) (words : Nat) : Seq :=
  let x := loopStep q.loops q.lc (q.pc + BitVec.ofNat 64 (4 * (words - 1)))
  { q with loops := x.1, lc := x.2.1, pc := x.2.2, wait := .none }

/-- Whether a loop's body holds an address. -/
def Frame.has (f : Frame) (a : Word) : Bool := f.first ≤ a && a ≤ f.last
/-- The loops a taken transfer leaves active (R252). -/
def loopsAfter (fs : List Frame) (target : Word) : List Frame := fs.dropWhile fun f => !f.has target

/-- The sequencer after a taken transfer. -/
def seqJump (q : Seq) (target : Word) : Seq :=
  { q with loops := loopsAfter q.loops target, pc := target, wait := .none }

/-- The watchdog's count of a context starts again (R399). -/
def markProgress (s : State) (c k : Nat) : State := modCtx s c k fun x => { x with progress := s.cycle }
/-- The executing context has retired an instruction (R399). -/
def progressed (s : State) : State := match s.cur with | .seq c k => markProgress s c k | _ => s

/-- Retires the instruction being executed. -/
def retire (s : State) (words : Nat) : State := progressed (modCur s fun q => seqRetired q words)
/-- Writes a scalar and retires. -/
def retireS (s : State) (d : Reg) (v : Word) (words : Nat) : State :=
  progressed (modCur s fun q => seqRetired (writeS q d v) words)
/-- Writes a predicate and retires. -/
def retireP (s : State) (p : Pred) (v : Bool) : State :=
  progressed (modCur s fun q => seqRetired (writeP q p v) 1)

/-- The instruction stays; the sequencer waits in a phase of it. -/
def waitIn (s : State) (w : Wait) : State := modCur s fun q => { q with wait := w }
/-- The phase the executing instruction waits in. -/
def curWait (s : State) : Wait := (curSeq s).wait

/-! ### Time -/

/-- The current tick number (R440). -/
def tickAt (t : Time) (ns : Nat) : Nat :=
  if ns < t.epoch.toNat then 0 else (ns - t.epoch.toNat) / (t.per.toNat * 1000)
/-- The current tick. -/
def tickNow (s : State) : Word := BitVec.ofNat 64 (tickAt s.time s.time.ptime.toNat)

/-! ### The violation log (R43, R44) -/

/-- A violation as it is logged. -/
structure Viol where
  asid  : Nat
  addr  : Nat
  cause : Nat
  reqid : Nat
  kind  : Nat
  akind : Nat
  acc   : Nat
  deriving DecidableEq, Repr

/-- The first of the 16 entries that is free. -/
def freeEntry (l : VLog) : Option Nat :=
  (List.range 16).find? fun i => (lookD l.entries i (0, 0)).2.getLsbD 0 == false

/-- A violation's place among those of one cycle: REQKIND, then REQID. -/
def violKey (e : Word × Word) : Nat := field e.2 45 3 * 256 + field e.2 48 8
/-- Puts a violation among those of its cycle. -/
def insertViol (e : Word × Word) : List (Word × Word) → List (Word × Word)
  | [] => [e]
  | x :: r => if violKey e < violKey x then e :: x :: r else x :: insertViol e r

/-- Puts a number into a rising list that may hold it. -/
def insertRising : List Nat → Nat → List Nat
  | [], n => [n]
  | x :: r, n => if n < x then n :: x :: r else if n = x then x :: r else x :: insertRising r n

/-- Logs a violation at a die's log: 0, 1, or 2 for the hub. Violations of one cycle take their entries in order; with no
entry left the last of them is not stored. -/
def logViol (s : State) (die : Nat) (v : Viol) : State :=
  let l := lookD s.vlogs die VLog.reset
  let w0 := place (v.asid % 4096) 52 ||| BitVec.ofNat 64 (v.addr % 2 ^ 52)
  let w1 := place v.cause 56 ||| place v.reqid 48 ||| place v.kind 45 ||| place v.akind 43 ||| place v.acc 40 |||
    place (s.cycle % 2 ^ 31) 1 ||| 1
  let now := (if l.now.1 = s.cycle then l.now.2 else []).filter fun i => (lookD l.entries i (0, 0)).2.getLsbD 0
  let place (is : List Nat) : VLog :=
    { l with now := (s.cycle, is)
             entries := (is.zip (insertViol (w0, w1) (now.map fun i => lookD l.entries i (0, 0)))).foldl
               (fun m p => put m p.1 p.2) l.entries }
  let l' : VLog := match freeEntry l with
    | some i => place (insertRising now i)
    | none => { place now with lost := if l.lost < 0xFFFFFFFF then l.lost + 1 else l.lost }
  { s with vlogs := put s.vlogs die l' }

/-! ### Causes (R38) -/

def Cause.code : Cause → Nat
  | .none => 0 | .illop => 1 | .priv => 2 | .align => 3 | .pageflt => 4 | .perm => 5 | .bufown => 6 | .poison => 7
  | .fpx => 8 | .jigfail => 9 | .ovfq => 10 | .nmerr => 11 | .xlate => 12 | .qfulltmo => 13 | .phaseconf => 14
  | .watchdog => 15 | .brkpt => 16 | .clampin => 17 | .savearea => 18

/-! ### Trace (R423–R425) -/

/-- The lowest enabled ring of a die bound to an ASID. -/
def ringFor (s : State) (die asid : Nat) : Option Nat :=
  (List.range 64).find? fun i =>
    let r := lookD s.rings (die * 64 + i) Ring.reset
    r.trctl.getLsbD 0 && field r.trctl 52 12 == asid

/-- Counts a record dropped. -/
def ringLost (s : State) (j : Nat) (n : Nat) : State :=
  let r := lookD s.rings j Ring.reset
  { s with rings := put s.rings j { r with lost := min 0xFFFFFFFF (r.lost + n) } }

/-- Writes a record into a ring. -/
def ringPut (s : State) (j : Nat) (t : TraceRec) : State :=
  let r := lookD s.rings j Ring.reset
  let next := (r.head + 1) % 2 ^ r.size
  if next = r.tail % 2 ^ r.size then ringLost s j 1
  else
    let a := field r.trbase 12 40 * 4096 + r.head * 32
    { s with
      hbm := writeBytes s.hbm a (natLE 8 t.w0.toNat ++ natLE 8 t.w1.toNat ++ natLE 8 t.w2.toNat ++ natLE 8 t.w3.toNat)
      rings := put s.rings j { r with head := next } }

/-- The records in a core's trace buffer go to the die's trace unit. -/
def drainTrace (s : State) (c : Nat) : State :=
  let x := coreOf s c
  if x.trbuf = [] then s
  else
    x.trbuf.foldl (fun t r =>
      match ringFor t (coreDie c) (field r.w0 48 12) with
      | some i => ringPut t (coreDie c * 64 + i) r
      | none => t) (setCore s c { x with trbuf := [] })

/-- Word 1 of a record: TICK and CYCLE. -/
def traceTime (s : State) : Word := place (tickNow s).toNat 32 ||| BitVec.ofNat 64 (s.cycle % 2 ^ 32)

/-- The value hash of a token (R424). -/
def hashToken (t : Token) : Word :=
  (t.lanes.foldl (fun h x => h.rotateLeft 5 ^^^ x.setWidth 64) (0 : Word)) ^^^ place t.lanes.length 56

/-- Appends a record of a context to its core's trace buffer. -/
def traceRaw (s : State) (c k : Nat) (ev : Nat) (w0 hash aux : Word) : State :=
  let a := asidOf (ctxOf s c k)
  let w := place ev 60 ||| place a 48 ||| place k 46 ||| w0
  let r : TraceRec := { w0 := w, w1 := traceTime s, w2 := hash, w3 := aux }
  if (coreOf s c).trbuf.length < 64 then modCore s c fun x => { x with trbuf := x.trbuf ++ [r] }
  else match ringFor s (coreDie c) a with
    | some i => ringLost s (coreDie c * 64 + i) 1
    | none => s

/-- Records an event of a class that the context's trace enables. -/
def trace (s : State) (c k : Nat) (ev : Nat) (w0 hash aux : Word) : State :=
  if (ctxOf s c k).trace.getLsbD ev then traceRaw s c k ev w0 hash aux else s

/-- Word 0's fields of a token bound for a destination. -/
def traceTok (c : Nat) (t : Token) (d : Dest) : Word :=
  place t.colour.toNat 38 ||| place c 30 ||| place d.elem 24 ||| place d.slot 19 ||| place d.opnd 17 |||
    place (if t.last then 1 else 0) 16 ||| t.iter.setWidth 64

/-! ### Clamp requests (R408) -/

/-- The record a request carries (R414). -/
def causeRec (s : State) (c k : Nat) (t : TrapInfo) : CauseRec :=
  { unit := t.unit, cause := t.cause, dev := s.exid.toNat, core := c, ctx := k, siteA := t.elem, siteB := t.slot,
    iter := t.iter, colour := t.colour, tick := tickNow s }

/-- Sends a request for the clamp wave of a job to the arbiter. -/
def requestClamp (s : State) (asid : Nat) (r : CauseRec) : State :=
  modJob s asid fun j => { j with raised := j.raised ++ [r] }

/-! ### Traps (R395–R398, R453) -/

/-- A trap of a unit that is no firing. -/
def plainTrap (cause : Cause) (unit : Nat) : TrapInfo :=
  { cause := cause, unit := unit, elem := 0, slot := 0, xb := 0, colour := 0, iter := 0 }

/-- TRAPREC (R398). -/
def trapRec (t : TrapInfo) : Word :=
  place t.cause.code 56 ||| place t.unit 53 ||| place (if t.unit = 1 then t.elem else 0) 47 |||
    place (if t.unit = 1 then t.slot else 0) 42 ||| place t.xb.toNat 36 ||| place t.colour.toNat 16 |||
    t.iter.setWidth 64

/-- POISADDR and the latch a POISON trap empties (R453). -/
def latchOut (x : Ctx) (t : TrapInfo) : Ctx :=
  if t.cause ≠ .poison then x
  else if t.unit = 0 then
    { x with seqLatch := none, r := { x.r with poisaddr := match x.seqLatch with | some v => v ||| place 1 63 | none => 0 } }
  else
    { x with flowLatch := none,
             r := { x.r with poisaddr := match x.flowLatch with | some v => v ||| place 1 63 | none => 0 } }

/-- A context takes a trap: TRAPREC is written unless an older trap of the context already stands, the context stops
at the trap point, and the clamp wave of its job is requested. -/
def takeTrap (s : State) (c k : Nat) (t : TrapInfo) (older : Bool) : State :=
  let x := ctxOf s c k
  let y := latchOut x t
  let z : Ctx :=
    if x.trap.isSome && !older then { y with trap := x.trap }
    else { y with trap := some t, r := { y.r with traprec := trapRec t } }
  let s1 := setCtx s c k z
  let s2 := trace s1 c k 7 (place t.colour.toNat 38 ||| t.iter.setWidth 64) 0 (BitVec.ofNat 64 t.cause.code)
  requestClamp s2 (asidOf x) (causeRec s c k t)

/-- HCAUSE (R243). -/
def hcauseOf (cause : Cause) (code : Option (BitVec 5)) : Word :=
  match code with
  | some n => place 1 63 ||| place n.toNat 8
  | none => BitVec.ofNat 64 cause.code

/-- A service core enters its handler (R249): HPC and HCAUSE are set, the handler's own loop stack starts empty. -/
def enterHandler (s : State) (n : Nat) (cause : Cause) (code : Option (BitVec 5)) (back : Word) : State :=
  modSvc s n fun v =>
    { v with hpc := back, hcause := hcauseOf cause code, inHandler := true,
             hloops := if v.inHandler then v.hloops else v.seq.loops,
             seq := { v.seq with pc := v.hvec, loops := if v.inHandler then v.seq.loops else [], wait := .none } }

/-- The return from a handler (R249): PC := HPC, and the interrupted loop stack is in force again. -/
def leaveHandler (s : State) (n : Nat) : State :=
  modSvc s n fun v =>
    { v with inHandler := false, hloops := if v.inHandler then [] else v.hloops,
             seq := { v.seq with pc := v.hpc, wait := .none, loops := if v.inHandler then v.hloops else v.seq.loops } }

/-- The executing sequencer takes a trap at its instruction, which does not retire. -/
def trapCur (s : State) (cause : Cause) : State :=
  match s.cur with
  | .seq c k => takeTrap (modCur s fun q => { q with wait := .none }) c k (plainTrap cause 0) false
  | .svc n => enterHandler s n cause none (svcOf s n).seq.pc
  | _ => s

/-! ### Releasing a context's handles (R388, R400, R404) -/

/-- Whether a descriptor is one a context's own unit holds or offers. -/
def DescState.own : DescState → Bool
  | .held h => h ≤ 4
  | .draining h _ => h ≤ 4
  | .moving h _ => h ≤ 4
  | .offered h _ => h ≤ 4
  | .free => false

/-- A descriptor becomes FREE: GEN advances, and its granules wait to be cleared (R311). -/
def freeDesc (x : Core) (i : Nat) : Core :=
  let d := lookD x.descs i Desc.reset
  { x with
    descs := put x.descs i { d with st := .free, gen := d.gen + 1, size := 0, base := 0, key := 0, asid := 0 }
    clearing := put x.clearing (i / 64) (lookD x.clearing (i / 64) [] ++ [(d.base, d.size)]) }

/-- Whether a core holds a resident context with a key. -/
def residentKey (x : Core) (key : Half) : Bool :=
  x.ctxs.any fun p => p.2.r.key == key && p.2.r.state != .free && p.2.r.state != .lost

/-- Another core's descriptor that an ending context holds or is offered goes back (R388). -/
def returnDesc (x : Core) (i : Nat) : Core :=
  let d := lookD x.descs i Desc.reset
  if residentKey x d.key then { x with descs := put x.descs i { d with st := .held 0 } } else freeDesc x i

/-- Whether a descriptor's holder or offer names a bay position. -/
def DescState.names (t : DescState) (p : Nat) : Bool :=
  match t with
  | .held h => h == 8 + p
  | .draining h u => h == 8 + p || u == 8 + p
  | .moving h u => h == 8 + p || u == 8 + p
  | .offered h u => h == 8 + p || u == 8 + p
  | .free => false

/-- Releases the descriptors of an ending context. -/
def releaseHandles (s : State) (c k : Nat) : State :=
  let ctx := ctxOf s c k
  let key := ctx.r.key
  let own := modCore s c fun x =>
    (List.range 192).foldl (fun y i =>
      let d := lookD y.descs i Desc.reset
      if d.st ≠ .free ∧ d.key = key ∧ d.st.own then freeDesc y i else y) x
  (List.range 7).foldl (fun t p =>
    let c' := bayCore (coreBay c) p
    if c' = c then t
    else modCore t c' fun x =>
      (List.range 192).foldl (fun y i =>
        let d := lookD y.descs i Desc.reset
        if d.st.names (bayPos c) && d.asid.toNat == asidOf ctx then returnDesc y i else y) x) own

/-! ### The machine check (R404) -/

/-- Who presents requests at a core's port, by number: a sequencer; a firing of an element's slot; an instance's commit; a
copy; a stream's port; a hard port's copy commands. -/
def atSeq (k : Nat) : Nat := k
def atFiring (k at_ : Nat) : Nat := 8192 + k * 2048 + at_
def atCommit (k : Nat) : Nat := 4 + k
def atCopy (k id : Nat) : Nat := 2048 + k * 256 + id
def atPort (k p : Nat) : Nat := 64 + k * 32 + p
/-- The context slot of such a number. -/
def portSlot (q : Nat) : Nat :=
  if q < 8 then q % 4 else if q < 2048 then (q - 64) / 32 else if q < 8192 then (q - 2048) / 256 else (q - 8192) / 2048

/-- A member of a task has ended, or is lost. -/
def taskEnded (s : State) (t m : Nat) (lost : Bool) : State :=
  modTask s t fun x => { x with ended := x.ended ++ [m], lost := x.lost || lost }

/-- Removes what a context has under way in its core's units and in the hbmStacks. What it has sent and nothing has accepted
yet goes too, but a read that others were absorbed into, which answers those (R79); what is accepted is performed. -/
def abandon (s : State) (c k : Nat) : State :=
  let key := (ctxOf s c k).r.key
  let ofCtx (w : Who) : Bool := match w with | .unit a b _ => a == c && b == k | _ => false
  let s1 := modCore s c fun x =>
    { x with
      portQ := x.portQ.filter fun q => portSlot q.2 != k
      copies := x.copies.filter fun y => y.key != key
      ports := x.ports.map fun p => (p.1, p.2.filter fun y => y.key != key)
      results := x.results.filter fun p => p.way != k
      loads := x.loads.filter fun p => p.firing.way != k
      hold := x.hold.filter fun r => r.2.1.way != k
      door := x.door.filter fun p => p.1 != k
      mmBusy := match x.mmBusy with | some (a, b) => if a = k then none else some (a, b) | none => none
      smPair := if x.smPair = some key then none else x.smPair
      mq := if x.mq.owner = some key then { x.mq with queue := [], busy := false, owner := none } else x.mq
      elems := x.elems.map fun p => (p.1, { p.2 with
        store := p.2.store.filter fun m => m.way != k
        ready := p.2.ready.filter fun r => r.way != k
        issuing := match p.2.issuing with | some r => if r.way = k then none else some r | none => none
        ports := without p.2.ports (4 * k) (4 * k + 4)
        acc := without p.2.acc (32 * k) (32 * k + 32) })
      skid := x.skid.filter fun p => p.1 / 40 % 4 != k
      hport := x.hport.filter fun p => p.1 % 4 != k
      hpOut := x.hpOut.filter fun p => p.1 % 4 != k }
  { s1 with
    hbmStacks := s1.hbmStacks.map fun p => (p.1, { p.2 with
      slots := p.2.slots.map fun q =>
        (q.1, if q.2.core = c ∧ q.2.key = key then { q.2 with abort := true } else q.2)
      queue := p.2.queue.map fun q => if q.core = c ∧ q.key = key then { q with abort := true } else q
      transit := p.2.transit.map fun q => if q.core = c ∧ q.key = key then { q with abort := true } else q })
    reqs := (s1.reqs.filter fun r => !(ofCtx r.who) ||
        (r.answer.isNone && (r.accepted.isSome || s1.reqs.any fun q => q.within == some r.id && !ofCtx q.who))).map fun r =>
      if ofCtx r.who then { r with who := .hub } else r
    bufreqs := s1.bufreqs.filter fun r => !(r.core == c && r.slot == k) }

/-- A slot after its context has gone: reset values, but the registers that report how it ended. -/
def endedSlot (x : Ctx) (st : CtxState) : Ctx :=
  { Ctx.reset with r := { Ctx.reset.r with state := st, traprec := x.r.traprec, key := x.r.key, imgkb := x.r.imgkb } }

/-- The SAVEAREA machine check: `case` 0 a save write, 1 a fault with EN = 0. -/
def loseContext (s : State) (c k : Nat) (unit case : Nat) : State :=
  let x := ctxOf s c k
  let s1 := releaseHandles (abandon s c k) c k
  let s2 := modCtx s1 c k fun y => endedSlot { y with r := { y.r with traprec := trapRec (plainTrap .savearea unit) } } .lost
  let s3 := taskEnded s2 x.task x.member true
  emit (emit s3 (.service "SAVEAREA" (c * 4 + k) x.r.key.toNat)) (.service "SAVEAREA case" (asidOf x) case)

/-! ### Fault records (R35–R42) -/

/-- Records a context has not yet released. -/
def unreleased (r : CtxRegs) : Nat := (r.head - r.tail).toNat
/-- Whether the n-th record, counted from 1, is released. -/
def isReleased (r : CtxRegs) (n : Nat) : Bool := 1 ≤ n && n + unreleased r ≤ r.written

/-- The bytes of a record (R37). -/
def faultBytes (x : Ctx) (c k : Nat) (f : FaultInfo) : List Byte :=
  let e := f.unit = 1
  let w0 := place f.cause.code 56 ||| place f.kind 52 ||| place f.space 49 |||
    place (if f.straddle then 1 else 0) 48 ||| BitVec.ofNat 64 (f.addr % 2 ^ 48)
  let w1 := place (asidOf x) 52 ||| place c 44 ||| place (if e then f.elem else 0) 38 |||
    place (if e then f.slot else 0) 33 ||| place (if e then f.lsid else 0) 28 ||| place f.unit 25 |||
    place f.colour.toNat 16 ||| f.iter.setWidth 64
  let w3 := place (f.code % 2 ^ 48) 16 ||| place k 14 ||| place f.level 11 ||| BitVec.ofNat 64 (x.r.written % 256)
  natLE 8 w0.toNat ++ natLE 8 w1.toNat ++ natLE 8 f.entry.toNat ++ natLE 8 w3.toNat

/-- The notification a new record makes (R39). -/
def notifySink (s : State) (x : Ctx) (c k : Nat) : State :=
  match field x.r.fqctl 1 2 with
  | 1 => emit s (.msix (x.r.tenant.toNat) 1)
  | 2 => emit s (.service "fault record" c k)
  | _ => s

/-- Writes a fault's record. The number of the record the unit then waits for, counted from 1, or 0 when the ring is
full and the record waits for room (R40); nothing when the context is lost (R39, R404). -/
def takeFault (s : State) (c k : Nat) (f : FaultInfo) : State × Option Nat :=
  let x := ctxOf s c k
  if x.r.fqctl.getLsbD 0 = false then (loseContext s c k f.unit 1, none)
  else
    let s1 := trace s c k 7 (place f.colour.toNat 38 ||| f.iter.setWidth 64) 0 (BitVec.ofNat 64 f.cause.code)
    if unreleased x.r = 63 ∨ x.pending ≠ [] then
      (modCtx s1 c k fun y => { y with pending := y.pending ++ [f] }, some 0)
    else
      let a := field x.r.fqctl 11 41 * 2048 + x.r.head.toNat * 32
      let s2 := { s1 with hbm := writeBytes s1.hbm a (faultBytes x c k f) }
      let s3 := modRegs s2 c k fun r => { r with head := r.head + 1, written := r.written + 1 }
      (notifySink s3 x c k, some (x.r.written + 1))

/-- A fault of no element, at a code address. -/
def seqFault (cause : Cause) (kind space addr code : Nat) (entry : Word) (level : Nat) : FaultInfo :=
  { cause := cause, kind := kind, space := space, straddle := false, addr := addr, elem := 0, slot := 0, lsid := 0,
    unit := 0, colour := 0, iter := 0, entry := entry, code := code, level := level }

/-- The executing sequencer faults: a context's stops before the instruction until the record is released; a service
core enters its handler. -/
def faultCur (s : State) (f : FaultInfo) : State :=
  match s.cur with
  | .seq c k =>
    let (s1, n) := takeFault (modCur s fun q => { q with wait := .none }) c k
      { f with code := (curSeq s).pc.toNat, unit := 0 }
    match n with
    | some m => modCtx s1 c k fun x => { x with seqStop := some m }
    | none => s1
  | .svc n => enterHandler s n f.cause none (svcOf s n).seq.pc
  | _ => s

/-- Runs a meaning when the guard passes; otherwise the instruction retires with no effect (R217). -/
def guarded (g : Guard) (s : State) (body : State → State) : State :=
  if guardHolds (curSeq s) g then body s else retire s 1

/-- A meaning that a service core may not execute: ILLOP there (R466). -/
def ctxOnly (s : State) (body : Nat → Nat → State → State) : State :=
  match s.cur with
  | .seq c k => body c k s
  | _ => trapCur s .illop

end Sys2Proof.Machine
end

