-- ==== Sys2Proof/Machine/Xlate.lean ====
section
/-! DEFINITION. Translation (R5–R19, R29–R34): the walk, the checks on a leaf, accessed and dirty, the TLBs, and what
a translated access finds. -/
namespace Sys2Proof.Machine

/-- What a page must allow (R14). -/
structure Need where
  write : Bool
  fetch : Bool
  pin   : Bool
  nm    : Bool
  host  : Bool             -- whether a HOST = 1 page will do
  deriving DecidableEq, Repr

def needLoad : Need := { write := false, fetch := false, pin := false, nm := false, host := true }
def needStore : Need := { needLoad with write := true }
def needFetch : Need := { needLoad with fetch := true }
def needSc (w : Bool) : Need := { needLoad with write := w, host := false }

/-- A translation: the physical address and the leaf. -/
structure Phys where
  pa   : Nat
  leaf : Word
  deriving DecidableEq, Repr

/-- Whether the address is host memory. -/
def Phys.host (p : Phys) : Bool := p.leaf.getLsbD 9
/-- ORD of the leaf: 0 RC, 1 SO, 2 UO. -/
def Phys.ord (p : Phys) : Nat := field p.leaf 4 2

/-- What an access faults with; `unbacked` when its translated address lies in no memory (R10). A cause of none is no
fault: a range lock holds an entry that the walk reads (R97), and the access waits. -/
structure XFault where
  cause : Cause
  entry : Word
  level : Nat
  unbacked : Bool
  deriving DecidableEq, Repr

/-- A fault that no walk made. -/
def bareFault (cause : Cause) : XFault := { cause := cause, entry := 0, level := 0, unbacked := false }

/-- A leaf the walk reached: where its entry stands, the entry, the level, and the pages of 4 KiB it covers as a power
of two. -/
structure Leaf where
  at_   : Nat
  entry : Word
  level : Nat
  span  : Nat
  base  : Nat               -- physical address of the first byte covered
  deriving DecidableEq, Repr

/-- Whether a physical sector is marked poisoned. -/
def sectorPoisoned (s : State) (pa : Nat) : Bool := s.poison.contains (pa / 64)

/-- Index bits of a level. -/
def levelIndex (va level : Nat) : Nat := va / 2 ^ (12 + 9 * (4 - level)) % 512
/-- Pages a leaf of a level covers, as a power of two. -/
def levelSpan (level : Nat) : Nat := 9 * (4 - level)

/-- The faults of R13 that a leaf entry makes. -/
def leafBad (e : Word) (level : Nat) : Bool :=
  level == 1 || (level == 2 && field e 12 18 != 0) || (level == 3 && field e 12 9 != 0) || field e 4 2 == 3 ||
    (e.getLsbD 9 && e.getLsbD 8)
/-- The faults of R13 that a table entry makes. -/
def tableBad (e : Word) (level : Nat) : Bool := level == 4 || e.getLsbD 52 || field e 2 10 != 0

/-- An entry of the page tables. -/
def readEntry (s : State) (pa : Nat) : Word := BitVec.ofNat 64 (readLE s.hbm pa 8)

/-- Whether an entry of the aligned group of 16 around a leaf is read with an uncorrectable error (R13, R15). -/
def runPoisoned (s : State) (at_ : Nat) : Bool := sectorPoisoned s (at_ / 128 * 128) || sectorPoisoned s (at_ / 128 * 128 + 64)

/-- Whether bytes lie in a line that a near-memory command has locked (R97). -/
def isLocked (s : State) (pa n : Nat) : Bool :=
  s.hbmStacks.any fun st => st.2.slots.any fun q => q.2.locked && q.2.ext.any fun e =>
    pa / 128 * 128 < e.1 + e.2 && e.1 < (pa + n + 127) / 128 * 128

/-- Whether the aligned group of 16 entries around a leaf forms a run (R15). -/
def isRun (s : State) (at_ : Nat) (level : Nat) : Bool :=
  let g := at_ / 128 * 128
  let e0 := readEntry s g
  let page := if level = 4 then 4096 else 2097152
  let key (e : Word) : Nat := field e 2 1 + 2 * field e 3 1 + 4 * field e 4 2 + 16 * field e 7 1 + 32 * field e 8 1 +
    64 * field e 9 1 + 128 * field e 52 1
  (level == 3 || level == 4) && (field e0 12 40 * 4096) % (16 * page) == 0 &&
    (List.range 16).all fun j =>
      let e := readEntry s (g + 8 * j)
      e.getLsbD 0 && e.getLsbD 1 && e.getLsbD 6 && key e == key e0 &&
        field e 12 40 * 4096 == field e0 12 40 * 4096 + j * page

/-- The walk from a table (R11, R13). An entry in a locked line is read once the lock is gone (R97). A run's group is read
with the leaf, so that an uncorrectable error in any of it ends the walk. -/
def walkFrom (s : State) (va : Nat) : Nat → Nat → Nat → Except XFault Leaf
  | 0, _, _ => .error { bareFault .xlate with level := 4 }
  | fuel + 1, level, table =>
    let at_ := table + levelIndex va level * 8
    let e := readEntry s at_
    let ends (cause : Cause) : Except XFault Leaf := .error { cause := cause, entry := e, level := level, unbacked := false }
    if level == 1 && !isHbm at_ then .error { bareFault .xlate with level := 1 }
    else if isLocked s at_ 8 then .error (bareFault .none)
    else if sectorPoisoned s at_ then ends .xlate
    else if !e.getLsbD 0 then ends .pageflt
    else if e.getLsbD 1 then
      if leafBad e level || (e.getLsbD 6 && 3 ≤ level && runPoisoned s at_) then ends .xlate
      else if e.getLsbD 6 && isRun s at_ level then
        .ok { at_ := at_, entry := e, level := level, span := levelSpan level + 4,
              base := field (readEntry s (at_ / 128 * 128)) 12 40 * 4096 }
      else .ok { at_ := at_, entry := e, level := level, span := levelSpan level, base := field e 12 40 * 4096 }
    else if tableBad e level || !isHbm (field e 12 40 * 4096) then ends .xlate
    else walkFrom s va fuel (level + 1) (field e 12 40 * 4096)

/-- The walk of an address under an XLROOT. -/
def walk (s : State) (root : Word) (va : Nat) : Except XFault Leaf := walkFrom s va 4 1 (field root 12 40 * 4096)

/-- The check of a leaf (R14, R10). It judges the address of the access: a byte of a large page that starts in device space
and reaches past it is unbacked, not the device's (log 40). -/
def leafCheck (n : Need) (leaf : Word) (pa : Nat) : Option Cause :=
  if (n.write && !leaf.getLsbD 2) || (n.fetch && !leaf.getLsbD 3) || (n.nm && !(leaf.getLsbD 7 && leaf.getLsbD 8)) ||
      (n.pin && !leaf.getLsbD 7) || (!n.host && leaf.getLsbD 9) then some .perm
  else if leaf.getLsbD 9 then none
  else if isDevice pa then some .perm
  else if !isHbm pa then some .xlate
  else none

/-! ### TLBs (R29, R30) -/

/-- Whether an entry translates a page. -/
def TlbEntry.hits (e : TlbEntry) (asid page : Nat) : Bool :=
  (e.leaf.getLsbD 52 || e.asid.toNat == asid) && page / 2 ^ e.span == e.vpn / 2 ^ e.span
/-- The entry of a run that an access to a page indexes (R15); 0 for a single page. -/
def TlbEntry.index (e : TlbEntry) (page : Nat) : Nat :=
  if e.span % 9 = 4 then page / 2 ^ (e.span - 4) % 16 else 0
/-- Whether an entry may serve an access: not through an entry with A = 0, nor a write through one with D = 0
(R15, R16). -/
def TlbEntry.serves (e : TlbEntry) (asid page : Nat) (write : Bool) : Bool :=
  e.hits asid page && e.aBits.getLsbD (e.index page) && (!write || e.dBits.getLsbD (e.index page))

/-- The physical address an entry gives. -/
def TlbEntry.pa (e : TlbEntry) (va : Nat) : Nat := field e.leaf 12 40 * 4096 + va % (4096 * 2 ^ e.span)

/-- The leaf, 2^d ways below, that a tree points to from a node; a set bit points to the upper half (log 41). -/
def treeVictim {w : Nat} (b : BitVec w) : Nat → Nat → Nat
  | 0, n => n
  | d + 1, n => treeVictim b d (2 * n + if b.getLsbD n then 1 else 0)
/-- The tree after a use of a leaf: the bits on its path point away from it. -/
def treeUse {w : Nat} (b : BitVec w) : Nat → Nat → BitVec w
  | 0, _ => b
  | d + 1, n =>
    let m : BitVec w := 1#w <<< (n / 2)
    treeUse (if n % 2 = 0 then b ||| m else b &&& ~~~m) d (n / 2)

/-- Uses a way of a set of 2^d. -/
def Tlb.use (t : Tlb) (d w : Nat) : Tlb := { t with tree := treeUse t.tree d (2 ^ d + w) }
/-- Puts an entry into a set of 2^d ways: over its own older copy, in a free way, or in the way the tree points to. -/
def Tlb.fill (t : Tlb) (d : Nat) (e : TlbEntry) : Tlb :=
  let same := t.ways.find? fun p => p.2.vpn == e.vpn && p.2.span == e.span && p.2.asid == e.asid
  let w := match same with
    | some p => p.1
    | none => match (List.range (2 ^ d)).find? fun i => (look t.ways i).isNone with
      | some i => i
      | none => treeVictim t.tree d 1 - 2 ^ d
  { t with ways := put t.ways w e }.use d w

/-- The set of a bay TLB for a page of 2^span small pages (log 12). -/
def baySet (b page span : Nat) : Nat := b * 512 + page / 2 ^ span % 512
/-- The five page sizes, as powers of two of 4 KiB (R11). -/
def pageSpans : List Nat := [0, 4, 9, 13, 18]

/-- Fills the micro-TLB of a core. -/
def utlbFill (s : State) (c : Nat) (e : TlbEntry) : State := modCore s c fun x => { x with utlb := x.utlb.fill 6 e }
/-- Fills the TLB of a bay. -/
def btlbFill (s : State) (bay : Nat) (e : TlbEntry) : State :=
  let i := baySet bay e.vpn e.span
  { s with btlb := put s.btlb i ((lookD s.btlb i Tlb.reset).fill 3 e) }
/-- Fills the bay TLB and the micro-TLB of a core (R30). -/
def tlbFill (s : State) (c : Nat) (e : TlbEntry) : State := utlbFill (btlbFill s (coreBay c) e) c e

/-- The way of a core's micro-TLB that serves an access. -/
def utlbFind (s : State) (c asid page : Nat) (write : Bool) : Option (Nat × TlbEntry) :=
  (coreOf s c).utlb.ways.find? fun p => p.2.serves asid page write
/-- The set and way of a bay's TLB that serves an access. -/
def btlbFind (s : State) (bay asid page : Nat) (write : Bool) : Option (Nat × Nat × TlbEntry) :=
  pageSpans.findSome? fun n =>
    let i := baySet bay page n
    ((lookD s.btlb i Tlb.reset).ways.find? fun p => p.2.span == n && p.2.serves asid page write).map fun p => (i, p)

/-- Looks an access up in the micro-TLB, then in the bay TLB, whose entry fills the micro-TLB (R30). -/
def tlbFind (s : State) (c asid page : Nat) (write : Bool) : Option (State × TlbEntry) :=
  match utlbFind s c asid page write with
  | some (w, e) => some (modCore s c fun x => { x with utlb := x.utlb.use 6 w }, e)
  | none =>
    match btlbFind s (coreBay c) asid page write with
    | some (i, w, e) => some (utlbFill { s with btlb := put s.btlb i ((lookD s.btlb i Tlb.reset).use 3 w) } c e, e)
    | none => none

/-- Sets A, and D too when `d` holds (R16); the entry as it then stands. -/
def setAD (s : State) (l : Leaf) (d : Bool) : State × Word :=
  let e := l.entry ||| 0x400 ||| (if d then 0x800 else 0)
  (if e = l.entry then s else { s with hbm := writeBytes s.hbm l.at_ (natLE 8 e.toNat) }, e)

/-- A bit of each of the 16 entries of a run (R15). -/
def runBits (s : State) (at_ n : Nat) : BitVec 16 :=
  (List.range 16).foldl (fun m j =>
    if (readEntry s (at_ / 128 * 128 + 8 * j)).getLsbD n then m ||| BitVec.ofNat 16 (2 ^ j) else m) 0

/-- The TLB entry of a walk, with A and D as the tables then hold them. -/
def leafEntry (s : State) (asid va : Nat) (l : Leaf) (e : Word) : TlbEntry :=
  let run := l.span % 9 == 4
  let one (n : Nat) : BitVec 16 := if e.getLsbD n then 1 else 0
  { asid := BitVec.ofNat 12 asid, vpn := va / 4096 / 2 ^ l.span * 2 ^ l.span, span := l.span,
    leaf := (e &&& 0xFFF0000000000FFF) ||| place (l.base / 4096) 12
    aBits := if run then runBits s l.at_ 10 else one 10
    dBits := if run then runBits s l.at_ 11 else one 11 }

/-- What a leaf's check finds, as a fault that names the entry and level of the walk, if one ran. -/
def leafFault (n : Need) (leaf : Word) (pa : Nat) (entry : Word) (level : Nat) : Option XFault :=
  (leafCheck n leaf pa).map fun cause => { cause := cause, entry := entry, level := level, unbacked := cause == .xlate }

/-- Translates an address for a unit of a core: TLBs first, then a walk that sets A, and D for a write that the leaf
admits, and fills them with what the leaf admits (R16, R29; log 40). -/
def translate (s : State) (c : Nat) (root : Word) (va : Word) (n : Need) : State × Except XFault Phys :=
  let a := va.toNat
  let asid := field root 52 12
  if root.getLsbD 0 = false ∨ 2 ^ 48 ≤ a then (s, .error (bareFault .xlate))
  else
    match tlbFind s c asid (a / 4096) n.write with
    | some (t, e) =>
      match leafFault n e.leaf (e.pa a) 0 0 with
      | some f => (t, .error f)
      | none => (t, .ok { pa := e.pa a, leaf := e.leaf })
    | none =>
      match walk s root a with
      | .error f => (s, .error f)
      | .ok l =>
        match leafFault n l.entry (l.base + a % (4096 * 2 ^ l.span)) l.entry l.level with
        | some f => ((setAD s l false).1, .error f)
        | none =>
          let (t, e) := setAD s l n.write
          let w := leafEntry t asid a l e
          (tlbFill t c w, .ok { pa := w.pa a, leaf := w.leaf })

/-- Translates an address of a slice's engine: by the TLB of the bay, then by a walk that fills it (R96). Answers also with
the span of the page. -/
def bayTranslate (s : State) (bay : Nat) (root : Word) (a : Nat) (n : Need) : State × Except XFault (Phys × Nat) :=
  let asid := field root 52 12
  if root.getLsbD 0 = false ∨ 2 ^ 48 ≤ a then (s, .error (bareFault .xlate))
  else
    match btlbFind s bay asid (a / 4096) n.write with
    | some (i, w, e) =>
      let t := { s with btlb := put s.btlb i ((lookD s.btlb i Tlb.reset).use 3 w) }
      match leafFault n e.leaf (e.pa a) 0 0 with
      | some f => (t, .error f)
      | none => (t, .ok ({ pa := e.pa a, leaf := e.leaf }, e.span))
    | none =>
      match walk s root a with
      | .error f => (s, .error f)
      | .ok l =>
        match leafFault n l.entry (l.base + a % (4096 * 2 ^ l.span)) l.entry l.level with
        | some f => ((setAD s l false).1, .error f)
        | none =>
          let (t, e) := setAD s l n.write
          let w := leafEntry t asid a l e
          (btlbFill t bay w, .ok ({ pa := w.pa a, leaf := w.leaf }, l.span))

/-- A set without the entries a test picks. -/
def Tlb.drop (t : Tlb) (p : TlbEntry → Bool) : Tlb := { t with ways := t.ways.filter fun e => !p e.2 }

/-- Removes TLB entries that a test picks, on the cores and bays of a scope instance (R255). -/
def tlbDrop (s : State) (cores : List Nat) (bays : List Nat) (p : TlbEntry → Bool) : State :=
  { s with
    cores := s.cores.map fun x => (x.1, if cores.contains x.1 then { x.2 with utlb := x.2.utlb.drop p } else x.2)
    btlb := s.btlb.map fun x => (x.1, if bays.contains (x.1 / 512) then x.2.drop p else x.2) }

/-! ### Untranslated addresses of a service core (R18, R20) -/

/-- What a physical address of a service core or of the host names. -/
inductive Region where | hbm | device | unbacked
  deriving DecidableEq, Repr

def regionOf (pa : Nat) : Region :=
  if isHbm pa then .hbm else if isDevice pa then .device else .unbacked

end Sys2Proof.Machine
end

