-- ==== Sys2Proof/Machine/Mem.lean ====
section
/-! DEFINITION. Performing accesses (R65–R67, R82–R87, R108–R110, R319, R321): bytes and poison at the home slice,
host memory, atomics, accumulate objects, requests in flight (log 3), range locks (R97), metering (R104, R105),
signatures (R393) and the undo log (R430). -/
namespace Sys2Proof.Machine

/-! ### Sectors and lines -/

/-- The units of `u` bytes that n bytes from an address touch. -/
def unitsOf (u a n : Nat) : List Nat := if n = 0 then [] else rangeFrom (a / u) ((a + n - 1) / u - a / u + 1)

/-- The bytes of a unit that n bytes from an address cover, as a mask. -/
def coverMask (u a n q : Nat) : Nat :=
  let lo := max a (q * u)
  let hi := min (a + n) (q * u + u)
  if hi ≤ lo then 0 else (2 ^ (hi - lo) - 1) * 2 ^ (lo - q * u)

/-- A sector becomes poisoned (R85). -/
def poisonSector (s : State) (q : Nat) : State :=
  { s with poison := insertRising s.poison q, partials := del s.partials q }

/-- What a write of clean bytes does to a poisoned sector: it stays poisoned until all 64 bytes are written (R85). -/
def coverSector (s : State) (a n q : Nat) : State :=
  if s.poison.contains q then
    let m := lookD s.partials q 0 ||| BitVec.ofNat 64 (coverMask 64 a n q)
    if m = BitVec.allOnes 64 then { s with poison := s.poison.filter (· != q), partials := del s.partials q }
    else { s with partials := put s.partials q m }
  else s

/-- The set of a line, among the sets of all slices: slice × 4096 + S (R65). -/
def lineSet (q : Nat) : Nat :=
  let pa := q * 128
  homeSlice pa * 4096 + ((pa / 2 ^ 10 % 2 ^ 11 * 2 + pa / 2 ^ 7 % 2) ^^^ (pa / 2 ^ 21 % 2 ^ 12))

/-- The line of a slice for an address, allocated if it is missing: in a free way of its set, or in the way the tree
points to, whose line is written back and leaves (R65, R82). -/
def holdLine (s : State) (q : Nat) : State × Line :=
  let set := lineSet q
  let use (t : State) (w : Nat) : State := { t with plru := put t.plru set (treeUse (lookD t.plru set 0) 4 (16 + w)) }
  match look s.lines q with
  | some l => (use s l.way, l)
  | none =>
    let mates := s.lines.filter fun p => lineSet p.1 == set
    match (List.range 16).find? fun w => !(mates.any fun p => p.2.way == w) with
    | some w => (use s w, { mask := 0, dirty := false, way := w })
    | none =>
      let w := treeVictim (lookD s.plru set 0) 4 1 - 16
      (use { s with lines := s.lines.filter fun p => !(lineSet p.1 == set && p.2.way == w) } w,
       { mask := 0, dirty := false, way := w })

/-- A slice holds the bytes a write or a read touched (R65): a write makes its bytes valid and fetches nothing; a read
fetches the line where a byte it covers is not valid. -/
def touchLines (s : State) (a n : Nat) (write : Bool) : State :=
  (unitsOf 128 a n).foldl (fun t q =>
    let (u, l) := holdLine t q
    let m := BitVec.ofNat 128 (coverMask 128 a n q)
    let v : BitVec 128 := if write then l.mask ||| m else if l.mask &&& m = m then l.mask else BitVec.allOnes 128
    { u with lines := put u.lines q { l with mask := v, dirty := l.dirty || write } }) s

/-- Writes bytes in the stack's array; `bad` writes the touched sectors poisoned. -/
def arrayWrite (s : State) (a : Nat) (bs : List Byte) (bad : Bool) : State :=
  (unitsOf 64 a bs.length).foldl (fun t q => if bad then poisonSector t q else coverSector t a bs.length q)
    { s with hbm := writeBytes s.hbm a bs }

/-- Writes bytes at the home slice, which holds them from then on. -/
def hbmWrite (s : State) (a : Nat) (bs : List Byte) (bad : Bool) : State := arrayWrite (touchLines s a bs.length true) a bs bad

/-- A byte as a read returns it: zero in a poisoned sector (R86). -/
def seenByte (s : State) (a : Nat) : Byte := if sectorPoisoned s a then 0 else readByte s.hbm a

/-- Reads bytes at the home slice. -/
def hbmRead (s : State) (a : Nat) : Nat → List Byte
  | 0 => []
  | n + 1 => seenByte s a :: hbmRead s (a + 1) n

/-- The index of the first poisoned byte a read covers. -/
def firstPoisoned (s : State) (a n : Nat) : Option Nat := (List.range n).find? fun i => sectorPoisoned s (a + i)

/-- Reads through a translation: the bytes, and the index of the first poisoned one. -/
def physRead (s : State) (p : Phys) (n : Nat) : List Byte × Option Nat :=
  if p.host then (readBytes s.hostMem p.pa n, none) else (hbmRead s p.pa n, firstPoisoned s p.pa n)

/-- What a read leaves in its slice. -/
def physFetch (s : State) (p : Phys) (n : Nat) : State := if p.host then s else touchLines s p.pa n false

/-! ### The undo log (R430) and signatures (R393) -/

/-- Logs the prior bytes of lines before a job's first write to them since its checkpoint. -/
def logUndo (s : State) (asid a n : Nat) : State :=
  let j := jobOf s asid
  if !j.ckValid || j.ckLapsed then s
  else
    let new := (unitsOf 128 a n).filter fun q => !(j.undo.any fun u => u.1 == q * 128)
    if new = [] then s
    else
      let used := j.ckUsed + 136 * new.length
      if 2 ^ (field j.cklog 0 5) * 1048576 < used then modJob s asid fun x => { x with ckLapsed := true }
      else
        let es := new.map fun q => (q * 128, readBytes s.hbm (q * 128) 128)
        modJob s asid fun x => { x with undo := es.reverse ++ x.undo, ckUsed := used }

/-- A job's checkpoint lapses at a write to a HOST = 1 page. -/
def lapse (s : State) (asid : Nat) : State :=
  if (jobOf s asid).ckValid then modJob s asid fun x => { x with ckLapsed := true } else s

/-- Writes through a translation for a job. -/
def physWrite (s : State) (asid : Nat) (p : Phys) (bs : List Byte) (bad : Bool) : State :=
  if p.host then lapse { s with hostMem := writeBytes s.hostMem p.pa bs } asid
  else hbmWrite (logUndo s asid p.pa bs.length) p.pa bs bad

/-- The two signature bits of a line. -/
def sigBits (va : Nat) : BitVec 2048 :=
  let l := va / 128
  (1#2048 <<< (l % 2048)) ||| (1#2048 <<< ((l / 2048 % 2048) ^^^ (l / 2 ^ 22 % 2048)))

/-- Sets a task's signature bits for an access (levels 1 and 2). -/
def signAccess (s : State) (c k va n : Nat) (write : Bool) : State :=
  let t := (ctxOf s c k).task
  modTask s t fun x =>
    if x.level = 0 then x
    else (unitsOf 128 va n).foldl (fun y q =>
      if write then { y with wsig := y.wsig ||| sigBits (q * 128) }
      else { y with rsig := y.rsig ||| sigBits (q * 128) }) x

/-! ### Atomics (R319) -/

/-- Codes of R221, FN[6:3]: 0 AADD, 1 AAND, 2 AOR, 3 AXOR, 4 AMIN, 5 AMAX, 6 AMINU, 7 AMAXU, 8 ASWP, 9 ACAS, 10 AFMIN,
11 AFMAX. The new value, none when nothing is written. -/
def atomicNew (op n : Nat) (old v cmp : Nat) : Option Nat :=
  let w := 8 * n
  let lt := decide (intVal w false old < intVal w false v)
  match op with
  | 0 => some ((old + v) % 2 ^ w)
  | 1 => some (old &&& v)
  | 2 => some (old ||| v)
  | 3 => some (old ^^^ v)
  | 4 => some (if lt then old else v)
  | 5 => some (if lt then v else old)
  | 6 => some (if old < v then old else v)
  | 7 => some (if old < v then v else old)
  | 8 => some v
  | 9 => if old = cmp then some v else none
  | 10 => some (fp32.write (minNum (fp32.read old) (fp32.read v)))
  | _ => some (fp32.write (maxNum (fp32.read old) (fp32.read v)))

/-- Whether an operation is one that PCIe carries (R14). -/
def hostAtomic (op : Nat) : Bool := op == 0 || op == 8 || op == 9

/-! ### Performing an operation -/

/-- The accumulate formats' number format. -/
def axFmt (f : Nat) : Fmt := if f = 0 then fp32 else if f = 1 then bf16 else fp16

/-- Bytes of an operation. -/
def ReqOp.bytes : ReqOp → Nat
  | .load n => n | .store bs _ => bs.length | .atomic _ n _ _ => n | .axadd _ _ _ => 64 | .axrd _ => 64 | .axclr => 64
/-- Whether an operation reads. -/
def ReqOp.reads : ReqOp → Bool | .store _ _ => false | .axadd _ _ _ => false | .axclr => false | _ => true
/-- Whether an operation writes. -/
def ReqOp.writes : ReqOp → Bool | .load _ => false | .axrd _ => false | _ => true
/-- ACCESS of the violation log (R43): 0 read, 1 write, 2 atomic, exact accumulate operations among them. -/
def ReqOp.acc : ReqOp → Nat | .load _ => 0 | .store _ _ => 1 | _ => 2

/-- What an operation does to memory, and what it answers: the value, its bits, and the index of the first poisoned byte,
with which nothing but a load is performed (R86). -/
def applyOp (s : State) (asid : Nat) (p : Phys) (op : ReqOp) : State × Word × Xb × Option Nat :=
  let (bs, b) := physRead s p op.bytes
  match op, b with
  | .store v bad, _ => (physWrite s asid p v bad, 0, 0, none)
  | .load _, _ => (s, BitVec.ofNat 64 (leNat bs), 0, b)
  | .axrd f, _ => let r := axRead (axFmt f) (axOfBytes bs); (s, BitVec.ofNat 64 r.1, r.2 ||| (axOfBytes bs).xb, b)
  | _, some i => (s, 0, 0, some i)
  | .atomic o n v cmp, none =>
    let old := leNat bs
    (match atomicNew o n old (v.toNat % 2 ^ (8 * n)) (cmp.toNat % 2 ^ (8 * n)) with
     | some x => physWrite s asid p (natLE n x) false | none => s, BitVec.ofNat 64 old, 0, none)
  | .axadd f v xb, none => (physWrite s asid p (axBytes (axPut (axOfBytes bs) ((axFmt f).read v.toNat) xb)) false, 0, 0, none)
  | .axclr, none => (physWrite s asid p (natLE 64 0) false, 0, 0, none)

/-- Performs an operation at its point of performance. -/
def performOp (s : State) (asid : Nat) (p : Phys) (op : ReqOp) : State × Word × Xb × Option Nat :=
  applyOp (match op with | .store _ _ => s | _ => physFetch s p op.bytes) asid p op

/-! ### Locks, metering and requests in flight -/

/-- Whether the port's round-robin comes to a tenant before another: counted on from the tenant served last. -/
def turnBefore (last t u : Nat) : Bool := (t + 33 - last) % 17 < (u + 33 - last) % 17

/-- Presents a request of a context to its core's port: whether it is admitted (R104, R105). One that is not waits there,
behind its tenant's earlier ones; the tenants' first are admitted round-robin. -/
def admitted (s : State) (c k charge by_ : Nat) : State × Bool :=
  let x := coreOf s c
  if !x.bwEn then (s, true)
  else
    let t := (ctxIn x k).r.tenant.toNat
    let y := { x with active := insertRising x.active t }
    let head (u : Nat) : Option (Nat × Nat) := y.portQ.find? fun p => p.1 == u
    let holds (u : Nat) : Bool := 0 < lookD y.bucket u 0
    let next := match head t with | none => true | some h => h == (t, by_) &&
      !((List.range 17).any fun u => u != t && (head u).isSome && holds u && turnBefore y.portTurn u t)
    if next && holds t then
      (setCore s c { y with bucket := put y.bucket t (lookD y.bucket t 0 - charge)
                            portTurn := if (head t).isSome then t else y.portTurn
                            portQ := y.portQ.filter fun p => p != (t, by_) }, true)
    else (setCore s c { y with portQ := if y.portQ.contains (t, by_) then y.portQ else y.portQ ++ [(t, by_)] }, false)

/-- Takes requests that are no more out of the port's queue. -/
def leavePort (x : Core) (p : Nat → Bool) : Core := { x with portQ := x.portQ.filter fun q => !p q.2 }

/-- Whether two accesses share a byte. -/
def overlap (a n b m : Nat) : Bool := a < b + m && b < a + n
/-- Whether two accesses share a line. -/
def linesMeet (a n b m : Nat) : Bool := a / 128 ≤ (b + m - 1) / 128 && b / 128 ≤ (a + n - 1) / 128

/-- Whether request `x` of a party must be performed before its later request `y` (R112, R115–R117, R125): ORD 1 is SO, 2
is UO. Lanes of one instruction on the same bytes keep their order on every page (R306). -/
def mustPrecede (x y : Req) : Bool :=
  (x.op.reads && y.op.writes) || (x.ord == 1 && y.ord == 1) || x.sc || y.sc || x.acq ||
    (x.host == y.host && overlap x.pa x.op.bytes y.pa y.op.bytes &&
      ((x.ord != 2 && y.ord != 2) || x.batch == y.batch))

/-- The requests of a party in flight, oldest first. -/
def partyReqs (s : State) (w : Who) : List Req := s.reqs.filter fun r => r.who == w && r.answer.isNone
/-- Whether a request is still to be performed. -/
def reqOpen (s : State) (i : Nat) : Bool := s.reqs.any fun r => r.id == i && r.answer.isNone

/-- A request and those that go with it (R79). -/
def groupOf (s : State) (r : Req) : List Req := r :: s.reqs.filter fun x => x.within == some r.id && x.answer.isNone
/-- Whether every earlier request of its party that must be performed before one has been, or goes with it. -/
def reqReady (s : State) (r : Req) : Bool :=
  let g := (groupOf s r).map (·.id)
  !((partyReqs s r.who).any fun x => x.id < r.id && !g.contains x.id && mustPrecede x r)
def groupReady (s : State) (r : Req) : Bool := (groupOf s r).all (reqReady s)

/-- Whether a request of any party that the slice accepted earlier still stands on a line of an access (R66, R143): one
not accepted yet comes after all that are. -/
def lineTaken (s : State) (pa n : Nat) (accepted : Option Nat) : Bool :=
  s.reqs.any fun x => x.answer.isNone && !x.host && linesMeet x.pa x.op.bytes pa n &&
    (match x.accepted, accepted with | some a, some b => decide (a < b) | some _, none => true | none, _ => false)

/-- Whether a translated access of an engine must wait: a lock holds its line (R97), or a request that the slice accepted
earlier stands there (R66). -/
def heldAt (s : State) (p : Phys) (n : Nat) : Bool := !p.host && (isLocked s p.pa n || lineTaken s p.pa n none)

/-- Whether a request may be performed now: its turn among its party's, and at its slice, on a line that no lock holds. -/
def mayPerform (s : State) (r : Req) : Bool :=
  groupReady s r && (r.host || !(lineTaken s r.pa r.op.bytes r.accepted || isLocked s r.pa r.op.bytes))

/-- Performs a request in flight and records its answer; a store leaves nothing to answer, nor does a request whose context
is gone. -/
def performReq (s : State) (r : Req) : State :=
  let leaf : Word := if r.host then 0x200 else 0
  let (t, v, x, b) := performOp s r.asid.toNat { pa := r.pa, leaf := leaf } r.op
  let more := r.who != .hub && (r.sc || (match r.op with | .store _ _ => false | _ => true))
  if more then
    { t with reqs := updFirst t.reqs (fun y => y.id == r.id) fun y => { y with answer := some (v, b.isSome), axb := x } }
  else { t with reqs := t.reqs.filter fun y => y.id != r.id }

/-- Performs a request and those that go with it, at one moment (R79). -/
def performGroup (s : State) (r : Req) : State := (groupOf s r).foldl performReq s

/-- Performs a party's requests in flight, in its program order, up to the first that may not be performed; whether all
are performed (R117, R120, R121). The host's answer to a read of its memory is never brought forward (R67). -/
def drainList (s : State) : List Req → State × Bool
  | [] => (s, true)
  | r :: rest =>
    if !reqOpen s r.id then drainList s rest
    else if r.sc || r.within.isSome || (r.host && r.op.reads && r.accepted.isSome) || !mayPerform s r then (s, false)
    else drainList (performGroup s r) rest
def drainParty (s : State) (w : Who) : State × Bool := drainList s (partyReqs s w)

/-- Where a requester's packets enter the network: the core and slot they count for (R73), and the node. -/
def whoSource (w : Who) (die : Nat) : Nat × Nat × Nat :=
  match w with
  | .unit c k _ => (c, k, coreNode c)
  | .svc n => (300 + n, 0, hubNode die)
  | .host f => (400 + f, 0, hubNode die)
  | .engine k => (500 + k, 0, sliceNode (4 * k))
  | .port p => (600 + p, 0, hubNode die)
  | .hub => (700, 0, hubNode die)

/-- Whether a flow is in reservation mode (R76). -/
def flowReserved (s : State) (core slot dst cls : Nat) : Bool :=
  s.flows.any fun f => f.core == core && f.slot == slot && f.dst == dst && f.cls == cls

/-- Puts a packet at its source's router (R71, R74). -/
def sendPacket (s : State) (cls core slot flits node dst unit : Nat) (load : Payload) (line : Option Nat) : State :=
  let p : Packet := { id := s.nextId, cls := cls, core := core, slot := slot, flits := flits, dst := dst,
                      dstUnit := unit, node := node, dir := 0, esc := false, since := s.cycle, load := load,
                      line := line, reserved := flowReserved s core slot unit cls, header := none }
  { s with packets := s.packets ++ [p], nextId := s.nextId + 1
           flows := updFirst s.flows (fun f => f.core == core && f.slot == slot && f.dst == unit && f.cls == cls)
             fun f => { f with lastSent := s.cycle } }

/-- Flits of a payload (R71). -/
def flitsOf (bytes : Nat) : Nat := (16 + bytes + 127) / 128

/-- A request that a party makes: its batch is the number of its instruction's first. -/
def newReq (s : State) (w : Who) (asid va : Nat) (p : Phys) (sc : Bool) (op : ReqOp) : Req :=
  { id := s.nextId, who := w, pa := p.pa, va := va, host := p.host, ord := p.ord, sc := sc, op := op,
    asid := BitVec.ofNat 12 asid, accepted := none, within := none, answer := none, batch := s.nextId, acq := false, axb := 0 }

/-- Puts a request in flight. One that goes with another sends no packet. -/
def launch (s : State) (r : Req) : State :=
  let slice := homeSlice r.pa
  let die := match r.who with | .unit c _ _ => coreDie c | _ => slice / 16
  let (core, slot, node) := whoSource r.who die
  let s1 := { s with reqs := s.reqs ++ [r], nextId := s.nextId + 1 }
  let flits := flitsOf (match r.op with | .store bs _ => bs.length | _ => 16)
  let line := match r.op with | .load _ => if r.sc || r.host then none else some (r.pa / 128) | _ => none
  if r.within.isSome then s1
  else sendPacket s1 0 core slot flits node (if r.host then hubNode die else sliceNode slice)
    (if r.host then 512 else 256 + slice) (.req r.id) line

/-- Performs a store of a unit, or, when the turn leaves accesses in flight or an earlier one must go first, sends it
(log 3). -/
def storeOrSend (s : State) (w : Who) (asid va : Nat) (p : Phys) (bs : List Byte) (bad : Bool) : State :=
  let r := newReq s w asid va p false (.store bs bad)
  if s.deferred || !mayPerform s r then launch s r else physWrite s asid p bs bad

/-- Whether a read of a unit may be performed at once. -/
def mayRead (s : State) (w : Who) (p : Phys) (n : Nat) : Bool := mayPerform s (newReq s w 0 0 p false (.load n))

end Sys2Proof.Machine
end

