-- ==== Sys2Proof/Machine/TBuf.lean ====
section
/-! DEFINITION. Typed buffers (R25–R28, R46–R49, R87), the range scoreboard (R55–R58), and refused accesses as they are
logged (R43). -/
namespace Sys2Proof.Machine

/-! ### Handles (R26) -/

def hSpace (h : Half) : Nat := field h 14 2
def hOwner (h : Half) : Nat := field h 11 3
def hGen (h : Half) : Nat := field h 6 5
def hIndex (h : Half) : Nat := field h 0 6
def nullHandle : Half := 0xFFFF
/-- The handle of a descriptor. -/
def mkHandle (space owner gen index : Nat) : Half :=
  BitVec.ofNat 16 (space * 2 ^ 14 + owner * 2 ^ 11 + gen % 32 * 2 ^ 6 + index)

/-- Bytes of a space's granule. -/
def granBytes (space : Nat) : Nat := if space = 2 then 1024 else 4096
/-- The descriptor of a space and index. -/
def descOf (x : Core) (space i : Nat) : Desc := lookD x.descs (space * 64 + i) Desc.reset
def setDesc (x : Core) (space i : Nat) (d : Desc) : Core := { x with descs := put x.descs (space * 64 + i) d }
/-- The core whose buffer a handle names, as a core of the bay sees it. -/
def handleCore (c : Nat) (h : Half) : Nat := bayCore (coreBay c) (hOwner h)

/-- Units that access typed buffers: 0 sequencer, 1 elements and hard ports, 2 matrix engine, 3 marquetry fabric, 4
copy engine for a sequencer's COPY, 5 copy engine for an element's. -/
abbrev BufUnit := Nat

/-- The table of R47. -/
def unitMay (u : BufUnit) (space : Nat) (write : Bool) : Bool :=
  if u = 1 then !(write && space == 0)
  else if u = 2 then (if space = 2 then write else !write)
  else if u = 3 then (if space = 0 then !write else space == 1)
  else true

/-- Step 3 of R28 with R48. An access issued before its holder gave the handle is performed while that drains (R52, R53). -/
def holderIs (d : Desc) (c owner : Nat) (u : BufUnit) (key : Half) (asid : Nat) (issued : Bool) : Bool :=
  let passes (h : Nat) : Bool :=
    if owner = c then
      d.key == key && (if u ≤ 3 then h == u else h == 4 || h == u - 4)
    else h == 8 + bayPos c && d.asid.toNat == asid && u != 2 && u != 3
  match d.st with
  | .held h => passes h
  | .draining h _ => issued && passes h
  | _ => false

/-- An access to a typed buffer that passes R28: the owning core, the space and the first byte's place in it. -/
structure BufPlace where
  core  : Nat
  space : Nat
  at_   : Nat
  deriving DecidableEq, Repr

/-- Step 5 of R28: a width up to 8 bytes demands a multiple of it. -/
def bufAligned (off n : Nat) : Bool := 8 < n || off % n == 0

/-- The checks of R28, R47 and R48 in order; `want` is the space an operation demands, if it demands one; `issued` marks
an access issued earlier. -/
def bufCheckOf (issued : Bool) (s : State) (c k : Nat) (u : BufUnit) (h : Half) (want : Option Nat) (off n : Nat)
    (write : Bool) : Except Cause BufPlace :=
  let x := ctxOf s c k
  let sp := hSpace h
  if sp = 3 || hOwner h = 7 || (match want with | some w => w != sp | none => false) then .error .bufown
  else if !unitMay u sp write || (handleCore c h ≠ c && (u = 2 || u = 3)) then .error .perm
  else
    let d := descOf (coreOf s (handleCore c h)) sp (hIndex h)
    if d.gen.toNat ≠ hGen h ∨ d.st = .free then .error .bufown
    else if !holderIs d c (handleCore c h) u x.r.key (asidOf x) issued then .error .bufown
    else if d.size * granBytes sp < off + n then .error .perm
    else if !bufAligned off n then .error .align
    else .ok { core := handleCore c h, space := sp, at_ := d.base * granBytes sp + off }

/-- The checks of an access that is issued now. -/
def bufCheck (s : State) (c k : Nat) (u : BufUnit) (h : Half) (want : Option Nat) (off n : Nat) (write : Bool) :
    Except Cause BufPlace := bufCheckOf false s c k u h want off n write

/-- A requester's number at a narrow port (R49): the sequencer, e0–e63, the engines, another core of the bay. -/
def portSeq : Nat := 0
def portElem (e : Nat) : Nat := 1 + e
/-- The edge ports, which the order of R49 does not name, come with the elements, after them (log 65). -/
def portEdge : Nat := portElem 63
def portCopy : Nat := 67
def portRemote (c : Nat) : Nat := 68 + bayPos c

/-- The narrow port of a core's space grants an access to rows: none when the cycle's grants have gone on to later
requesters, or have touched one of them (R49). -/
def grantRows (s : State) (c space : Nat) (rows : List Nat) (who : Nat) : Option State :=
  let x := coreOf s c
  let (now, last, taken) := lookD x.grants space (0, 0, [])
  let old := if now = s.cycle then taken else []
  if (now = s.cycle ∧ who < last) ∨ rows.any old.contains then none
  else some (setCore s c { x with grants := put x.grants space (s.cycle, who, old ++ rows) })

/-- The grant of an access to consecutive bytes. -/
def grantPort (s : State) (p : BufPlace) (n who : Nat) : Option State := grantRows s p.core p.space (unitsOf 128 p.at_ n) who

/-- Whether a row of 64 bytes is poisoned. -/
def rowPoisoned (x : Core) (space at_ : Nat) : Bool := x.tpoison.contains (space * 2 ^ 20 + at_ / 64)

/-- Reads bytes of a buffer: poison travels beside the bytes (R87), which read as zero in a poisoned row (R86). -/
def bufRead (s : State) (p : BufPlace) (n : Nat) : List Byte × Option Nat :=
  let x := coreOf s p.core
  let m := lookD x.tbuf p.space []
  ((List.range n).map fun i => if rowPoisoned x p.space (p.at_ + i) then 0 else readByte m (p.at_ + i),
   (List.range n).find? fun i => rowPoisoned x p.space (p.at_ + i))

/-- What a write does to the poison bit of a row (R87). -/
def coverRow (x : Core) (space a n q : Nat) (bad : Bool) : Core :=
  let key := space * 2 ^ 20 + q
  if bad then { x with tpoison := insertRising x.tpoison key, tpart := del x.tpart key }
  else if x.tpoison.contains key then
    let m := lookD x.tpart key 0 ||| BitVec.ofNat 64 (coverMask 64 a n q)
    if m = BitVec.allOnes 64 then { x with tpoison := x.tpoison.filter (· != key), tpart := del x.tpart key }
    else { x with tpart := put x.tpart key m }
  else x

/-- Writes bytes of a buffer; `bad` leaves the touched rows poisoned. -/
def bufWrite (s : State) (p : BufPlace) (bs : List Byte) (bad : Bool) : State :=
  modCore s p.core fun x =>
    let y := { x with tbuf := put x.tbuf p.space (writeBytes (lookD x.tbuf p.space []) p.at_ bs) }
    (unitsOf 64 p.at_ bs.length).foldl (fun z q => coverRow z p.space p.at_ bs.length q bad) y

/-! ### Ranges and the scoreboard -/

/-- A range of a space: global by ASID, a buffer by handle (R55, R58). -/
structure Rng where
  space : Nat                -- 0 global, 1 W, 2 A, 3 C
  key   : Nat
  lo    : Int
  hi    : Int
  deriving DecidableEq, Repr

/-- A range widened to 64-byte boundaries. -/
def Rng.wide (r : Rng) : Rng := { r with lo := r.lo / 64 * 64, hi := r.hi / 64 * 64 + 63 }
/-- Whether two ranges overlap at 64-byte granularity. -/
def Rng.meets (a b : Rng) : Bool :=
  a.space == b.space && a.key == b.key && a.wide.lo ≤ b.wide.hi && b.wide.lo ≤ a.wide.hi

/-- A copy's conversion: source element bytes, and the ratio of destination to source bytes. -/
def convUnit (conv : Nat) : Nat := match conv with | 0 => 1 | 1 => 4 | 2 => 4 | 3 => 4 | 7 => 2 | _ => 64
def convBytes (conv n : Nat) : Nat :=
  match conv with
  | 0 => n | 1 => n / 2 | 2 => n / 4 | 3 => n / 4 | 4 => n * 18 / 64 | 5 => n * 12 / 64 | 6 => n * 8 / 64 | _ => n * 2

/-- Word n of a descriptor. -/
def dw (ws : List Word) (n : Nat) : Word := nth ws n 0

def cpConv (ws : List Word) : Nat := field (dw ws 0) 57 3
def cpRows (ws : List Word) : Nat := field (dw ws 2) 32 32
def cpRowBytes (ws : List Word) : Nat := field (dw ws 2) 0 32
def cpSStride (ws : List Word) : Int := if cpRows ws ≤ 1 then 0 else signed32 (field (dw ws 3) 32 32)
def cpDStride (ws : List Word) : Int := if cpRows ws ≤ 1 then 0 else signed32 (field (dw ws 3) 0 32)

/-- The bounding range of one side of a copy: `w` names the side's word, `sp` its space, `n` the bytes of a row. -/
def sideRange (asid : Nat) (w : Word) (sp rows n : Nat) (stride : Int) : Rng :=
  let base : Int := if sp = 0 then field w 0 48 else field w 0 20
  let last := base + stride * (rows - 1 : Nat)
  { space := sp, key := if sp = 0 then asid else field w 32 16,
    lo := if stride < 0 then last else base, hi := (if stride < 0 then base else last) + n - 1 }

def cpReads (y : Copy) : Rng :=
  sideRange y.asid.toNat (dw y.words 0) (field (dw y.words 0) 60 2) (cpRows y.words) (cpRowBytes y.words) (cpSStride y.words)
def cpWrites (y : Copy) : Rng :=
  sideRange y.asid.toNat (dw y.words 1) (field (dw y.words 0) 62 2) (cpRows y.words)
    (convBytes (cpConv y.words) (cpRowBytes y.words)) (cpDStride y.words)

/-- Whether an access of the core stalls on a copy (R56). -/
def scoreStalls (x : Core) (r : Rng) (write : Bool) : Bool :=
  x.copies.any fun y => r.meets (cpWrites y) || (write && r.meets (cpReads y))

/-- The range of a global access and of a buffer access. -/
def globalRng (asid va n : Nat) : Rng := { space := 0, key := asid, lo := va, hi := va + n - 1 }
def bufRng (h : Half) (off n : Nat) : Rng := { space := hSpace h + 1, key := h.toNat, lo := off, hi := off + n - 1 }

/-! ### Refusals -/

/-- Logs a refused global access of a core's unit (R43). -/
def violGlobal (s : State) (c asid va acc : Nat) (cause : Cause) : State :=
  logViol s (coreDie c) { asid := asid, addr := va, cause := cause.code, reqid := c, kind := 0, akind := 0, acc := acc }

/-- Logs a refused typed-buffer access (R28). -/
def violBuf (s : State) (c asid : Nat) (h : Half) (off acc : Nat) (cause : Cause) : State :=
  if cause = .align then s
  else logViol s (coreDie c)
    { asid := asid, addr := h.toNat * 2 ^ 32 + off % 2 ^ 20, cause := cause.code, reqid := c, kind := 0, akind := 2, acc := acc }

/-- Whether a fault of a translated access is logged: PERM, and XLATE of an unbacked address (R10, R43). -/
def logged (cause : Cause) (unbacked : Bool) : Bool := cause == .perm || unbacked

/-- R37's SPACE of a handle; the null handle names none and is recorded as 3 (log 14). -/
def hSpaceCode (h : Half) : Nat := min (hSpace h + 1) 3
/-- R37's ADDR of a buffer access. -/
def bufAddr (h : Half) (off : Nat) : Nat := h.toNat * 2 ^ 32 + off % 2 ^ 20

/-- The executing sequencer's access to global memory faults at an address, or waits for a lock that holds its walk. -/
def faultAt (s : State) (va : Word) (straddle : Bool) (kind acc : Nat) (f : XFault) : State :=
  let (c, _) := curCK s
  let s1 := if logged f.cause f.unbacked then violGlobal s c (curAsid s) va.toNat acc f.cause else s
  if f.cause = .none then waitIn s (curWait s)
  else faultCur s1 { seqFault f.cause kind 0 va.toNat 0 f.entry f.level with straddle := straddle }

/-- The executing sequencer's access of n bytes faults at its first. -/
def faultSpan (s : State) (va : Word) (n kind acc : Nat) (f : XFault) : State :=
  faultAt s va (4096 < va.toNat % 4096 + n) kind acc f

/-- ACCESS of the violation log for a KIND of R37 that names the access: 3 a fetch, of code or of a configuration. -/
def kindAcc (kind : Nat) : Nat := if kind = 2 ∨ kind = 8 then 2 else if kind = 1 then 1 else if kind = 3 ∨ kind = 4 then 3 else 0

/-- The executing sequencer's aligned access faults. -/
def faultGlobal (s : State) (va : Word) (kind : Nat) (f : XFault) : State := faultSpan s va 1 kind (kindAcc kind) f

/-- The executing sequencer's access to a typed buffer faults. -/
def faultBuf (s : State) (h : Half) (off kind : Nat) (cause : Cause) : State :=
  let (c, _) := curCK s
  faultCur (violBuf s c (curAsid s) h off kind cause) (seqFault cause kind (hSpaceCode h) (bufAddr h off) 0 0 0)

/-- PRIV of the executing sequencer (R43, R395). The spec gives the entry's cause and requester and no address: ADDR is the
register's number, ADDRKIND 1 and ACCESS 5 (log 63). -/
def privCur (s : State) (what : Nat) : State :=
  match s.cur with
  | .seq c k =>
    trapCur (logViol s (coreDie c) { asid := asidOf (ctxOf s c k), addr := what, cause := Cause.priv.code, reqid := c,
                                     kind := 0, akind := 1, acc := 5 }) .priv
  | _ => trapCur s .priv

end Sys2Proof.Machine
end

