-- ==== Sys2Proof/Machine/Operands.lean ====
section
/-! DEFINITION. The operand forms of the sequencer (R216–R223, R303): sources, immediates, branch targets, addresses. -/
namespace Sys2Proof.Machine

/-- A sign-extended immediate (R223). -/
def immS {w : Nat} (i : BitVec w) : Word := i.signExtend 64
/-- A zero-extended immediate. -/
def immZ {w : Nat} (i : BitVec w) : Word := i.setWidth 64
/-- The target of a transfer: PC + 4 × OFF22 (R248). -/
def offTarget (pc : Word) (o : BitVec 22) : Word := pc + 4 * immS o
/-- The address [Sa + e] (R303, R305). -/
def addrOf {w : Nat} (q : Seq) (a : Reg) (e : BitVec w) : Word := readS q a + immS e

/-- The executing sequencer's source register. -/
def srcS (s : State) (r : Reg) : Word := readS (curSeq s) r
/-- The executing sequencer's source predicate. -/
def srcP (s : State) (p : Pred) : Bool := readP (curSeq s) p

/-- An instruction of one word that writes a function of two scalars: all sources are read first (R244). -/
def aluRR (g : Guard) (d a b : Reg) (f : Word → Word → Word) (s : State) : State :=
  guarded g s fun t => retireS t d (f (srcS t a) (srcS t b)) 1
/-- An instruction that writes a function of one scalar. -/
def aluR (g : Guard) (d a : Reg) (f : Word → Word) (s : State) : State :=
  guarded g s fun t => retireS t d (f (srcS t a)) 1
/-- An unguarded instruction that writes a function of one scalar and its immediate. -/
def aluI (d a : Reg) (f : Word → Word) (words : Nat) (s : State) : State := retireS s d (f (srcS s a)) words

/-- Whether a register holds bits above the low `n`. -/
def above (v : Word) (n : Nat) : Bool := v.toNat / 2 ^ n != 0

end Sys2Proof.Machine
end

