-- ==== Sys2Proof/Machine/Flags.lean ====
section
/-! DEFINITION. Conditions and exception bits: the conditions of PSET, ICMP and FCMP (R223, R246, R280, R283), the
FIRSTX latch (R398) and the tests of an exit (R397). The machine has no arithmetic flags (R244). -/
namespace Sys2Proof.Machine

/-- Whether a condition holds between two values of `w` bits. -/
def condHolds (c : Cond) (w : Nat) (a b : Nat) : Bool :=
  let x := intVal w false a
  let y := intVal w false b
  let ua := a % 2 ^ w
  let ub := b % 2 ^ w
  match c with
  | .eq => ua == ub | .ne => ua != ub
  | .lt => x < y | .ge => y ≤ x | .le => x ≤ y | .gt => y < x
  | .ltu => ua < ub | .geu => ub ≤ ua | .leu => ua ≤ ub | .gtu => ub < ua

/-- Whether a floating condition holds (R280): a NaN makes all but NE and UN false, −0 = +0. -/
def fcondHolds (c : FCond) (a b : Num) : Bool :=
  let un := a.isNan || b.isNan
  let o := cmpNum a b
  match c with
  | .un => un | .or => !un
  | .ne => un || o != 0
  | .eq => !un && o == 0 | .lt => !un && o == -1 | .ge => !un && o != -1
  | .le => !un && o != 1 | .gt => !un && o == 1

/-- The bits of a firing that FIRSTX latches: those FPXEN enables, and PS (R398). -/
def firstBits (x : Ctx) (xb : Xb) : Bool := (xb &&& (x.seq.fpxen.setWidth 6 ||| xPS)) != 0

/-- FIRSTX after a firing whose own operation raised `xb`. -/
def latchFirst (x : Ctx) (e slot : Nat) (xb : Xb) (colour : Byte) (iter : Half) : Ctx :=
  if x.r.firstx.getLsbD 63 || !firstBits x xb then x
  else
    { x with r := { x.r with firstx := place 1 63 ||| place xb.toNat 57 ||| place e 51 ||| place slot 46 |||
                                       place colour.toNat 16 ||| iter.setWidth 64 } }

/-- The trap an exit raises when its instance would commit (R397): POISON first, then FPX under FPXEN. -/
def exitTrap (x : Ctx) (xb : Xb) : Option Cause :=
  if xb.getLsbD 0 then some .poison
  else if (xb &&& x.seq.fpxen.setWidth 6 &&& 0x3E) != 0 then some .fpx else none

end Sys2Proof.Machine
end

