-- ==== Sys2Proof/Machine/Alu.lean ====
section
/-! DEFINITION. The integer instructions of the sequencer (R244, R245). -/
namespace Sys2Proof.Machine

/-- Signed division truncated towards zero, with the corners of R244. -/
def divS (x y : Word) : Word :=
  if y = 0 then 0xFFFFFFFFFFFFFFFF else BitVec.ofInt 64 (Int.tdiv x.toInt y.toInt)
/-- The signed remainder: the sign of the dividend. -/
def remS (x y : Word) : Word := if y = 0 then x else BitVec.ofInt 64 (Int.tmod x.toInt y.toInt)
/-- Unsigned division. -/
def divU (x y : Word) : Word := if y = 0 then 0xFFFFFFFFFFFFFFFF else x / y
/-- The unsigned remainder. -/
def remU (x y : Word) : Word := if y = 0 then x else x % y
/-- The high half of a signed product. -/
def mulHigh (x y : Word) : Word := BitVec.ofInt 64 (x.toInt * y.toInt / 2 ^ 64)
/-- The high half of an unsigned product. -/
def mulHighU (x y : Word) : Word := BitVec.ofNat 64 (x.toNat * y.toNat / 2 ^ 64)
/-- The shift amount of a register: bits [5:0]. -/
def amount (y : Word) : Nat := y.toNat % 64
/-- The number of leading zero bits; 64 of zero. -/
def clz64 (x : Word) : Word := if x = 0 then 64 else BitVec.ofNat 64 (63 - Nat.log2 x.toNat)
/-- The number of trailing zero bits; 64 of zero. -/
def ctz64 (x : Word) : Word :=
  match (List.range 64).find? fun i => x.getLsbD i with | some i => BitVec.ofNat 64 i | none => 64
/-- The number of one bits. -/
def popc64 (x : Word) : Word := BitVec.ofNat 64 ((List.range 64).filter fun i => x.getLsbD i).length
/-- Bit i of the result is bit 63 − i. -/
def brev64 (x : Word) : Word := x.reverse

/-- ADD (R244). -/
def execAdd (g : Guard) (d a b : Reg) (s : State) : Out :=
  .next (aluRR g d a b (fun x y => x + y) s)

/-- SUB (R244). -/
def execSub (g : Guard) (d a b : Reg) (s : State) : Out :=
  .next (aluRR g d a b (fun x y => x - y) s)

/-- MUL (R244). -/
def execMul (g : Guard) (d a b : Reg) (s : State) : Out :=
  .next (aluRR g d a b (fun x y => x * y) s)

/-- MULH (R244). -/
def execMulh (g : Guard) (d a b : Reg) (s : State) : Out :=
  .next (aluRR g d a b mulHigh s)

/-- MULHU (R244). -/
def execMulhu (g : Guard) (d a b : Reg) (s : State) : Out :=
  .next (aluRR g d a b mulHighU s)

/-- DIV (R244). -/
def execDiv (g : Guard) (d a b : Reg) (s : State) : Out :=
  .next (aluRR g d a b divS s)

/-- DIVU (R244). -/
def execDivu (g : Guard) (d a b : Reg) (s : State) : Out :=
  .next (aluRR g d a b divU s)

/-- REM (R244). -/
def execRem (g : Guard) (d a b : Reg) (s : State) : Out :=
  .next (aluRR g d a b remS s)

/-- REMU (R244). -/
def execRemu (g : Guard) (d a b : Reg) (s : State) : Out :=
  .next (aluRR g d a b remU s)

/-- AND (R244). -/
def execAnd (g : Guard) (d a b : Reg) (s : State) : Out :=
  .next (aluRR g d a b (fun x y => x &&& y) s)

/-- OR (R244). -/
def execOr (g : Guard) (d a b : Reg) (s : State) : Out :=
  .next (aluRR g d a b (fun x y => x ||| y) s)

/-- XOR (R244). -/
def execXor (g : Guard) (d a b : Reg) (s : State) : Out :=
  .next (aluRR g d a b (fun x y => x ^^^ y) s)

/-- ANDN (R244). -/
def execAndn (g : Guard) (d a b : Reg) (s : State) : Out :=
  .next (aluRR g d a b (fun x y => x &&& ~~~y) s)

/-- SHL (R244). -/
def execShl (g : Guard) (d a b : Reg) (s : State) : Out :=
  .next (aluRR g d a b (fun x y => x <<< amount y) s)

/-- SHR (R244). -/
def execShr (g : Guard) (d a b : Reg) (s : State) : Out :=
  .next (aluRR g d a b (fun x y => x >>> amount y) s)

/-- SRA (R244). -/
def execSra (g : Guard) (d a b : Reg) (s : State) : Out :=
  .next (aluRR g d a b (fun x y => x.sshiftRight (amount y)) s)

/-- ROL (R244). -/
def execRol (g : Guard) (d a b : Reg) (s : State) : Out :=
  .next (aluRR g d a b (fun x y => x.rotateLeft (amount y)) s)

/-- MIN (R244). -/
def execMin (g : Guard) (d a b : Reg) (s : State) : Out :=
  .next (aluRR g d a b (fun x y => if y.slt x then y else x) s)

/-- MAX (R244). -/
def execMax (g : Guard) (d a b : Reg) (s : State) : Out :=
  .next (aluRR g d a b (fun x y => if x.slt y then y else x) s)

/-- MINU (R244). -/
def execMinu (g : Guard) (d a b : Reg) (s : State) : Out :=
  .next (aluRR g d a b (fun x y => if y < x then y else x) s)

/-- MAXU (R244). -/
def execMaxu (g : Guard) (d a b : Reg) (s : State) : Out :=
  .next (aluRR g d a b (fun x y => if x < y then y else x) s)

/-- CLZ (R244). -/
def execClz (g : Guard) (d a : Reg) (s : State) : Out :=
  .next (aluR g d a clz64 s)

/-- CTZ (R244). -/
def execCtz (g : Guard) (d a : Reg) (s : State) : Out :=
  .next (aluR g d a ctz64 s)

/-- POPC (R244). -/
def execPopc (g : Guard) (d a : Reg) (s : State) : Out :=
  .next (aluR g d a popc64 s)

/-- BREV (R244). -/
def execBrev (g : Guard) (d a : Reg) (s : State) : Out :=
  .next (aluR g d a brev64 s)

/-- SEXT_B (R244). -/
def execSextB (g : Guard) (d a : Reg) (s : State) : Out :=
  .next (aluR g d a (fun x => (x.setWidth 8).signExtend 64) s)

/-- SEXT_H (R244). -/
def execSextH (g : Guard) (d a : Reg) (s : State) : Out :=
  .next (aluR g d a (fun x => (x.setWidth 16).signExtend 64) s)

/-- SEXT_W (R244). -/
def execSextW (g : Guard) (d a : Reg) (s : State) : Out :=
  .next (aluR g d a (fun x => (x.setWidth 32).signExtend 64) s)

/-- ZEXT_B (R244). -/
def execZextB (g : Guard) (d a : Reg) (s : State) : Out :=
  .next (aluR g d a (fun x => (x.setWidth 8).setWidth 64) s)

/-- ZEXT_H (R244). -/
def execZextH (g : Guard) (d a : Reg) (s : State) : Out :=
  .next (aluR g d a (fun x => (x.setWidth 16).setWidth 64) s)

/-- ZEXT_W (R244). -/
def execZextW (g : Guard) (d a : Reg) (s : State) : Out :=
  .next (aluR g d a (fun x => (x.setWidth 32).setWidth 64) s)

/-- LEA (R244): the scale 1, 2, 4 or 8. -/
def execLea (g : Guard) (d a b : Reg) (k : BitVec 2) (s : State) : Out :=
  .next (aluRR g d a b (fun x y => x + (y <<< k.toNat)) s)

/-- ADDI (R245). -/
def execAddi (d a : Reg) (i : Half) (s : State) : Out :=
  .next (aluI d a (fun x => x + immS i) 1 s)

/-- ANDI (R245). -/
def execAndi (d a : Reg) (i : Half) (s : State) : Out :=
  .next (aluI d a (fun x => x &&& immZ i) 1 s)

/-- ORI (R245). -/
def execOri (d a : Reg) (i : Half) (s : State) : Out :=
  .next (aluI d a (fun x => x ||| immZ i) 1 s)

/-- XORI (R245). -/
def execXori (d a : Reg) (i : Half) (s : State) : Out :=
  .next (aluI d a (fun x => x ^^^ immZ i) 1 s)

/-- SHLI (R245). -/
def execShli (d a : Reg) (n : BitVec 6) (s : State) : Out :=
  .next (aluI d a (fun x => x <<< n.toNat) 1 s)

/-- SHRI (R245). -/
def execShri (d a : Reg) (n : BitVec 6) (s : State) : Out :=
  .next (aluI d a (fun x => x >>> n.toNat) 1 s)

/-- SRAI (R245). -/
def execSrai (d a : Reg) (n : BitVec 6) (s : State) : Out :=
  .next (aluI d a (fun x => x.sshiftRight n.toNat) 1 s)

/-- LUI (R245). -/
def execLui (d : Reg) (i : Half) (s : State) : Out := .next (retireS s d (immS i <<< 16) 1)

/-- MOVI (R245). -/
def execMovi (d : Reg) (i : Half) (s : State) : Out := .next (retireS s d (immS i) 1)

/-- MOVI in the SX form (R245). -/
def execMoviSx (d : Reg) (i : W32) (s : State) : Out := .next (retireS s d (immS i) 2)

end Sys2Proof.Machine
end

