-- ==== Sys2Proof/Machine/Lam.lean ====
section
/-! DEFINITION. Laminated registers (R60–R64, R132–R134, R294–R299, R422): contributions, pushes, gathers, settling. -/
namespace Sys2Proof.Machine

def lamOf (x : Ctx) (n : Nat) : Lam := lookD x.lam n Lam.reset
def modLam (x : Ctx) (n : Nat) (f : Lam → Lam) : Ctx := { x with lam := put x.lam n (f (lamOf x n)) }

/-- Contributor units (R62). -/
def unitSeq : Nat := 64
def unitMatrix : Nat := 65
def unitPopc : Nat := 66
def unitCopy : Nat := 67
def unitNear : Nat := 68

/-- Plies and lane records a unit's buffer holds (R62). -/
def plyLimit (u : Nat) : Nat × Nat :=
  if u = 65 then (8, 256) else if u = 66 then (4, 128) else (4, 32)

/-- Two plies combined lane by lane; lanes past the shorter keep the longer's. -/
def combineLanes (k : OpKind) : List Rec → List Rec → List Rec
  | [], b => b
  | a, [] => a
  | x :: a, y :: b => combineRec k x y :: combineLanes k a b

/-- An empty ply of a width. -/
def emptyLanes (w : Nat) : List Rec := List.replicate w emptyRec
/-- A ply of a width with one record in a lane. -/
def oneLane (w lane : Nat) (r : Rec) : List Rec := (List.range w).map fun i => if i = lane then r else emptyRec
/-- A ply cut or filled to a width. -/
def fitLanes (w : Nat) (l : List Rec) : List Rec := (List.range w).map fun i => nth l i emptyRec

/-- Records a list of plies holds. -/
def plyRecords (l : List Ply) : Nat := l.foldl (fun n p => n + p.lanes.length) 0

/-- A ply goes into transit to its register's home ply (R63). -/
def pushPly (x : Ctx) (now : Nat) (p : Ply) : Ctx :=
  modLam x p.reg fun m =>
    { m with transit := some (match m.transit with
        | some (l, d) => (combineLanes (declKind m.decl) l p.lanes, d)
        | none => (p.lanes, now)) }

/-- A ply in its place among plies that stand oldest first. -/
def placePly (p : Nat × Ply) : List (Nat × Ply) → List (Nat × Ply)
  | [] => [p]
  | q :: r => if p.2.born < q.2.born then p :: q :: r else q :: placePly p r
/-- The plies of a unit of a core, of all its contexts: their slot and the ply, oldest first. -/
def unitPlies (y : Core) (u : Nat) : List (Nat × Ply) :=
  (y.ctxs.flatMap fun p => (lookD p.2.plies u []).map fun l => (p.1, l)).foldl (fun l p => placePly p l) []

/-- Pushes the oldest plies of a unit until its buffer's limits hold (R62, R63). -/
def shrinkPlies (now : Nat) (u : Nat) : Nat → Core → Core
  | 0, y => y
  | n + 1, y =>
    match unitPlies y u with
    | [] => y
    | (k, p) :: r =>
      if (plyLimit u).1 < r.length + 1 || (plyLimit u).2 < plyRecords (p :: r.map (·.2)) then
        let x := ctxIn y k
        shrinkPlies now u n { y with
          ctxs := put y.ctxs k (pushPly { x with plies := put x.plies u ((lookD x.plies u []).filter fun l => l.born != p.born) } now p) }
      else y

/-- A committed contribution reaches a unit's ply buffer (R63); a register undeclared by then takes nothing. -/
def contribute (s : State) (c k u n : Nat) (lanes : List Rec) : State :=
  modCore s c fun y =>
    let x := ctxIn y k
    let m := lamOf x n
    if !declared m.decl then y
    else
      let l := fitLanes (declWidth m.decl) lanes
      let ps := lookD x.plies u []
      if ps.any fun p => p.reg == n then
        { y with ctxs := put y.ctxs k { x with plies := put x.plies u (updFirst ps (fun p => p.reg == n) fun p =>
            { p with lanes := combineLanes (declKind m.decl) p.lanes l }) } }
      else shrinkPlies s.cycle u 33 { y with
        ctxs := put y.ctxs k { x with plies := put x.plies u (ps ++ [{ reg := n, born := y.plyNo, lanes := l }]) }
        plyNo := y.plyNo + 1 }

/-- The units that hold a ply of a register: its presence vector (R61). -/
def present (x : Ctx) (n : Nat) : List Ply := x.plies.flatMap fun p => p.2.filter fun y => y.reg == n

/-- Whether a push of the register is in transit. -/
def inTransit (x : Ctx) (n : Nat) : Bool := (lamOf x n).transit.isSome

/-- The combination of a register's plies and home ply (R132, R296). -/
def gatherLanes (x : Ctx) (n : Nat) : List Rec :=
  let m := lamOf x n
  (present x n).foldl (fun l p => combineLanes (declKind m.decl) l p.lanes) (fitLanes (declWidth m.decl) m.home)

/-- Removes a register's plies from every unit. -/
def dropPlies (x : Ctx) (n : Nat) : Ctx :=
  { x with plies := x.plies.map fun p => (p.1, p.2.filter fun y => y.reg != n) }

/-- LDECL's effect: plies discarded, the declaration in force, every lane empty (R294). -/
def declareLam (s : State) (c k n : Nat) (d : W32) : State :=
  modCtx s c k fun x => modLam (dropPlies x n) n fun _ => { decl := d, home := emptyLanes (declWidth d), transit := none }

/-- SETTLE's effect (R133, R297): the combination into the home ply, the gathered plies cleared. -/
def settleLam (s : State) (c k n : Nat) : State :=
  modCtx s c k fun x => modLam (dropPlies x n) n fun m => { m with home := gatherLanes x n }

/-- A pushed ply is combined into the home ply and the transit bit clears (R63). -/
def landPush (x : Ctx) (n : Nat) : Ctx :=
  modLam x n fun m =>
    match m.transit with
    | some (l, _) => { m with home := combineLanes (declKind m.decl) (fitLanes (declWidth m.decl) m.home) l, transit := none }
    | none => m

/-- RDL's modes (R296, R299). -/
def lamHi (m : RdlMode) : Bool := match m with | .hi => true | _ => false

/-- A lane read: its bits and the rounding's exception bits. -/
def lamRead (d : W32) (mode : RdlMode) (r : Rec) : Nat × Xb :=
  match mode with
  | .xb => ((recXb r).toNat + (if recXb r = 0 then 0x7F else (recXu r).toNat) * 256, 0)
  | .value => readRec (declKind d) (lamFmt (declFmt d)) r
  | .hi => let (v, b) := readRec (declKind d) (lamFmt (declFmt d)) r; (v / 2 ^ 32, b)

/-- A lane's value as RDL gives it to a scalar (R299). -/
def lamScalar (d : W32) (mode : RdlMode) (r : Rec) : Word :=
  let v := BitVec.ofNat 64 (lamRead d mode r).1
  match mode with
  | .value => if declFmt d = 2 then (v.setWidth 32).signExtend 64 else v
  | _ => v

/-- The record of a value contributed to a declared register, floating or integer. -/
def lamRec (d : W32) (x : Num) (v : Int) (xb : Xb) (xu : BitVec 7) : Rec :=
  let k := declKind d
  if k.float then floatRec k x xb xu else intRec k v xb xu

/-- Whether R295's type suits a register's format. -/
def tySuits (y : Ty) (fmt : Nat) : Bool :=
  match y with
  | .fp32 => fmt ≤ 1 | .bf16 => fmt ≤ 1 | .fp16 => fmt ≤ 1
  | .i32 => 2 ≤ fmt | .i16 => 2 ≤ fmt | .i8 => 2 ≤ fmt
  | _ => false

/-- The bytes of declared lanes, which the save budget counts (R403). -/
def lamBytes (x : Ctx) : Nat := x.lam.foldl (fun n p => n + declWidth p.2.decl * 48) 0

end Sys2Proof.Machine
end

