-- ==== Sys2Proof/Machine/Access.lean ====
section
/-! DEFINITION. A sequencer's access to memory (R19, R56, R86, R97, R104, R112–R125, R305): checked, translated, held
where the spec holds it, then performed or sent. -/
namespace Sys2Proof.Machine

/-- A sequencer's access: its address and bytes, the alignment it demands, R37's KIND, what the page must allow,
whether it writes, whether it is an SC operation, what it does, the charge at the port, and the scope of its release. -/
structure Acc where
  va     : Word
  n      : Nat
  align  : Nat
  kind   : Nat
  need   : Need
  write  : Bool
  sc     : Bool
  op     : ReqOp
  charge : Nat
  rel    : Option Scope

/-- A context's sequencer as a party. -/
def seqWho (s : State) : Who := match s.cur with | .seq c k => .unit c k 0 | .svc n => .svc n | _ => .hub

/-- POISON at the executing sequencer: the latch takes the address (R86), and the trap is taken. -/
def poisonCur (s : State) (space addr : Nat) : State :=
  match s.cur with
  | .seq c k => trapCur (modCtx s c k fun x => { x with seqLatch := some (place space 60 ||| BitVec.ofNat 64 (addr % 2 ^ 48)) }) .poison
  | _ => trapCur s .poison

/-- The first poisoned byte of a refused or answered read. -/
def poisonGlobal (s : State) (va : Word) (p : Option Phys) (n : Nat) : State :=
  let i := match p with | some q => (match firstPoisoned s q.pa n with | some i => i | none => 0) | none => 0
  poisonCur s 0 (va.toNat + i)

/-- Whether a command of the context is still on its way to its engine (R120). -/
def nmOnWay (s : State) (c : Nat) (key : Half) : Bool :=
  s.hbmStacks.any fun p => p.2.transit.any fun q => q.core == c && q.key == key

/-- Tokens of a way that carry a copy command to hard port 22 (R314): of results and port registers of COPY slots, on
tracks, at the port. -/
def commandTokens (s : State) (c k : Nat) : List Token :=
  let y := coreOf s c
  let isCopy (e slot : Nat) : Bool := field (lookD (lookD (elemIn y e).ways k Way.reset).slots slot 0) 24 8 == 0xE0
  let bound (f : Flight) : Bool := field f.entry 61 2 == 1 && field f.entry 55 6 == 22
  (y.results.filter fun r => r.way == k && isCopy r.elem r.slot).map (·.even) ++
  (y.elems.flatMap fun p => ((between p.2.ports (4 * k) (4 * k + 4)).filter fun q => isCopy p.1 q.2.slot).map (·.2.even)) ++
  ((y.skid.filter fun p => p.1 / 40 % 4 == k).flatMap fun p => (p.2.filter bound).map (·.tok)) ++
  ((lookD y.hport (22 * 4 + k) []).map (·.tok)) ++
  ((ctxIn y k).ckptPort.filter fun p => p.1 == 22).map (·.2.tok)

/-- Whether COPYs of the region, of instances up to an age, are still to retire (R117, R123). -/
def regionCopies (s : State) (c k : Nat) (upTo : Nat → Bool) : Bool :=
  let y := coreOf s c
  let key := (ctxIn y k).r.key
  (y.copies.any fun z => z.key == key && z.elemIssued.isSome && upTo z.age) ||
    (commandTokens s c k).any fun t => t.lanes != [] && upTo t.src

/-- Performs what a release of a scope must wait for; whether all of it has been performed (R117, R120). -/
def releaseNow (s : State) (w : Who) (sc : Scope) : State × Bool :=
  let (t, ok) := drainParty s w
  let far (c k u : Nat) : Bool := t.bufreqs.any fun b => b.core == c && b.slot == k && b.unit == u && b.answer.isNone
  match w with
  | .unit c k 0 =>
    let x := ctxOf t c k
    (t, ok && !((coreOf t c).copies.any fun y => y.key == x.r.key && y.elemIssued.isNone) && !far c k 0 &&
      !(3 ≤ scopeRank sc && nmOnWay t c x.r.key) &&
      !(4 ≤ scopeRank sc && t.sends.any fun m => m.core == c && m.key == x.r.key && !m.landed))
  | .unit c k 1 => (t, ok && !far c k 1 && !regionCopies t c k fun _ => true)
  | _ => (t, ok)

/-- Performs a context's accesses in flight; whether all are performed, at other cores' buffers too (R129, R145). -/
def drainContext (s : State) (c k : Nat) : State × Bool :=
  let (t, ok) := (List.range 8).foldl (fun (t, ok) u => let (t', o) := drainParty t (.unit c k u); (t', ok && o)) (s, true)
  (t, ok && !(t.bufreqs.any fun b => b.core == c && b.slot == k && b.answer.isNone))

/-- Performs what a hand-over to an engine waits for: the accesses of a unit of a context made before it (R128); whether all
of them have been performed. -/
def handOver (s : State) (c k u : Nat) : State × Bool :=
  let (t, ok) := drainParty s (.unit c k u)
  (t, ok && !(t.bufreqs.any fun b => b.core == c && b.slot == k && b.unit == u && b.answer.isNone))

/-- Whether an access needs a walk that its turn leaves in flight (R30, log 3). -/
def walkNeeded (s : State) (c : Nat) (root va : Word) (write : Bool) : Bool :=
  s.deferred && root.getLsbD 0 && va.toNat < 2 ^ 48 &&
    (tlbFind s c (field root 52 12) (va.toNat / 4096) write).isNone

/-- The walks under way in a stack domain's pool: requests for one page of one ASID count once (R31). -/
def walksBusy (l : List Walk) (domain : Nat) : List (Nat × Nat) :=
  ((l.filter fun w => w.started && coreStack w.core == domain).map fun w => (w.asid.toNat, w.va / 4096)).eraseDups

/-- Sends a page to the walker pool; a full pool queues it (R31). -/
def startWalk (s : State) (c : Nat) (root va : Word) (write : Bool) (kind acc : Nat) : State × Nat :=
  let busy := walksBusy s.walks (coreStack c)
  let w : Walk := { id := s.nextId, core := c, asid := BitVec.ofNat 12 (field root 52 12), root := root,
                    va := va.toNat, write := write, kind := kind, acc := acc,
                    started := busy.contains (field root 52 12, va.toNat / 4096) || busy.length < 64 }
  ({ s with walks := s.walks ++ [w], nextId := s.nextId + 1 }, s.nextId)

/-- Performs an access of the executing sequencer, or, where the turn leaves it in flight or an earlier request must go first,
sends it and waits; a store is sent and the sequencer goes on (log 3). -/
def performAcc (s : State) (a : Acc) (asid : Nat) (p : Phys) (fin : State → Word → State) : State :=
  let r := newReq s (seqWho s) asid a.va.toNat p a.sc a.op
  if a.sc || s.deferred || !mayPerform s r then
    match a.sc, a.op with
    | false, .store _ _ => fin (launch s r) 0
    | _, _ => waitIn (launch s r) (.request r.id)
  else
    match performOp s asid p a.op with
    | (t, _, _, some _) => poisonGlobal t a.va (some p) a.n
    | (t, v, _, none) => fin t v

/-- An access of a context's sequencer. On a UO page the release suffix has no effect (R117). -/
def accessCtx (s : State) (a : Acc) (c k : Nat) (fin : State → Word → State) : State :=
  let x := ctxOf s c k
  let asid := asidOf x
  if a.va.toNat % a.align ≠ 0 then faultGlobal s a.va a.kind (bareFault .align)
  else if walkNeeded s c x.r.xlroot a.va a.need.write then
    if 8 ≤ (s.walks.filter fun w => w.core == c).length then waitIn s .none
    else
      let (t, id) := startWalk s c x.r.xlroot a.va a.need.write a.kind a.op.acc
      waitIn t (.walk id)
  else
    match translate s c x.r.xlroot a.va a.need with
    | (t, .error f) => faultSpan t a.va a.n a.kind a.op.acc f
    | (t, .ok p) =>
      if scoreStalls (coreOf t c) (globalRng asid a.va.toNat a.n) a.write then waitIn t .none
      else
        let (u, ok) := match (if p.ord = 2 ∧ !a.sc then none else a.rel) with
          | some sc => releaseNow t (.unit c k 0) sc | none => (t, true)
        if !ok then waitIn u .none
        else
          match admitted u c k a.charge (atSeq k) with
          | (v, false) => waitIn v .none
          | (v, true) => performAcc (signAccess v c k a.va.toNat a.n a.write) a asid p fin

/-- An access of a service core, by physical address (R18, R10): `device` is what the register, configuration and trace
spaces do with it. An unbacked address, and a misaligned access to those spaces, get an error response and a log entry; the
spec gives the response no data: a free value (log 2). -/
def accessSvc (s : State) (a : Acc) (n : Nat) (device fin : State → Word → State) : State :=
  let refuse : State :=
    let (v, u) := drawFree (logViol s 2 { asid := 0, addr := a.va.toNat, cause := 0, reqid := n, kind := 5, akind := 1,
                                          acc := a.op.acc })
    fin u v
  match regionOf a.va.toNat with
  | .device => if a.va.toNat % a.align ≠ 0 then refuse else device s a.va
  | .unbacked => refuse
  | .hbm =>
    if a.va.toNat % a.align ≠ 0 then trapCur s .align
    else
      let p : Phys := { pa := a.va.toNat, leaf := 0 }
      let (u, ok) := match a.rel with | some sc => releaseNow s (.svc n) sc | none => (s, true)
      if !ok then waitIn u .none else performAcc u a 0 p fin

/-- An access of the executing sequencer, begun or continued. -/
def access (s : State) (a : Acc) (device fin : State → Word → State) : State :=
  match curWait s with
  | .request id =>
    match s.reqs.find? fun r => r.id == id with
    | some r =>
      match r.answer with
      | some (v, bad) =>
        let t := { s with reqs := s.reqs.filter fun x => x.id != id }
        if bad then poisonGlobal t a.va (some { pa := r.pa, leaf := 0 }) a.n else fin t v
      | none => s
    | none => waitIn s .none
  | .walk id => if s.walks.any fun w => w.id == id then s else waitIn s .none
  | _ =>
    match s.cur with
    | .seq c k => accessCtx s a c k fin
    | .svc n => accessSvc s a n device fin
    | _ => s

/-- The words of a record that has been read, or POISON at its first poisoned byte; `late` for a read of host memory that
timed out (R67). -/
def recordRead (s : State) (c k : Nat) (va : Word) (p : Phys) (n : Nat) (late : Bool) (fin : State → List Word → State) : State :=
  match physRead s p n with
  | (_, some i) => poisonCur s 0 (va.toNat + i)
  | (bs, none) => if late then poisonCur s 0 va.toNat else fin (signAccess s c k va.toNat n false) (wordsOf (n / 8) bs)

/-- The read of a record that the executing sequencer waits for. -/
def recordReq (s : State) : Option Req :=
  match curWait s with | .request id => s.reqs.find? fun r => r.id == id | _ => none

/-- A load of a record by a context's sequencer: `n` bytes in one access (R314, R326, R328). In a turn that leaves accesses in
flight a record in host memory is sent for (R67): a request of unit 6, which no release waits for. -/
def readRecord (s : State) (c k : Nat) (va : Word) (n align : Nat) (fin : State → List Word → State) : State :=
  let x := ctxOf s c k
  if va.toNat % align ≠ 0 then faultGlobal s va 0 (bareFault .align)
  else
  match recordReq s with
  | some r =>
    (match r.answer with
     | some (_, bad) =>
       recordRead (waitIn { s with reqs := s.reqs.filter fun y => y.id != r.id } .none) c k va
         { pa := r.pa, leaf := if r.host then 0x200 else 0 } n bad fin
     | none => s)
  | none =>
    match translate s c x.r.xlroot va needLoad with
    | (t, .error f) => faultGlobal t va 0 f
    | (t, .ok p) =>
      if scoreStalls (coreOf t c) (globalRng (asidOf x) va.toNat n) false || !mayRead t (.unit c k 0) p n then waitIn t .none
      else
        match admitted t c k n (atSeq k) with
        | (u, false) => waitIn u .none
        | (u, true) =>
          if u.deferred && p.host then
            let r := newReq u (.unit c k 6) (asidOf x) va.toNat p false (.load n)
            waitIn (launch u r) (.request r.id)
          else recordRead (physFetch u p n) c k va p n false fin

end Sys2Proof.Machine
end

