-- ==== Sys2Proof/Machine/Tags.lean ====
section
/-! DEFINITION. Tokens, colours and iteration tags (R149–R157). -/
namespace Sys2Proof.Machine

/-! ### Colours (R149–R153) -/

/-- The state of a colour: its width and whether it drains, when it is not FREE. -/
def colourOf (x : Ctx) (c : Byte) : Option (Nat × Bool) := look x.colours c.toNat
/-- Whether a colour is ACTIVE. -/
def colourActive (x : Ctx) (c : Byte) : Bool := match colourOf x c with | some (_, d) => !d | none => false
/-- The granted width of a colour. -/
def colourWidth (x : Ctx) (c : Byte) : Nat := match colourOf x c with | some (g, _) => g | none => 1
/-- Entries a width occupies; a null token takes one (R171, R273). -/
def entriesFor (g : Nat) : Nat := max 1 ((g + 3) / 4)
/-- Entries a context's colours reserve in each element. -/
def reserved (x : Ctx) : Nat := x.colours.foldl (fun n p => n + entriesFor p.2.1) 0
/-- The context's free reserve F. -/
def freeReserve (x : Ctx) : Nat := x.quota - reserved x
/-- Whether a context holds a slot (R406). -/
def CtxState.resident (t : CtxState) : Bool :=
  match t with | .free => false | .saved => false | .lost => false | _ => true
/-- ACTIVE and DRAINING colours of a core. -/
def coreColours (x : Core) : Nat :=
  x.ctxs.foldl (fun n p => if p.2.r.state.resident then n + p.2.colours.length else n) 0
/-- The lowest inactive colour number. -/
def freeColour (x : Ctx) : Option Nat := (List.range 255).find? fun n => (look x.colours n).isNone

/-- R150's grant: the colour and width, none on a refusal. -/
def grantColour (y : Core) (k w : Nat) : Option (Nat × Nat) :=
  let x := ctxIn y k
  match freeColour x with
  | none => none
  | some n => if freeReserve x = 0 ∨ 64 ≤ coreColours y then none else some (n, min w (4 * freeReserve x))

/-! ### The tokens of a context (R152, R154) -/

/-- Tokens of a flight list. -/
def flightToks (l : List Flight) : List Token := l.map (·.tok)

/-- Every token of a context, wherever it is. -/
def tokensOf (s : State) (c k : Nat) : List Token :=
  let x := coreOf s c
  let ctx := ctxIn x k
  let here (p : Nat × Elem) : List Token :=
    let e := p.2
    (e.store.filter fun m => m.way == k).flatMap (fun m => m.opnds.map (·.2)) ++
    (e.ready.filter fun r => r.way == k).flatMap (·.toks) ++
    (match e.issuing with | some r => if r.way = k then r.toks else [] | none => []) ++
    (between e.ports (4 * k) (4 * k + 4)).flatMap fun q => [q.2.even, q.2.odd]
  x.elems.flatMap here ++
  (x.skid.filter fun p => p.1 / 40 % 4 == k).flatMap (fun p => flightToks p.2) ++
  (x.hport.filter fun p => p.1 % 4 == k).flatMap (fun p => flightToks p.2) ++
  (x.hpOut.filter fun p => p.1 % 4 == k).flatMap (fun p => flightToks p.2) ++
  (x.door.filter fun p => p.1 == k).map (·.2.tok) ++
  (x.results.filter fun r => r.way == k).flatMap (fun r => [r.even, r.odd]) ++
  (x.loads.filter fun r => r.firing.way == k).flatMap (fun r => [r.firing.even, r.firing.odd]) ++
  (x.hold.filter fun r => r.2.1.way == k).flatMap (·.2.1.toks) ++
  ctx.ovf.map (·.2.tok) ++ flightToks ctx.ckpt ++ ctx.ckptPort.map (·.2.tok) ++
  s.packets.filterMap fun p =>
    match p.load with | .tok j f => if p.dstUnit = c ∧ j = ctx.task then some f.tok else none | _ => none

/-- Whether tag a is older than tag b (R154). -/
def older (a b : Half) : Bool := a != b && (b - a).toNat < 32768

/-- The iterations outstanding of a colour. -/
def outstanding (s : State) (c k : Nat) (col : Byte) : List Half :=
  ((tokensOf s c k).filter fun t => t.colour == col).map (·.iter) ++
    ((ctxOf s c k).insts.filter fun i => i.colour == col && i.state != .discarded).map (·.iter)

/-- The oldest of a list of tags. -/
def oldestOf : List Half → Option Half
  | [] => none
  | a :: r => match oldestOf r with | none => some a | some b => some (if older b a then b else a)

/-- The oldest outstanding tag of a colour (R154). -/
def oldestTag (s : State) (c k : Nat) (col : Byte) : Option Half := oldestOf (outstanding s c k col)

/-- Whether a token of a colour may be created with an iteration (R155). -/
def tagOpen (s : State) (c k : Nat) (col : Byte) (n : Half) : Bool :=
  match oldestTag s c k col with | none => true | some o => (n - o).toNat < 32768

end Sys2Proof.Machine
end

