-- ==== Sys2Proof/Machine/CopyEng.lean ====
section
/-! DEFINITION. Copies (R55–R58, R130, R131, R313–R317): COPY, CPWAIT and CPQRY of the sequencer, and the copy
engine's events. -/
namespace Sys2Proof.Machine

/-! ### Descriptors -/

/-- Whether a side's typed-buffer operand has zeros outside the handle and the offset. -/
def sideOk (sp : Nat) (w : Word) : Bool := sp == 0 || field w 20 12 == 0

/-- A copy with nothing done. -/
def newCopy (id : Nat) (key : Half) (asid : Nat) (ws : List Word) (code : Nat) (tag : Option (Byte × Half)) (age : Nat)
    (given : Bool) : Copy :=
  { id := id, key := key, elemIssued := tag, words := ws, asid := BitVec.ofNat 12 asid, code := code, chunks := [], xb := 0,
    poison := false, largest := 0, stop := none, age := age, given := given, kept := [], fetch := none }

/-- Whether R313 to R315 refuse a descriptor. -/
def copyIllegal (asid : Nat) (ws : List Word) : Bool :=
  let w0 := dw ws 0
  let conv := cpConv ws
  let rnd := field w0 54 3
  let y := newCopy 0 0 asid ws 0 none 0 false
  field w0 48 6 != 0 || field (dw ws 1) 48 16 != 0 || field (dw ws 4) 48 13 != 0 || field (dw ws 5) 0 56 != 0 ||
    dw ws 6 != 0 || dw ws 7 != 0 || !sideOk (field w0 60 2) w0 || !sideOk (field w0 62 2) (dw ws 1) ||
    rnd == 4 || rnd == 6 || rnd == 7 || ((conv == 0 || conv == 7) && rnd != 0) ||
    cpRows ws == 0 || cpRowBytes ws == 0 || cpRowBytes ws % convUnit conv != 0 ||
    ((dw ws 4).getLsbD 61 && (field (dw ws 4) 0 3 != 0 || !sideOk (field (dw ws 4) 62 2) (dw ws 4))) ||
    ((dw ws 5).getLsbD 63 && (dw ws 5).getLsbD 62 && conv == 0) ||
    (!(dw ws 5).getLsbD 63 && field (dw ws 5) 56 6 != 0) ||
    ((cpReads y).meets (cpWrites y) && !(conv == 0 && (cpRows ws == 1 || cpSStride ws == cpDStride ws)))

/-- Whether a handle is being given away. -/
def draining (s : State) (c : Nat) (h : Half) : Bool :=
  match (descOf (coreOf s (handleCore c h)) (hSpace h) (hIndex h)).st with | .draining _ _ => true | _ => false

/-- The handles a copy's descriptor names. -/
def copyHandles (ws : List Word) : List Half :=
  (if field (dw ws 0) 60 2 = 0 then [] else [(dw ws 0).extractLsb' 32 16]) ++
  (if field (dw ws 0) 62 2 = 0 then [] else [(dw ws 1).extractLsb' 32 16]) ++
  (if (dw ws 4).getLsbD 61 = false ∨ field (dw ws 4) 62 2 = 0 then [] else [(dw ws 4).extractLsb' 32 16])

/-- A copy taken into the scoreboard for a context (R314). -/
def issueCopy (s : State) (c k : Nat) (ws : List Word) (code : Nat) (tag : Option (Byte × Half)) (age : Nat) : State :=
  let x := ctxOf s c k
  let y := newCopy x.copyId.toNat x.r.key (asidOf x) ws code tag age ((copyHandles ws).any (draining s c))
  modCtx (modCore s c fun z => { z with copies := z.copies ++ [y] }) c k fun z => { z with copyId := z.copyId + 1 }

/-- COPY of the sequencer (R314). -/
def copyOp (d : Reg) (va : Word) (c k : Nat) (s : State) : State :=
  if va.toNat % 64 = 0 ∧ 16 ≤ (coreOf s c).copies.length then waitIn s (curWait s)
  else
    readRecord s c k va 64 64 fun t ws =>
      if copyIllegal (asidOf (ctxOf t c k)) ws then trapCur t .illop
      else
        match handOver t c k 0 with
        | (u, false) => waitIn u .none
        | (u, true) =>
          let id := (ctxOf u c k).copyId
          retireS (issueCopy u c k ws (curSeq u).pc.toNat none 0) d (id.setWidth 64) 1

/-- COPY (R314). -/
def execCopy (g : Guard) (d a : Reg) (s : State) : Out :=
  .next (guarded g s fun t => ctxOnly t (copyOp d (srcS t a)))

/-- CPWAIT's effect (R317). -/
def cpwaitOp (v : Word) (c k : Nat) (s : State) : State :=
  let key := (ctxOf s c k).r.key
  let mine (y : Copy) : Bool := y.key == key
  if v = BitVec.allOnes 64 then
    (if (coreOf s c).copies.any mine then waitIn s .none else retire s 1)
  else if above v 8 then trapCur s .illop
  else if (coreOf s c).copies.any fun y => mine y && y.id == v.toNat then waitIn s .none
  else retire s 1

/-- CPWAIT (R317). -/
def execCpwait (g : Guard) (a : Reg) (s : State) : Out :=
  .next (guarded g s fun t => ctxOnly t (cpwaitOp (srcS t a)))

/-- Whether an entry waits for an earlier one (R57). -/
def copyWaits : List Copy → Copy → Bool
  | [], _ => false
  | e :: r, y =>
    if e.id = y.id ∧ e.key = y.key then false
    else (cpWrites y).meets (cpReads e) || (cpWrites y).meets (cpWrites e) || (cpReads y).meets (cpWrites e) || copyWaits r y

/-- CPQRY's word (R317). -/
def copyWord (chunks : Nat) (xb : Xb) (st : Nat) : Word :=
  BitVec.ofNat 64 (chunks % 2 ^ 32) ||| place xb.toNat 32 ||| place st 38

/-- CPQRY's effect: the most recent copy of an id; an id never used reads as retired with no chunk. -/
def cpqryOp (d : Reg) (v : Word) (c k : Nat) (s : State) : State :=
  let x := coreOf s c
  let ctx := ctxIn x k
  let id := field v 0 8
  let r :=
    match (x.copies.filter fun y => y.key == ctx.r.key && y.id == id).reverse with
    | y :: _ =>
      copyWord y.chunks.length y.xb (if y.stop.isSome then 3 else if copyWaits x.copies y then 2 else 1)
    | [] => lookD ctx.copies id 0
  retireS s d r 1

/-- CPQRY (R317). -/
def execCpqry (g : Guard) (d a : Reg) (s : State) : Out :=
  .next (guarded g s fun t => ctxOnly t (cpqryOp d (srcS t a)))

/-! ### Reaching memory in pieces -/

/-- Cuts a global range at 4 KiB boundaries. -/
def pieces : Nat → Nat → Nat → List (Nat × Nat)
  | 0, _, _ => []
  | fuel + 1, va, n =>
    if n = 0 then []
    else let m := min n (4096 - va % 4096); (va, m) :: pieces fuel (va + m) (n - m)

/-- A place of a chunk: in host or HBM memory, or in a typed buffer. -/
inductive Spot where
  | phys (p : Phys)
  | buf (p : BufPlace)
  deriving DecidableEq, Repr

/-- A fault of an engine's access: the cause, the address as R37 records it, ENTRY, LEVEL, and whether the access crosses
a 4 KiB boundary (R19; an engine's access is one row of a chunk, or one stored range). -/
structure EFault where
  cause : Cause
  addr  : Nat
  space : Nat
  entry : Word
  level : Nat
  straddle : Bool
  unbacked : Bool
  deriving DecidableEq, Repr

/-- A fault of a translation as an engine's. -/
def XFault.engine (f : XFault) (va : Nat) (straddle : Bool) : EFault :=
  { cause := f.cause, addr := va % 2 ^ 48, space := 0, entry := f.entry, level := f.level, straddle := straddle,
    unbacked := f.unbacked }

/-- Finds the pieces of a global range for a unit of a core; the first that faults ends it. -/
def findPieces (s : State) (c : Nat) (root : Word) (nd : Need) : List (Nat × Nat) → State × Except EFault (List (Spot × Nat))
  | [] => (s, .ok [])
  | (va, n) :: r =>
    match translate s c root (BitVec.ofNat 64 va) nd with
    | (t, .error f) => (t, .error (f.engine va false))
    | (t, .ok p) =>
      match findPieces t c root nd r with
      | (u, .error f) => (u, .error f)
      | (u, .ok l) => (u, .ok ((.phys p, n) :: l))

/-- Finds a range of a space: 0 global, else a typed buffer by handle, of an access issued now or earlier. -/
def findRange (issued : Bool) (s : State) (c k : Nat) (u : BufUnit) (sp : Nat) (h : Half) (at_ : Int) (n : Nat) (write : Bool) :
    State × Except EFault (List (Spot × Nat)) :=
  if sp = 0 then
    let va := (BitVec.ofInt 64 at_).toNat
    match findPieces s c (ctxOf s c k).r.xlroot (if write then needStore else needLoad) (pieces (n / 4096 + 2) va n) with
    | (t, .error f) => (t, .error { f with straddle := 4096 < va % 4096 + n })
    | x => x
  else
    let off := (BitVec.ofInt 64 at_).toNat
    match bufCheckOf issued s c k u h (some (sp - 1)) off n write with
    | .error cause => (s, .error { (bareFault cause).engine 0 false with addr := bufAddr h off, space := sp })
    | .ok p => (s, .ok [(.buf p, n)])

/-- Whether a near-memory lock, or an earlier request on their lines, holds one of the places (R97, R66). -/
def spotsHeld (s : State) (l : List (Spot × Nat)) : Bool :=
  l.any fun x => match x.1 with | .phys p => !p.host && (isLocked s p.pa x.2 || lineTaken s p.pa x.2 none) | .buf _ => false

/-- What reading places leaves in the slices. -/
def fetchSpots (s : State) (l : List (Spot × Nat)) : State :=
  l.foldl (fun t x => match x.1 with | .phys p => physFetch t p x.2 | .buf _ => t) s

/-- The narrow ports grant one access to the places in typed buffers (R49): core and space by space, all their rows at
once; none when one does not. -/
def grantSpots (s : State) (who : Nat) (l : List (Spot × Nat)) : Option State :=
  let rows : List (Nat × Nat × List Nat) := l.filterMap fun x =>
    match x.1 with | .buf p => some (p.core, p.space, unitsOf 128 p.at_ x.2) | .phys _ => none
  (rows.map fun r => (r.1, r.2.1)).eraseDups.foldl (fun o key =>
    match o with
    | none => none
    | some t => grantRows t key.1 key.2 ((rows.filter fun r => (r.1, r.2.1) == key).flatMap (·.2.2)) who) (some s)

/-- Bytes of global memory among the places, as the port charges them (R104). -/
def spotCharge (l : List (Spot × Nat)) : Nat := l.foldl (fun n x => match x.1 with | .phys _ => n + x.2 | .buf _ => n) 0

/-- Reads places: bytes, each with whether it is poisoned. -/
def readSpots (s : State) (l : List (Spot × Nat)) : List (Byte × Bool) :=
  l.flatMap fun x =>
    match x.1 with
    | .phys p =>
      (List.range x.2).map fun i =>
        if p.host then (readByte s.hostMem (p.pa + i), false)
        else (seenByte s (p.pa + i), sectorPoisoned s (p.pa + i))
    | .buf p =>
      let y := coreOf s p.core
      let m := lookD y.tbuf p.space []
      (List.range x.2).map fun i =>
        if rowPoisoned y p.space (p.at_ + i) then (0, true) else (readByte m (p.at_ + i), false)

/-- Poisons the sectors or rows of the bytes flagged. -/
def poisonSpot (s : State) (x : Spot) (flags : List Bool) : State :=
  ((List.range flags.length).filter fun i => nth flags i false).foldl (fun t i =>
    match x with
    | .phys p => if p.host then t else poisonSector t ((p.pa + i) / 64)
    | .buf p => modCore t p.core fun y => coverRow y p.space p.at_ 0 ((p.at_ + i) / 64) true) s

/-- Writes places; bytes flagged as poisoned leave their sectors or rows poisoned (R86). -/
def writeSpots (s : State) (asid : Nat) : List (Spot × Nat) → List (Byte × Bool) → State
  | [], _ => s
  | (x, n) :: r, bs =>
    let now := bs.take n
    let t := match x with
      | .phys p => physWrite s asid p (now.map (·.1)) false
      | .buf p => bufWrite s p (now.map (·.1)) false
    writeSpots (poisonSpot t x (now.map (·.2))) asid r (bs.drop n)

/-! ### Chunks -/

/-- The pieces of rows that a run of source bytes covers: row, offset, bytes. -/
def segments : Nat → Nat → Nat → Nat → List (Nat × Nat × Nat)
  | 0, _, _, _ => []
  | fuel + 1, rb, p, n =>
    if n = 0 then []
    else let m := min n (rb - p % rb); (p / rb, p % rb, m) :: segments fuel rb (p + m) (n - m)

def copyTotal (ws : List Word) : Nat := cpRows ws * cpRowBytes ws
def copyChunks (ws : List Word) : Nat := (copyTotal ws + 4095) / 4096

/-- Converts one unit of source bytes (R313): destination bytes, exception bits, and its values for R316. -/
def convertUnit (conv md phase pos : Nat) (bs : List Byte) : List Byte × Xb × List Num :=
  let rnd : Rnd := if md = 5 then kbRnd 5 phase pos else rnd2 md
  let x := leNat bs
  let one (f : Fmt) (n : Nat) : List Byte × Xb × List Num :=
    let v := fp32.read x
    let (r, b) := roundNum f rnd true v
    (natLE n r, b, [v])
  let kb (k n : Nat) : List Byte × Xb × List Num :=
    let vs := (List.range 16).map fun i => fp32.read (leNat ((bs.drop (4 * i)).take 4))
    let (r, b) := kbWrite k md phase vs
    (natLE n r, b, vs)
  match conv with
  | 0 => (bs, 0, [])
  | 1 => one bf16 2
  | 2 => one e4m3 1
  | 3 => one e5m2 1
  | 4 => kb 7 18
  | 5 => kb 4 12
  | 6 => kb 2 8
  | _ => let v := bf16.read x; (natLE 4 (fp32.write v), 0, [v])

/-- Converts a segment unit by unit; a unit with a poisoned byte gives poisoned zeros, and for R316 its poisoned bytes are
zeros. -/
def convertRun (conv md phase : Nat) : Nat → Nat → List (Byte × Bool) → List (Byte × Bool) × Xb × List Num
  | 0, _, _ => ([], 0, [])
  | fuel + 1, pos, bs =>
    if bs.isEmpty then ([], 0, [])
    else
      let u := bs.take (convUnit conv)
      let bad := u.any (·.2)
      let (o, b, vs) := convertUnit conv md phase pos (u.map fun x => if x.2 then 0 else x.1)
      let (o2, b2, vs2) := convertRun conv md phase fuel (pos + 1) (bs.drop (convUnit conv))
      (o.map (fun x => (if bad then 0 else x, bad)) ++ o2, (if bad then xPS else b) ||| b2, vs ++ vs2)

/-- The larger magnitude of a running FP32 value and further values; any NaN gives the canonical NaN (R316). -/
def largestOf (m : W32) (vs : List Num) : W32 :=
  vs.foldl (fun a v => BitVec.ofNat 32 (fp32.write (maxNum (fp32.read a.toNat) (absNum v)))) m

/-- The slot of the resident context with a key. -/
def slotOf (x : Core) (key : Half) : Option Nat :=
  match x.ctxs.find? fun p => p.2.r.key == key && p.2.r.state != .free && p.2.r.state != .lost with
  | some p => some p.1
  | none => none

/-- Whether the engines of a context may take a further unit of work (R399, R402, R411). -/
def engineMoves (s : State) (c k : Nat) : Bool :=
  let x := ctxOf s c k
  (x.r.state == .running || x.r.state == .gated) && x.gates < 2 && x.trap.isNone

/-- Whether a copy goes on: its context's engines move, or, while that is gated, a handle it names drains, whose issued
accesses are performed (R54). -/
def copyMoves (s : State) (c k : Nat) (y : Copy) : Bool :=
  let x := ctxOf s c k
  engineMoves s c k || (x.r.state == .gated && x.trap.isNone && !y.given && (copyHandles y.words).any (draining s c))

/-- Changes a copy of a core. -/
def modCopy (s : State) (c : Nat) (y : Copy) (f : Copy → Copy) : State :=
  modCore s c fun x => { x with copies := updFirst x.copies (fun z => z.id == y.id && z.key == y.key) f }

/-- Logs a refused access of an engine of a context (R43). -/
def violEngine (s : State) (c asid acc : Nat) (f : EFault) : State :=
  if f.space = 0 then (if logged f.cause f.unbacked then violGlobal s c asid f.addr acc f.cause else s)
  else violBuf s c asid (BitVec.ofNat 16 (f.addr / 2 ^ 32)) (f.addr % 2 ^ 20) acc f.cause

/-- A copy stops at a fault (R35); one that a locked page-table entry holds waits. -/
def stopCopy (s : State) (c k : Nat) (y : Copy) (kind : Nat) (f : EFault) : State :=
  if f.cause = .none then s
  else
    let acc := if kind = 6 then 1 else if kind = 2 then 2 else 0
    let (t, n) := takeFault (violEngine s c y.asid.toNat acc f) c k
      { seqFault f.cause kind f.space f.addr y.code f.entry f.level with unit := 2, straddle := f.straddle }
    match n with
    | some m => modCopy t c y fun z => { z with stop := some m, fetch := none }
    | none => t

/-- The lower of two faults by the address R37 records; the first where they are equal (R36). One that only waits for a
lock is lower than any. -/
def lowerFault (a b : Option (Nat × EFault)) : Option (Nat × EFault) :=
  match a, b with
  | none, _ => b
  | _, none => a
  | some x, some y => if x.2.cause ≠ .none ∧ (y.2.cause = .none ∨ y.2.addr < x.2.addr) then b else a

/-- The first byte of a segment's row on one side. -/
def segAt (ws : List Word) (write : Bool) (row off : Nat) : Int :=
  let w := dw ws (if write then 1 else 0)
  let base : Int := if field (dw ws 0) (if write then 62 else 60) 2 = 0 then field w 0 48 else field w 0 20
  base + row * (if write then cpDStride ws else cpSStride ws) + (if write then convBytes (cpConv ws) off else off : Nat)

/-- Finds the segments of one side of a chunk: the lowest fault, with its KIND, and the places. -/
def findSegs (s : State) (c k : Nat) (y : Copy) (write : Bool) :
    List (Nat × Nat × Nat) → State × Option (Nat × EFault) × List (Spot × Nat)
  | [] => (s, none, [])
  | (row, off, n) :: r =>
    let ws := y.words
    let w := dw ws (if write then 1 else 0)
    let u : BufUnit := if y.elemIssued.isSome then 5 else 4
    let m := if write then convBytes (cpConv ws) n else n
    match findRange (!y.given) s c k u (field (dw ws 0) (if write then 62 else 60) 2) (BitVec.ofNat 16 (field w 32 16))
        (segAt ws write row off) m write with
    | (t, .error f) =>
      let (v, g, l) := findSegs t c k y write r
      (v, lowerFault (some (if write then 6 else 5, f)) g, l)
    | (t, .ok l) =>
      let (v, g, l2) := findSegs t c k y write r
      (v, g, l ++ l2)

/-- Whether a copy's ranges overlap (R315). -/
def Copy.overlaps (y : Copy) : Bool := (cpReads y).meets (cpWrites y)

/-- The chunk a copy takes next: any that is left, or, where its ranges overlap, the next in its direction: ascending source
addresses when DST lies below SRC, and chunks ascend with their rows' addresses (R315). -/
def nextChunk (y : Copy) (choice : Nat) : Option Nat :=
  let n := copyChunks y.words
  match y.fetch with
  | some (j, _) => some j
  | none =>
    if y.overlaps then
      let d := y.chunks.length
      if n ≤ d then none
      else if decide ((cpWrites y).lo < (cpReads y).lo) == decide (0 ≤ cpSStride y.words) then some d else some (n - 1 - d)
    else
      let left := (List.range n).filter fun i => !y.chunks.contains i
      match left with | [] => none | i :: _ => some (nth left choice i)

/-- The addresses of a chunk's bytes on one side, in order. -/
def segCells (ws : List Word) (write : Bool) (segs : List (Nat × Nat × Nat)) : List Nat :=
  segs.flatMap fun p => (List.range p.2.2).map fun (i : Nat) => (BitVec.ofInt 48 (segAt ws write p.1 p.2.1 + (i : Int))).toNat

/-- The bytes a chunk reads; an overlapping copy's as they were before it wrote any (R315). -/
def chunkBytes (y : Copy) (segs : List (Nat × Nat × Nat)) (l : List (Byte × Bool)) : List (Byte × Bool) :=
  if y.overlaps then (l.zip (segCells y.words false segs)).map fun p => lookD y.kept p.2 p.1 else l

/-- The source bytes that a chunk of an overlapping copy is about to overwrite, kept as they were. -/
def keepBytes (y : Copy) (segs : List (Nat × Nat × Nat)) (old : List (Byte × Bool)) : NMap (Byte × Bool) :=
  if y.overlaps then
    (old.zip (segCells y.words true segs)).foldl (fun m p => if (look m p.2).isSome then m else put m p.2 p.1) y.kept
  else []

/-- Sends the reads of a chunk's bytes of host memory. -/
def sendFetch (s : State) (c k : Nat) (y : Copy) (j : Nat) (l : List (Spot × Nat)) : State :=
  let (t, ids) := l.foldl (fun (a : State × List Nat) x =>
    match x.1 with
    | .phys p => if p.host then
        let r := newReq a.1 (.unit c k 2) y.asid.toNat 0 p false (.load x.2); (launch a.1 r, a.2 ++ [r.id]) else a
    | .buf _ => a) (s, [])
  modCopy t c y fun z => { z with fetch := some (j, ids) }

/-- Whether places include host memory. -/
def hostSpots (l : List (Spot × Nat)) : Bool := l.any fun x => match x.1 with | .phys p => p.host | .buf _ => false

/-- The source bytes of a chunk as they come: those of host memory poisoned where a read of it has timed out (R67). -/
def spotBytes (s : State) (y : Copy) (l : List (Spot × Nat)) : List (Byte × Bool) :=
  let late : Bool := match y.fetch with
    | some (_, ids) => s.reqs.any fun r => ids.contains r.id && (match r.answer with | some (_, b) => b | none => false)
    | none => false
  l.flatMap fun x =>
    (readSpots s [x]).map fun b => if late && hostSpots [x] then (0, true) else b

/-- The writes of a chunk, its exception bits, and what it leaves of the copy. -/
def writeChunk (s : State) (c k : Nat) (y : Copy) (j : Nat) (segs : List (Nat × Nat × Nat)) (src dst : List (Spot × Nat)) : State :=
  let ws := y.words
  let conv := cpConv ws
  let bytes := chunkBytes y segs (spotBytes s y src)
  let (out, xb, vals) := convertRun conv (field (dw ws 0) 54 3) j 4097 (4096 * j / convUnit conv) bytes
  let bad := bytes.any (·.2)
  let kept := keepBytes y segs (readSpots s dst)
  let ids := match y.fetch with | some (_, l) => l | none => []
  let t := { s with reqs := s.reqs.filter fun r => !ids.contains r.id }
  let w := writeSpots (fetchSpots t src) y.asid.toNat dst out
  let s1 := if field (dw ws 0) 60 2 = 0 then signAccess w c k (field (dw ws 0) 0 48) (copyTotal ws) false else w
  let s2 := if field (dw ws 0) 62 2 = 0 then signAccess s1 c k (field (dw ws 1) 0 48) (convBytes conv (copyTotal ws)) true else s1
  markProgress (modCopy s2 c y fun z =>
    { z with chunks := z.chunks ++ [j], xb := z.xb ||| xb ||| (if bad then xPS else 0), poison := z.poison || bad,
             largest := if conv = 0 then z.largest else largestOf z.largest vals, kept := kept, fetch := none }) c k

/-- One chunk of a copy: read whole, then written (R315). A fault stops the copy there once the chunks before it are
complete (R35): until then the engine turns to those. -/
def copyChunkOp (s : State) (c k : Nat) (y : Copy) (choice : Nat) : State :=
  match nextChunk y choice with
  | none => s
  | some j =>
    let n := min 4096 (copyTotal y.words - 4096 * j)
    let segs := segments n (cpRowBytes y.words) (4096 * j) n
    let (t, f, src) := findSegs s c k y false segs
    let (v, g, dst) := findSegs t c k y true segs
    match lowerFault f g with
    | some (kind, e) =>
      if !y.overlaps && (List.range j).any fun i => !y.chunks.contains i then v else stopCopy v c k y kind e
    | none =>
      let asked := match y.fetch with | some (_, ids) => ids | none => []
      if spotsHeld v src || spotsHeld v dst || asked.any (reqOpen v) then v
      else
        match admitted v c k (spotCharge src + spotCharge dst) (atCopy k y.id) with
        | (u, false) => u
        | (u, true) =>
          if y.fetch.isNone && u.deferred && hostSpots src then sendFetch u c k y j src
          else
            match grantSpots u portCopy (src ++ dst) with
            | none => v
            | some w => writeChunk w c k y j segs src dst

/-- COPY_CHUNK (R315): the copy `i mod 16` of the scoreboard takes one of its chunks, chosen by `i div 16`. -/
def execCopyChunk (c i : Nat) (s : State) : Out :=
  .next (
    let x := coreOf s c
    match x.copies[i % 16]? with
    | none => s
    | some y =>
      match slotOf x y.key with
      | none => s
      | some k =>
        if !copyMoves s c k y || y.stop.isSome || copyWaits x.copies y then s
        else copyChunkOp s c k y (i / 16))

/-- The contribution of a copy, or IV when the register does not suit it (R316). -/
def copyContributes (s : State) (c k : Nat) (y : Copy) : State × Xb :=
  let w := dw y.words 5
  if !w.getLsbD 63 then (s, 0)
  else
    let n := field w 56 6
    let d := (lamOf (ctxOf s c k) n).decl
    let big := w.getLsbD 62
    let ok := declared d &&
      (if big then declOp d == opMAXABS && declFmt d ≤ 1 else declOp d == opIADD && 2 ≤ declFmt d)
    if !ok then (s, xIV)
    else
      let xb : Xb := if y.poison then xPS else 0
      let xu : BitVec 7 := if y.poison then 67 else 0x7F
      let r := lamRec d (fp32.read y.largest.toNat) (copyTotal y.words : Nat) xb xu
      (contribute s c k unitCopy n (oneLane (declWidth d) 0 r), 0)

/-- A destination as a switch-table entry of KIND element (R184). -/
def destEntry (d : Dest) : Word := place 1 63 ||| place d.elem 55 ||| place d.slot 50 ||| place d.opnd 48

/-- A token sent out by a hard port of a context's way. A token whose unit names no destination entry reaches the
element at which its route drops at a slot and operand that the spec does not give: a free value (log 2, log 16). -/
def hpEmit (s : State) (c k port : Nat) (t : Token) (to_ : Option Dest) : State :=
  let (w, s1) := match to_ with | some _ => ((0 : Word), s) | none => drawFree s
  let d : Dest := match to_ with
    | some d => d | none => { elem := 0, slot := field w 0 5, opnd := field w 5 2 }
  modCore s1 c fun x =>
    { x with hpOut := put x.hpOut (port * 4 + k) (lookD x.hpOut (port * 4 + k) [] ++
        [{ tok := t, dest := d, entry := destEntry d, origin := (64 + port, 0), hops := 0 }]) }

/-- A token of a colour with one value in lane 0 (R314). -/
def lane0Token (x : Ctx) (colour : Byte) (iter : Half) (v : W32) (src : Nat) : Token :=
  let g := (lookD x.colours colour.toNat (1, false)).1
  { colour := colour, iter := iter, lanes := (List.range (max g 1)).map fun i => if i = 0 then v else 0, xb := 0,
    last := false, src := src }

/-- A copy's completion token waits while its tag may not be created (R155). -/
def copyTagOpen (s : State) (c k : Nat) (y : Copy) : Bool :=
  match y.elemIssued with | some (col, it) => tagOpen s c k col (it + 1) | none => true

/-- A copy retires (R315, R316, R131): contribution, completion object, entry freed, completion token. -/
def retireCopy (s : State) (c k : Nat) (y : Copy) : State :=
  let w := dw y.words 4
  let done (t : State) : State :=
    let (t1, b) := copyContributes t c k y
    let word := copyWord y.chunks.length (y.xb ||| b) 0
    let t2 := modCore t1 c fun x => { x with copies := x.copies.filter fun z => !(z.id == y.id && z.key == y.key) }
    let t3 := markProgress (modCtx t2 c k fun x => { x with copies := put x.copies y.id word }) c k
    match y.elemIssued with
    | some (col, it) => hpEmit t3 c k 23 (lane0Token (ctxOf t3 c k) col (it + 1) (BitVec.ofNat 32 y.id) 0) none
    | none => t3
  if !copyTagOpen s c k y then s
  else if !w.getLsbD 61 then done s
  else
    let sp := field w 62 2
    let at_ : Int := if sp = 0 then field w 0 48 else field w 0 20
    let u : BufUnit := if y.elemIssued.isSome then 5 else 4
    match findRange (!y.given) s c k u sp (BitVec.ofNat 16 (field w 32 16)) at_ 8 true with
    | (t, .error f) => stopCopy t c k y 2 f
    | (t, .ok l) =>
      if spotsHeld t l then t
      else
        match (if sp = 0 then admitted t c k 16 (atCopy k y.id) else (t, true)), grantSpots t portCopy l with
        | (v, false), _ => v
        | _, none => t
        | (v, true), some g =>
          let u0 := if sp = 0 then fetchSpots v l else g
          let bs := readSpots u0 l
          if bs.any (·.2) then
            takeTrap (modCtx u0 c k fun x => { x with flowLatch := match x.flowLatch with
                | some v => some v | none => some (place sp 60 ||| BitVec.ofNat 64 (field w 0 48)) })
              c k (plainTrap .poison 2) false
          else
            let u1 := done u0
            let n := (leNat (bs.map (·.1)) + 1) % 2 ^ 64
            writeSpots u1 y.asid.toNat l ((natLE 8 n).map fun b => (b, false))

/-- COPY_RETIRE (R315): after the last chunk. -/
def execCopyRetire (c i : Nat) (s : State) : Out :=
  .next (
    let x := coreOf s c
    match x.copies[i]? with
    | none => s
    | some y =>
      match slotOf x y.key with
      | none => s
      | some k =>
        if !copyMoves s c k y || y.stop.isSome || y.chunks.length < copyChunks y.words then s
        else retireCopy s c k y)

/-- A command token's descriptor faults: the copy command waits in its channel for the record (R35, R41). -/
def stopCommand (s : State) (c k va code : Nat) (f : XFault) : State :=
  if f.cause = .none then s
  else
    match takeFault (violEngine s c (asidOf (ctxOf s c k)) 0 (f.engine va false)) c k
        { seqFault f.cause 0 0 va code f.entry f.level with unit := 2 } with
    | (u, some m) => modCtx u c k fun y => { y with cfgStop := put y.cfgStop 86 m }
    | (u, none) => u

/-- Whether hard port 22 of a context waits for a record: entry 64 + 22 of the stops. -/
def commandStops (x : Ctx) : Bool := match look x.cfgStop 86 with | some n => !isReleased x.r n | none => false

/-- A command token's copy with its descriptor read, or what stops it: after the region's earlier accesses (R128); the
causes of R314 trap with UNIT 2. -/
def commandCopy (s : State) (c k : Nat) (f : Flight) (r : List Flight) : State :=
  let ctx := ctxOf s c k
  let gone (t : State) : State := modCore t c fun y => { y with hport := put y.hport (22 * 4 + k) r }
  let va := (nth f.tok.lanes 0 0).toNat + 2 ^ 32 * field (nth f.tok.lanes 1 0) 0 16
  let code := match ctx.insts.find? fun i => i.age == f.tok.src with | some i => i.va | none => 0
  if f.tok.lanes = [] then gone s
  else if va % 64 ≠ 0 then takeTrap (gone s) c k (plainTrap .align 2) false
  else
    match translate s c ctx.r.xlroot (BitVec.ofNat 64 va) needLoad with
    | (t, .error e) => stopCommand t c k va code e
    | (t, .ok p) =>
      match handOver t c k 1 with
      | (u, false) => u
      | (u, true) =>
        if !mayRead u (.unit c k 2) p 64 then u
        else
          match admitted u c k 64 (atPort k 22) with
          | (v, false) => v
          | (v, true) =>
            match physRead v p 64 with
            | (_, some i) =>
              takeTrap (modCtx (gone v) c k fun y => { y with flowLatch := match y.flowLatch with
                  | some v => some v | none => some (BitVec.ofNat 64 ((va + i) % 2 ^ 48)) }) c k (plainTrap .poison 2) false
            | (bs, none) =>
              let ws := wordsOf 8 bs
              let w := physFetch (gone v) p 64
              if copyIllegal (asidOf ctx) ws then takeTrap w c k (plainTrap .illop 2) false
              else issueCopy w c k ws code (some (f.tok.colour, f.tok.iter)) f.tok.src

/-- COPY_COMMAND_TOKEN (R314): a command token at hard port 22 issues a copy for its context. -/
def execCopyCommandToken (c k : Nat) (s : State) : Out :=
  .next (
    let x := coreOf s c
    match lookD x.hport (22 * 4 + k) [] with
    | [] => s
    | f :: r =>
      if 16 ≤ x.copies.length || !engineMoves s c k || commandStops (ctxIn x k) then s
      else commandCopy (modCtx s c k fun y => { y with cfgStop := del y.cfgStop 86 }) c k f r)

end Sys2Proof.Machine
end

