-- ==== Sys2Proof/Machine/Tokens.lean ====
section
/-! DEFINITION. Placements and block instances (R158–R161), aborting and
re-presenting instances (R35, R36, R41, R465), and the traps of the dataflow region (R396, R397). -/
namespace Sys2Proof.Machine

/-! ### Geometry of the region (R169, R176) -/

/-- Physical column of element-column index k. -/
def physCol (k : Nat) : Nat := if k < 7 then k else if k < 14 then k + 1 else k + 2
def elemRow (e : Nat) : Nat := e / 16
def elemCol (e : Nat) : Nat := physCol (e % 16)
/-- The switch box at an element's position, and at a hard port's (R180). -/
def elemBox (e : Nat) : Nat := elemRow e * 18 + elemCol e
def portBox (h : Nat) : Nat := h % 16 / 4 * 18 + (if h < 16 then 7 else 15)
/-- The box an output's segment leads to, if it exists. -/
def segmentEnd (b o : Nat) : Option Nat :=
  let r := b / 18
  let c := b % 18
  let east (n : Nat) : Option Nat := if c + n < 18 then some (b + n) else none
  let west (n : Nat) : Option Nat := if n ≤ c then some (b - n) else none
  if o < 8 then east 1 else if o < 12 then east 4 else if o < 14 then east 16
  else if o < 22 then west 1 else if o < 26 then west 4 else if o < 28 then west 16
  else if o < 32 then (if 0 < r then some (b - 18) else none)
  else if o < 36 then (if r < 3 then some (b + 18) else none) else none

/-! ### Placements and instances -/

/-- Fields of a map word (R195). -/
def mapElem (w : W32) : Nat := field w 25 6
def mapSlot (w : W32) : Nat := field w 20 5
def mapPort (w : W32) : Nat := field w 18 2

/-- The placement that holds a slot of an element. -/
def placeAt (x : Ctx) (e slot : Nat) : Option Placement :=
  x.places.find? fun p => p.map.any fun w => mapElem w == e && mapSlot w == slot

/-- A placement by its id. -/
def placeOf (x : Ctx) (id : Nat) : Option Placement := x.places.find? fun p => p.id == id

/-- The way of an element. -/
def wayOf (x : Core) (e k : Nat) : Way := lookD (elemIn x e).ways k Way.reset
/-- The word in a slot. -/
def slotWord (x : Core) (e k slot : Nat) : W32 := lookD (wayOf x e k).slots slot 0
/-- Whether a slot holds an instruction. -/
def slotValid (x : Core) (e k slot : Nat) : Bool := (wayOf x e k).slotv.getLsbD slot

/-- Fields of an element word (R225). -/
def wordOpc (w : W32) : Nat := field w 24 8
def wordNt (w : W32) : Nat := field w 20 2
def wordOm (w : W32) : Nat := field w 8 4
def wordLsid (w : W32) : Nat := field w 3 5
def wordOrd (w : W32) : Nat := field w 0 3
/-- The effect instructions of R159: STE and STSC, BST, atomics, AXADD, AXCLR. -/
def isEffect (w : W32) : Bool :=
  wordOpc w == 0xC1 || wordOpc w == 0xC3 || (0xC8 ≤ wordOpc w && wordOpc w ≤ 0xD4) || wordOpc w == 0xD6
/-- The laminated-write instructions: LDECL, PLY, SETTLE. -/
def isLamWrite (w : W32) : Bool := wordOpc w == 0xA0 || wordOpc w == 0xA1 || wordOpc w == 0xA3
/-- Loads that R112 holds a commit for: LDE, BLD, AXRD and, counted as a load (R134), RDL. -/
def isLoad (w : W32) : Bool :=
  (wordOpc w == 0xC0 && wordOrd w != 6) || wordOpc w == 0xC2 || wordOpc w == 0xD5 || wordOpc w == 0xA2
/-- Instructions that carry an LSID: 0xC0–0xD6. -/
def hasLsid (w : W32) : Bool := 0xC0 ≤ wordOpc w && wordOpc w ≤ 0xD6

/-- The instructions of a placement: element × 32 + slot, and the word. -/
def placeWords (x : Core) (k : Nat) (p : Placement) : List (Nat × W32) :=
  p.map.map fun w => (mapElem w * 32 + mapSlot w, slotWord x (mapElem w) k (mapSlot w))

/-- Whether an instance is one whose firings go on. -/
def Inst.live (i : Inst) : Bool := match i.state with | .live => true | .complete => true | _ => false

/-- The instance of a tag in a placement. -/
def instFor (x : Ctx) (p : Placement) (col : Byte) (it : Half) : Option Inst :=
  x.insts.find? fun i => i.place == p.id && i.colour == col && i.iter == it && i.state != .discarded

/-- An instance by its age. -/
def instOf (x : Ctx) (age : Nat) : Option Inst := x.insts.find? fun i => i.age == age

/-- Changes an instance. -/
def modInst (s : State) (c k age : Nat) (f : Inst → Inst) : State :=
  modCtx s c k fun x => { x with insts := updFirst x.insts (fun i => i.age == age) f }

/-- The instances older than one, in age order; none precedes a firing outside any. -/
def olderInsts (x : Ctx) (age : Nat) : List Inst := if age = 0 then [] else x.insts.takeWhile fun i => i.age != age
/-- An instance and the younger ones. -/
def fromInst (x : Ctx) (age : Nat) : List Inst := x.insts.dropWhile fun i => i.age != age
/-- Whether an instance is older than another, both uncommitted. -/
def isOlderInst (x : Ctx) (a b : Nat) : Bool := (olderInsts x b).any fun i => i.age == a

/-! ### Aborting and re-presenting -/

/-- Removes flights whose token an aborted instance made. -/
def cutFlights (ages : List Nat) (l : List Flight) : List Flight := l.filter fun f => !ages.contains f.tok.src

/-- The colour of the tag a stored set belongs to: PACK's is that of its operand 0 (R171, R287). -/
def MEntry.tag (y : Core) (e : Nat) (m : MEntry) : Option Byte :=
  if wordOpc (slotWord y e m.way m.slot) = 0x88 then (match look m.opnds 0 with | some t => some t.colour | none => none)
  else some m.colour

/-- Removes from a core what aborted instances have under way in a way: their sets, and the tokens they made. -/
def purgeWay (y : Core) (k : Nat) (ages : List Nat) : Core :=
  let x := ctxIn y k
  let mine (e : Nat) (m : MEntry) : Bool :=
    match placeAt x e m.slot, m.tag y e with
    | some p, some col => (match instFor x p col m.iter with | some i => ages.contains i.age | none => false)
    | _, _ => false
  let elem (p : Nat × Elem) : Nat × Elem :=
    let e := p.2
    (p.1, { e with
      store := (e.store.filterMap fun m =>
        if m.way ≠ k then some m
        else if mine p.1 m then none
        else
          let l := m.opnds.filter fun t => !ages.contains t.2.src
          if l = [] then none else some { m with opnds := l })
      ready := e.ready.filter fun r => !(r.way == k && ages.contains r.inst)
      issuing := (match e.issuing with | some r => if r.way = k ∧ ages.contains r.inst then none else some r | none => none)
      ports := e.ports.filter fun q => !(q.1 / 4 == k && ages.contains q.2.even.src) })
  let cut (p : Nat × List Flight) : Nat × List Flight := (p.1, cutFlights ages p.2)
  { y with
    elems := y.elems.map elem
    skid := y.skid.map fun p => if p.1 / 40 % 4 = k then cut p else p
    hport := y.hport.map fun p => if p.1 % 4 = k then cut p else p
    hpOut := y.hpOut.map fun p => if p.1 % 4 = k then cut p else p
    door := y.door.filter fun p => !(p.1 == k && ages.contains p.2.tok.src)
    results := y.results.filter fun r => !(r.way == k && ages.contains r.even.src)
    loads := y.loads.filter fun r => !(r.firing.way == k && ages.contains r.firing.even.src)
    hold := y.hold.filter fun r => !(r.2.1.way == k && ages.contains r.2.1.inst)
    ctxs := put y.ctxs k { x with
      ovf := x.ovf.filter fun p => !ages.contains p.2.tok.src
      ckpt := cutFlights ages x.ckpt
      ckptPort := x.ckptPort.filter fun p => !ages.contains p.2.tok.src
      insts := x.insts.map fun i => { i with inputs := i.inputs.filter fun t => !ages.contains t.2.src } } }

/-- An instance with nothing done. -/
def Inst.blank (i : Inst) (st : InstState) : Inst :=
  { i with state := st, closedE := [], closedL := [], exits := 0, exitTok := none, effects := [], loads := [], fired := 0,
           colours := [] }

/-- The requests of loads that are dropped answer nobody: nothing of them is seen (R111). -/
def dropLoads (s : State) (l : List LoadWait) : State :=
  let ids := l.flatMap fun w => w.lanes.filterMap (·.req)
  { s with
    reqs := (s.reqs.filter fun r => !(ids.contains r.id && r.answer.isSome)).map fun r => if ids.contains r.id then { r with who := .hub } else r
    bufreqs := s.bufreqs.filter fun r => !ids.contains r.id }

/-- What instances have under way goes: their sets, tokens and loads; the colours they allocated return (R288). -/
def cutInsts (s : State) (c k : Nat) (gone : List Inst) : State :=
  let ages := gone.map (·.age)
  let s0 := dropLoads s ((coreOf s c).loads.filter fun r => r.firing.way == k && ages.contains r.firing.even.src)
  let s1 := modCore s0 c fun y =>
    leavePort (purgeWay y k ages) fun q => decide (atFiring k 0 ≤ q ∧ q < atFiring (k + 1) 0)
  modCtx s1 c k fun z =>
    { z with colours := z.colours.filter fun p => !(gone.any fun i => i.colours.contains (BitVec.ofNat 8 p.1)) }

/-- The instance and every younger one are aborted (R35, R396): their effects are dropped, and they wait to be
re-presented. -/
def abortFrom (s : State) (c k age : Nat) : State :=
  let gone := (fromInst (ctxOf s c k) age).filter fun i => i.state != .discarded
  let ages := gone.map (·.age)
  let s1 := modCtx (cutInsts s c k gone) c k fun z =>
    { z with insts := z.insts.map fun i => if ages.contains i.age then i.blank .aborted else i }
  gone.foldl (fun t i => trace t c k 6 (place i.colour.toNat 38 ||| i.iter.setWidth 64) 0 (BitVec.ofNat 64 i.va)) s1

/-- A token offered to its element without the tracks. -/
def doorFlight (d : Dest) (t : Token) : Flight := { tok := t, dest := d, entry := 0, origin := (64, 0), hops := 0 }

/-- The sets of a placement's instructions without operands, for an instance (R275). -/
def freeSets (x : Core) (k : Nat) (p : Placement) (i : Inst) : List (Nat × RSet) :=
  (placeWords x k p).filterMap fun w =>
    if wordNt w.2 = 0 then
      some (w.1 / 32, { way := k, slot := w.1 % 32, colour := i.colour, iter := i.iter, toks := [], inst := i.age, charges := [], held := false })
    else none

/-- Puts sets without operands before their elements, as sets that wait for a ready queue. -/
def offerFree (y : Core) (now : Nat) (l : List (Nat × RSet)) : Core :=
  l.foldl (fun z p => { z with elems := put z.elems p.1 (let e := elemIn z p.1
    { e with store := e.store ++ [{ way := p.2.way, colour := p.2.colour, iter := p.2.iter, slot := p.2.slot, opnds := [],
                                    charges := [], first := now }] }) }) y

/-- The operands in order. -/
def setTokens (m : MEntry) (n : Nat) : Option (List Token) :=
  (List.range n).foldr (fun i l => match look m.opnds i, l with | some t, some r => some (t :: r) | _, _ => none) (some [])

/-- The instance of a stored set: none when its slot belongs to no placement; `some none` when it does not exist yet. -/
def setInst (y : Core) (e : Nat) (m : MEntry) : Option (Option Inst) :=
  match placeAt (ctxIn y m.way) e m.slot with
  | none => none
  | some p => some (match m.tag y e with | some col => instFor (ctxIn y m.way) p col m.iter | none => none)

/-- The ready set of a stored entry, when it is complete and its instance exists. -/
def readySet (y : Core) (e : Nat) (m : MEntry) : Option RSet :=
  match setTokens m (wordNt (slotWord y e m.way m.slot)) with
  | none => none
  | some ts =>
    let r (n : Nat) : RSet :=
      { way := m.way, slot := m.slot, colour := (match ts with | t :: _ => t.colour | [] => m.colour), iter := m.iter,
        toks := ts, inst := n, charges := m.charges, held := false }
    match setInst y e m with
    | none => some (r 0)
    | some (some i) => if i.live then some (r i.age) else none
    | some none => none

/-- Whether a stored set enters the ready queue before another: first the one whose instance came first; of one cycle's, in
increasing way, then slot (R171, R172). -/
def entersBefore (y : Core) (a b : RSet) : Bool :=
  let born (r : RSet) : Nat := match instOf (ctxIn y r.way) r.inst with | some i => i.born | none => 0
  let rank (r : RSet) : Nat := (born r * 4 + r.way) * 32 + r.slot
  rank a < rank b || (rank a == rank b && a.inst < b.inst)

/-- The stored set that enters the ready queue next, and its entry. -/
def takeReady (y : Core) (e : Nat) (l : List MEntry) : Option (RSet × MEntry) :=
  l.foldl (fun b m =>
    match readySet y e m, b with
    | none, _ => b
    | some r, none => some (r, m)
    | some r, some q => if entersBefore y r q.1 then some (r, m) else b) none

/-- Complete sets enter an element's ready queue while it has room (R171, R172). -/
def fillReady (y : Core) (e : Nat) : Nat → Core
  | 0 => y
  | n + 1 =>
    let x := elemIn y e
    if 8 ≤ x.ready.length then y
    else
      match takeReady y e x.store with
      | some (q, m) => fillReady { y with elems := put y.elems e { x with store := x.store.erase m, ready := x.ready ++ [q] } } e n
      | none => y

/-- Fills every element's ready queue. -/
def fillAll (y : Core) : Core := y.elems.foldl (fun z p => fillReady z p.1 8) y

/-- Whether an aborted instance waits for nothing of its own. -/
def Inst.free (i : Inst) : Bool := i.waitSeq.isNone && i.trap.isNone && i.fault.isNone

/-- Re-presents an instance (R36, R41): its tokens come again, its instructions without operands fire again. -/
def presentInst (s : State) (c k age : Nat) : State :=
  match instOf (ctxOf s c k) age with
  | none => s
  | some i =>
    let s1 := modInst s c k age fun j => { j.blank .live with inputs := [], born := s.cycle }
    modCore s1 c fun y =>
      let y1 := { y with door := y.door ++ i.inputs.map fun p => (k, doorFlight p.1 p.2) }
      match placeOf (ctxIn y1 k) i.place with
      | some p => fillAll (offerFree y1 s.cycle (freeSets y1 k p { i with state := .live }))
      | none => y1

/-- Re-presents the aborted instances from the oldest on, up to the first that waits for something of its own. -/
def presentReady (s : State) (c k : Nat) : State :=
  let l := (ctxOf s c k).insts.takeWhile fun i => i.state != .aborted || i.free
  (l.filter fun i => i.state == .aborted).foldl (fun t i => presentInst t c k i.age) s

/-! ### Traps and faults of the dataflow region -/

/-- The trap of a tag at a place of the region. -/
def dataTrap (cause : Cause) (e slot : Nat) (xb : Xb) (col : Byte) (it : Half) : TrapInfo :=
  { cause := cause, unit := 1, elem := e, slot := slot, xb := xb, colour := col, iter := it }

/-- An instance traps (R396): it is held, every younger one is aborted, older ones go on. -/
def trapInst (s : State) (c k age : Nat) (t : TrapInfo) : State :=
  let x := ctxOf s c k
  let first := (x.insts.find? fun i => i.trap.isSome)
  let older := match first with | some i => isOlderInst x age i.age | none => false
  let s1 := abortFrom s c k age
  takeTrap (modInst s1 c k age fun i => { i with trap := some t }) c k t older

/-- A trap charged to the instance of a tag, if there is one (R171). -/
def chargeTrap (s : State) (c k : Nat) (inst : Option Nat) (t : TrapInfo) : State :=
  match inst with
  | some age => if (instOf (ctxOf s c k) age).isSome then trapInst s c k age t else takeTrap s c k t false
  | none => takeTrap s c k t false

/-- The instance of a tag at a slot. -/
def tagInst (x : Ctx) (e slot : Nat) (col : Byte) (it : Half) : Option Nat :=
  match placeAt x e slot with
  | some p => (match instFor x p col it with | some i => some i.age | none => none)
  | none => none

/-- An instance faults (R35, R36): it and every younger one are aborted, and one record is written. -/
def faultInst (s : State) (c k age : Nat) (f : FaultInfo) : State :=
  let (s1, n) := takeFault (abortFrom s c k age) c k f
  match n with
  | some m => modInst s1 c k age fun i => { i with fault := some f, waitSeq := some m }
  | none => s1

/-- The first poisoned byte the region receives stays latched until a POISON trap (R86). -/
def latchFlow (s : State) (c k space addr : Nat) : State :=
  modCtx s c k fun x => { x with flowLatch := match x.flowLatch with
    | some v => some v | none => some (place space 60 ||| BitVec.ofNat 64 (addr % 2 ^ 48)) }

/-! ### Counts and completion (R159, R160) -/

/-- Whether every load of an instance has been performed, or closed by a null operand (R112, R160, R307). -/
def loadsDone (y : Core) (k : Nat) (p : Placement) (i : Inst) : Bool :=
  (placeWords y k p).all (fun w => !isLoad w.2 || i.loads.any fun r => r.at_ == w.1) &&
    !(y.loads.any fun w => w.firing.way == k && w.at_.isSome && w.firing.even.src == i.age && w.lanes.any fun l => l.req.isSome) &&
    !(y.hold.any fun r => r.2.1.way == k && r.2.1.inst == i.age)

/-- An instance becomes COMPLETE once its counts are closed and its loads performed. -/
def checkComplete (s : State) (c k age : Nat) : State :=
  let x := ctxOf s c k
  match instOf x age with
  | none => s
  | some i =>
    match placeOf x i.place with
    | none => s
    | some p =>
      if i.state = .live ∧ i.closedE.length = p.scount ∧ i.closedL.length = p.lcount ∧ i.exitTok.isSome ∧ i.exits = p.exits ∧
          loadsDone (coreOf s c) k p i then
        modInst s c k age fun j => { j with state := .complete }
      else s

/-- Closes an effect or a laminated-write instruction of an instance. -/
def closeEffect (s : State) (c k age at_ : Nat) : State :=
  modInst s c k age fun i => { i with closedE := i.closedE ++ [at_] }
def closeLam (s : State) (c k age at_ : Nat) : State :=
  modInst s c k age fun i => { i with closedL := i.closedL ++ [at_] }

/-- Commit buffer entries of 128 bytes that an effect takes: a store's, an atomic's or accumulate operation's lanes, one for
a laminated write, none for what stores nothing (R59). -/
def Effect.entries : Effect → Nat
  | .store _ _ _ l => (l.foldl (fun n p => n + p.2.length) 0 + 127) / 128
  | .bst _ _ _ _ l => (l.foldl (fun n p => n + p.2.length) 0 + 127) / 128
  | .atomic _ _ _ _ _ l _ => (4 * l.length + 127) / 128
  | .axadd _ _ _ _ l _ => (4 * l.length + 127) / 128
  | .axclr _ _ _ l => (4 * l.length + 127) / 128
  | .ldecl _ _ => 1 | .ply _ _ _ => 1 | .settle _ => 1
  | _ => 0

/-- Entries of a list of effects. -/
def entriesOf (l : List Effect) : Nat := l.foldl (fun n e => n + e.entries) 0

/-- Shared entries a context uses: what its oldest instance has above 96, its younger ones, and committed effects that
wait. -/
def sharedEntries (x : Ctx) : Nat :=
  (match x.insts with | i :: _ => entriesOf i.effects - 96 | [] => 0) +
    (x.insts.drop 1).foldl (fun n i => n + entriesOf i.effects) 0 + entriesOf (x.late.map (·.eff))

/-- Whether a firing of an instance finds n commit buffer entries (R59): the oldest has 96 of its own, 128 are shared. -/
def commitRoom (s : State) (c k age n : Nat) : Bool :=
  n == 0 ||
  (match (ctxOf s c k).insts with
   | i :: _ => i.age == age && entriesOf i.effects + n ≤ 96
   | [] => true) ||
  (coreOf s c).ctxs.foldl (fun m p => m + sharedEntries p.2) 0 + n ≤ 128

end Sys2Proof.Machine
end

