-- ==== Sys2Proof/Machine/Firing.lean ====
section
/-! DEFINITION. How an element instruction fires (R272–R276): its operands, when it takes no effect, and what becomes
of its result. -/
namespace Sys2Proof.Machine

/-- An operand of an element instruction: a token, or the constant, the same in every lane (R272). -/
inductive Opd where
  | tok (t : Token)
  | const (v : W32)
  deriving DecidableEq, Repr

/-- A lane of an operand. -/
def Opd.lane (o : Opd) (l : Nat) : W32 := match o with | .tok t => nth t.lanes l 0 | .const v => v
/-- Whether an operand is a null token (R273). -/
def Opd.isNull (o : Opd) : Bool := match o with | .tok t => t.lanes == [] | .const _ => false
/-- The bits an operand carries. -/
def Opd.xb (o : Opd) : Xb := match o with | .tok t => t.xb | .const _ => 0

/-- A firing under way: its core, element, context, set, word, width, data operands, predicate, and what its operands
carry. -/
structure Fire where
  c    : Nat
  e    : Nat
  k    : Nat
  set  : RSet
  hdr  : EHdr
  g    : Nat
  ops  : List Opd
  pred : Option Token
  xb   : Xb
  last : Bool
  deriving DecidableEq, Repr

/-- The operands in position order: the constant at KP, the tokens around it (R226). -/
def operandList (h : EHdr) (toks : List Token) (v : W32) : List Opd :=
  if h.ks = 7 then toks.map .tok
  else (toks.take h.kp.toNat).map .tok ++ [.const v] ++ (toks.drop h.kp.toNat).map .tok

/-- The firing of the set at an element's issue port. A set of an instance that has committed belongs to none. -/
def fireOf (h : EHdr) (s : State) : Option Fire :=
  match s.cur with
  | .elem c e =>
    let y := coreOf s c
    match (elemIn y e).issuing with
    | none => none
    | some r =>
      let v := lookD (wayOf y e r.way).k h.ks.toNat 0
      let data := if h.pm = .always then r.toks else r.toks.dropLast
      some { c := c, e := e, k := r.way, set := { r with inst := if (instOf (ctxIn y r.way) r.inst).isSome then r.inst else 0 }, hdr := h, g := colourWidth (ctxIn y r.way) r.colour,
             ops := operandList h data v, pred := if h.pm = .always then none else r.toks.getLast?,
             xb := r.toks.foldl (fun a t => a ||| t.xb) 0, last := r.toks.any (·.last) }
  | _ => none

/-- Data operand n at a lane. -/
def Fire.x (f : Fire) (n l : Nat) : W32 := match f.ops[n]? with | some o => o.lane l | none => 0
/-- Data operand n. -/
def Fire.op (f : Fire) (n : Nat) : Opd := match f.ops[n]? with | some o => o | none => .const 0
/-- The lanes of a firing. -/
def Fire.lanes (f : Fire) : List Nat := List.range f.g
/-- Whether the predicate forbids the effect (R274). -/
def Fire.off (f : Fire) : Bool :=
  match f.hdr.pm, f.pred with
  | .ifTrue, some t => nth t.lanes 0 0 == 0
  | .ifFalse, some t => nth t.lanes 0 0 != 0
  | _, _ => false
/-- Whether an operand is null or the predicate forbids the effect (R274). -/
def Fire.void (f : Fire) : Bool := f.off || f.set.toks.any fun t => t.lanes == []

/-- A token of the firing's tag with lanes. -/
def Fire.tok (f : Fire) (lanes : List W32) (xb : Xb) : Token :=
  { colour := f.set.colour, iter := f.set.iter, lanes := lanes, xb := f.xb ||| xb, last := f.last, src := f.set.inst }
/-- The null token of a firing. -/
def Fire.null (f : Fire) : Token := f.tok [] 0

/-- Element × 32 + slot of a firing. -/
def Fire.at_ (f : Fire) : Nat := f.e * 32 + f.set.slot

/-! ### Switch-table entries (R184) -/

def swtUsed (w : Word) : Bool := w.getLsbD 63
def swtKind (w : Word) : Nat := field w 61 2
def swtId (w : Word) : Nat := field w 55 6
def swtSlot (w : Word) : Nat := field w 50 5
def swtOpnd (w : Word) : Nat := field w 48 2
def swtBack (w : Word) : Bool := w.getLsbD 47
def swtPath (w : Word) : Nat := field w 41 6
def swtCore (w : Word) : Nat := field w 24 8

/-- Entry q of port p of a way. -/
def swtOf (w : Way) (p q : Nat) : Word := lookD w.swt (p * 4 + q) 0
/-- The ports an OM field names. -/
def portsOf (om : BitVec 4) : List Nat := (List.range 4).filter fun p => om.getLsbD p
/-- The destinations in use of a port. -/
def branches (w : Way) (p : Nat) : List Nat := (List.range 4).filter fun q => swtUsed (swtOf w p q)

/-- Whether a firing would send to a core outside its task (R181). -/
def strays (s : State) (f : Fire) : Bool :=
  let w := wayOf (coreOf s f.c) f.e f.k
  let cores := match taskOf s (ctxOf s f.c f.k).task with | some t => t.cores | none => []
  (portsOf f.hdr.om).any fun p => (branches w p).any fun q =>
    swtKind (swtOf w p q) == 2 && !cores.contains (swtCore (swtOf w p q))

/-! ### Ends of a firing -/

/-- The issue port is free again, and complete sets move up. -/
def doneIssue (s : State) (f : Fire) : State :=
  modCore s f.c fun y => fillReady { y with elems := put y.elems f.e { elemIn y f.e with issuing := none } } f.e 8

/-- The set goes back to the front of the ready queue: it waits in its element. -/
def waitIssue (s : State) (f : Fire) : State :=
  modElem s f.c f.e fun x => { x with issuing := none, ready := { f.set with charges := [] } :: x.ready }

/-- The firing counts as one of its instance and of a step (R417). -/
def countFire (s : State) (f : Fire) : State :=
  modCtx s f.c f.k fun x =>
    { x with fires := x.fires + 1
             insts := updFirst x.insts (fun i => i.age == f.set.inst) fun i => { i with fired := i.fired + 1 } }

/-- A firing that ends without a result. -/
def endFire (s : State) (f : Fire) : State := countFire (doneIssue s f) f

/-- A firing raises ILLOP: it has no result, and the trap is charged to its instance (R274). -/
def fireIllop (s : State) (f : Fire) : State :=
  chargeTrap (doneIssue s f) f.c f.k (if f.set.inst = 0 then none else some f.set.inst)
    (dataTrap .illop f.e f.set.slot 0 f.set.colour f.set.iter)

/-- The record of a firing's result. -/
def Fire.firing (f : Fire) (even odd : Token) (due : Nat) : Firing :=
  { elem := f.e, way := f.k, slot := f.set.slot, om := f.hdr.om, even := even, odd := odd, due := due }

/-- Sends results on their way to the port registers: tokens for the even entries and for the odd ones (R276). -/
def deliver2 (s : State) (f : Fire) (lat : Nat) (even odd : Token) : State :=
  if strays s f then fireIllop s f
  else modCore (endFire s f) f.c fun y => { y with results := y.results ++ [f.firing even odd (s.cycle + lat)] }

/-- Sends one result to every destination. -/
def deliver (s : State) (f : Fire) (lat : Nat) (t : Token) : State := deliver2 s f lat t t

/-- The FIRSTX latch takes the bits a firing's own operation raised (R398). -/
def noteBits (s : State) (f : Fire) (xb : Xb) : State :=
  modCtx s f.c f.k fun x => latchFirst x f.e f.set.slot xb f.set.colour f.set.iter

/-- A firing that computes lanes: a null result when it takes no effect (R274). -/
def fireLanes (h : EHdr) (lat : Nat) (s : State) (op : Fire → List W32 × Xb) : State :=
  match fireOf h s with
  | none => s
  | some f =>
    if f.void then deliver s f lat f.null
    else let (l, b) := op f; deliver (noteBits s f b) f lat (f.tok l b)

/-- Lane by lane, with the bits each raises. -/
def perLane (f : Fire) (op : Nat → W32 × Xb) : List W32 × Xb :=
  (f.lanes.map fun l => (op l).1, f.lanes.foldl (fun b l => b ||| (op l).2) 0)

end Sys2Proof.Machine
end

