-- ==== Sys2Proof/Machine/ElemFloat.lean ====
section
/-! DEFINITION. The floating-point element instructions (R277–R281). -/
namespace Sys2Proof.Machine

/-- A lane of data operand n as a value of a floating type. -/
def Fire.num (f : Fire) (y : Ty) (n l : Nat) : Num := (tyFmt y).read (f.x n l).toNat

/-- A lane rounded once to a floating type, with the bits the operation raised before rounding (R277). -/
def roundLane (y : Ty) (r : RMode) (v : Num × Xb) : W32 × Xb :=
  let (n, b) := roundTo (tyFmt y) (modeRnd r) v.1
  (BitVec.ofNat 32 n, v.2 ||| b)

/-- An arithmetic instruction of four cycles. -/
def fireArith (h : EHdr) (y : Ty) (r : RMode) (s : State) (op : Fire → Nat → Num × Xb) : State :=
  fireLanes h 4 s fun f => perLane f fun l => roundLane y r (op f l)

/-- Multiplies and adds with one rounding: the product is exact. A NaN addend gives the NaN and no bit (R198). -/
def mulAdd (r : Rnd) (a b c : Num) : Num × Xb :=
  let (p, x) := mulNum a b
  let (v, z) := addNum r c p
  (v, if c.isNan then z else x ||| z)

/-- FADD (R277). -/
def execFadd (h : EHdr) (y : Ty) (r : RMode) (s : State) : Out :=
  .next (fireArith h y r s fun f l => addNum (modeRnd r) (f.num y 0 l) (f.num y 1 l))

/-- FSUB (R277). -/
def execFsub (h : EHdr) (y : Ty) (r : RMode) (s : State) : Out :=
  .next (fireArith h y r s fun f l => addNum (modeRnd r) (f.num y 0 l) (negNum (f.num y 1 l)))

/-- FMUL (R277). -/
def execFmul (h : EHdr) (y : Ty) (r : RMode) (s : State) : Out :=
  .next (fireArith h y r s fun f l => mulNum (f.num y 0 l) (f.num y 1 l))

/-- FFMA: a × b + c (R277). -/
def execFfma (h : EHdr) (y : Ty) (r : RMode) (s : State) : Out :=
  .next (fireArith h y r s fun f l => mulAdd (modeRnd r) (f.num y 0 l) (f.num y 1 l) (f.num y 2 l))

/-- FFMS: c − a × b (R277). -/
def execFfms (h : EHdr) (y : Ty) (r : RMode) (s : State) : Out :=
  .next (fireArith h y r s fun f l => mulAdd (modeRnd r) (negNum (f.num y 0 l)) (f.num y 1 l) (f.num y 2 l))

/-- A two-cycle instruction that sets no bit: a value of the type written exactly (R278). -/
def firePlain (h : EHdr) (y : Ty) (s : State) (op : Fire → Nat → Num) : State :=
  fireLanes h 2 s fun f => perLane f fun l => (BitVec.ofNat 32 ((tyFmt y).write (op f l)), 0)

/-- FMIN (R278). -/
def execFmin (h : EHdr) (y : Ty) (s : State) : Out := .next (firePlain h y s fun f l => minNum (f.num y 0 l) (f.num y 1 l))

/-- FMAX (R278). -/
def execFmax (h : EHdr) (y : Ty) (s : State) : Out := .next (firePlain h y s fun f l => maxNum (f.num y 0 l) (f.num y 1 l))

/-- FABS (R278). -/
def execFabs (h : EHdr) (y : Ty) (s : State) : Out := .next (firePlain h y s fun f l => absNum (f.num y 0 l))

/-- FNEG (R278). -/
def execFneg (h : EHdr) (y : Ty) (s : State) : Out := .next (firePlain h y s fun f l => negNum (f.num y 0 l))

/-- A special function of FP32 lanes (R279, R209). -/
def fireSpecial (h : EHdr) (lat : Nat) (s : State) (fn : Num → Num × Xb) : State :=
  fireLanes h lat s fun f => perLane f fun l =>
    let (v, b) := special fn (f.x 0 l).toNat
    (BitVec.ofNat 32 v, b)

/-- FRCP (R279). -/
def execFrcp (h : EHdr) (s : State) : Out := .next (fireSpecial h 12 s rcpNum)

/-- FSQRT (R279). -/
def execFsqrt (h : EHdr) (s : State) : Out := .next (fireSpecial h 12 s sqrtNum)

/-- FRSQ (R279). -/
def execFrsq (h : EHdr) (s : State) : Out := .next (fireSpecial h 12 s rsqNum)

/-- FEXP2 (R279). -/
def execFexp2 (h : EHdr) (s : State) : Out := .next (fireSpecial h 16 s exp2Num)

/-- FLOG2 (R279). -/
def execFlog2 (h : EHdr) (s : State) : Out := .next (fireSpecial h 16 s log2Num)

/-- FTANH (R279). -/
def execFtanh (h : EHdr) (s : State) : Out := .next (fireSpecial h 16 s tanhNum)

/-- FCMP: 1 when the condition holds, else 0; no bit (R280). -/
def execFcmp (h : EHdr) (y : Ty) (c : FCond) (s : State) : Out :=
  .next (fireLanes h 2 s fun f => perLane f fun l => (if fcondHolds c (f.num y 0 l) (f.num y 1 l) then 1 else 0, 0))

/-- The generator of a way; a seed of zero is replaced (R206). -/
def genOf (x : Elem) (k : Nat) : Word :=
  let g := lookD x.gen k 0
  if g = 0 then 0x5A173C9E0B4DE621 else g

/-- One draw: the next state of the generator. -/
def nextGen (g : Word) : Word :=
  let a := g ^^^ (g <<< 13)
  let b := a ^^^ (a >>> 7)
  b ^^^ (b <<< 17)

/-- The rounding of a lane under a mode, with the word drawn for the firing (R206). -/
def drawRnd (r : RMode) (word : W32) (l : Nat) : Rnd :=
  match r with | .sr => .sr (word.rotateLeft l).toNat | m => modeRnd m

/-- CVT (R281): under SR the firing draws once from its way's generator. -/
def execCvt (h : EHdr) (y : Ty) (r : RMode) (src : Ty) (u v : Bool) (s : State) : Out :=
  .next (match fireOf h s with
    | none => s
    | some f =>
      if f.void then deliver s f 3 f.null
      else
        let g := genOf (elemOf s f.c f.e) f.k
        let word : W32 := g.extractLsb' 32 32
        let (l, b) := perLane f fun i => convert src u y (v && y == .i8) (v && y != .i8) (drawRnd r word i) (f.x 0 i)
        let s1 := if r = .sr then modElem s f.c f.e fun x => { x with gen := put x.gen f.k (nextGen g) } else s
        deliver (noteBits s1 f b) f 3 (f.tok l b))

end Sys2Proof.Machine
end

