-- ==== Sys2Proof/Machine/ElemInt.lean ====
section
/-! DEFINITION. The integer element instructions (R282, R283). -/
namespace Sys2Proof.Machine

/-- A lane of data operand n as an integer of a type. -/
def Fire.int (f : Fire) (y : Ty) (u : Bool) (n l : Nat) : Int := intVal (tyBits y) u (f.x n l).toNat

/-- An exact result wrapped, or clipped with OF (R282). -/
def fitInt (y : Ty) (u sat : Bool) (v : Int) : W32 × Xb :=
  let (lo, hi) := intRange (tyBits y) u
  if sat then
    (intLane (tyBits y) u (if v < lo then lo else if hi < v then hi else v), if v < lo ∨ hi < v then xOF else 0)
  else (intLane (tyBits y) u v, 0)

/-- An instruction whose result wraps and sets no bit. -/
def fireInt (h : EHdr) (lat : Nat) (y : Ty) (u : Bool) (s : State) (op : Fire → Nat → Int) : State :=
  fireLanes h lat s fun f => perLane f fun l => (intLane (tyBits y) u (op f l), 0)

/-- An instruction on the low bits of two operands. -/
def fireBits (h : EHdr) (y : Ty) (s : State) (op : Nat → Nat → Nat) : State :=
  fireInt h 1 y false s fun f l =>
    (op ((f.x 0 l).toNat % 2 ^ tyBits y) ((f.x 1 l).toNat % 2 ^ tyBits y) : Nat)

/-- IADD (R282). -/
def execIadd (h : EHdr) (y : Ty) (u sat : Bool) (s : State) : Out :=
  .next (fireLanes h 1 s fun f => perLane f fun l => fitInt y u sat (f.int y u 0 l + f.int y u 1 l))

/-- ISUB (R282). -/
def execIsub (h : EHdr) (y : Ty) (u sat : Bool) (s : State) : Out :=
  .next (fireLanes h 1 s fun f => perLane f fun l => fitInt y u sat (f.int y u 0 l - f.int y u 1 l))

/-- IMAD (R282). -/
def execImad (h : EHdr) (y : Ty) (u sat : Bool) (s : State) : Out :=
  .next (fireLanes h 3 s fun f => perLane f fun l => fitInt y u sat (f.int y u 0 l * f.int y u 1 l + f.int y u 2 l))

/-- IMUL (R282): the low half. -/
def execImul (h : EHdr) (y : Ty) (s : State) : Out :=
  .next (fireInt h 3 y false s fun f l => f.int y false 0 l * f.int y false 1 l)

/-- IMULH (R282): the high half. -/
def execImulh (h : EHdr) (y : Ty) (u : Bool) (s : State) : Out :=
  .next (fireInt h 3 y u s fun f l => Int.fdiv (f.int y u 0 l * f.int y u 1 l) (2 ^ tyBits y))

/-- IAND (R282). -/
def execIand (h : EHdr) (y : Ty) (s : State) : Out := .next (fireBits h y s fun a b => a &&& b)

/-- IOR (R282). -/
def execIor (h : EHdr) (y : Ty) (s : State) : Out := .next (fireBits h y s fun a b => a ||| b)

/-- IXOR (R282). -/
def execIxor (h : EHdr) (y : Ty) (s : State) : Out := .next (fireBits h y s fun a b => a ^^^ b)

/-- ISHL (R282). -/
def execIshl (h : EHdr) (y : Ty) (s : State) : Out := .next (fireBits h y s fun a b => a * 2 ^ (b % tyBits y))

/-- ISHR (R282). -/
def execIshr (h : EHdr) (y : Ty) (s : State) : Out := .next (fireBits h y s fun a b => a / 2 ^ (b % tyBits y))

/-- ISRA (R282): sign in. -/
def execIsra (h : EHdr) (y : Ty) (s : State) : Out :=
  .next (fireInt h 1 y false s fun f l =>
    Int.fdiv (f.int y false 0 l) (2 ^ ((f.x 1 l).toNat % 2 ^ tyBits y % tyBits y)))

/-- IMIN (R282). -/
def execImin (h : EHdr) (y : Ty) (u : Bool) (s : State) : Out :=
  .next (fireInt h 1 y u s fun f l => if f.int y u 0 l < f.int y u 1 l then f.int y u 0 l else f.int y u 1 l)

/-- IMAX (R282). -/
def execImax (h : EHdr) (y : Ty) (u : Bool) (s : State) : Out :=
  .next (fireInt h 1 y u s fun f l => if f.int y u 0 l < f.int y u 1 l then f.int y u 1 l else f.int y u 0 l)

/-- ICMP (R283): 1 or 0. -/
def execIcmp (h : EHdr) (y : Ty) (c : Cond) (s : State) : Out :=
  .next (fireLanes h 1 s fun f => perLane f fun l =>
    (if condHolds c (tyBits y) (f.x 0 l).toNat (f.x 1 l).toNat then 1 else 0, 0))

end Sys2Proof.Machine
end

