-- ==== Sys2Proof/Machine/ElemLane.lean ====
section
/-! DEFINITION. The element instructions that move and reduce lanes (R284–R286). -/
namespace Sys2Proof.Machine

/-- SEL (R284): lane by lane. -/
def execSelE (h : EHdr) (s : State) : Out :=
  .next (fireLanes h 1 s fun f => perLane f fun l => (if f.x 0 l ≠ 0 then f.x 1 l else f.x 2 l, 0))

/-- MOV (R284): its operand, or its constant in every lane. -/
def execMov (h : EHdr) (s : State) : Out :=
  .next (fireLanes h 1 s fun f => perLane f fun l => (f.x 0 l, 0))

/-- LBC (R285): one lane to all, 0 when the lane lies outside the width. -/
def execLbc (h : EHdr) (x : BitVec 5) (s : State) : Out :=
  .next (fireLanes h 1 s fun f => perLane f fun _ => (if x.toNat < f.g then f.x 0 x.toNat else 0, 0))

/-- The lane that lane i of a shuffle takes, if any (R285). -/
def shuffled (z : Shuffle) (g n i : Nat) : Option Nat :=
  match z with
  | .rot => some ((i + g - n % g) % g)
  | .up => if i < n then none else some (i - n)
  | .down => if g ≤ i + n then none else some (i + n)
  | .xor => if g ≤ i ^^^ n then none else some (i ^^^ n)

/-- LSHF (R285). -/
def execLshf (h : EHdr) (z : Shuffle) (x : BitVec 5) (s : State) : Out :=
  .next (fireLanes h 1 s fun f => perLane f fun l =>
    (match shuffled z f.g x.toNat l with | some i => f.x 0 i | none => 0, 0))

/-- LRED (R286): the lanes combined, the result in every lane. -/
def execLred (h : EHdr) (y : Ty) (z : RedOp) (s : State) : Out :=
  .next (fireLanes h 6 s fun f =>
    let (v, b) := redRead z y (f.lanes.foldl (fun a l => combineRec (redKind z y) a (redRec z y (f.x 0 l) 0)) emptyRec)
    (f.lanes.map fun _ => v, b))

end Sys2Proof.Machine
end

