-- ==== Sys2Proof/Machine/Commit.lean ====
section
/-! DEFINITION. Commit (R59, R111, R112, R160, R307): performing an instance's pending effects in LSID order, the
accesses that wait behind a faulted ordered atomic (R401), and what a firing outside any instance performs at once. -/
namespace Sys2Proof.Machine

/-! ### What an effect accesses -/

def Effect.lsid : Effect → Nat
  | .store _ n _ _ => n | .bst _ n _ _ _ => n | .atomic _ n _ _ _ _ _ => n | .scload _ n _ _ _ => n
  | .axadd _ n _ _ _ _ => n | .axclr _ n _ _ => n | .copy _ => 32 | _ => 33
def Effect.place : Effect → Nat
  | .store a _ _ _ => a | .bst a _ _ _ _ => a | .atomic a _ _ _ _ _ _ => a | .scload a _ _ _ _ => a
  | .axadd a _ _ _ _ _ => a | .axclr a _ _ _ => a | _ => 0
/-- The ordering code of R227. -/
def Effect.ord : Effect → Nat
  | .store _ _ o _ => o | .bst _ _ o _ _ => o | .atomic _ _ o _ _ _ _ => o | .scload _ _ _ _ _ => 6
  | .axadd _ _ o _ _ _ => o | .axclr _ _ o _ => o | _ => 0
/-- The global bytes of each lane. -/
def Effect.cells : Effect → List (Nat × Nat)
  | .store _ _ _ l => l.map fun p => (p.1, p.2.length)
  | .atomic _ _ _ _ _ l _ => l.map fun p => (p.1, 4)
  | .scload _ _ y l _ => l.map fun a => (a, tyBits y / 8)
  | .axadd _ _ _ _ l _ => l.map fun p => (p.1, 64)
  | .axclr _ _ _ l => l.map fun a => (a, 64)
  | _ => []
/-- R37's KIND. -/
def Effect.kind : Effect → Nat
  | .store _ _ 6 _ => 7 | .store _ _ _ _ => 1 | .bst _ _ _ _ _ => 1 | .atomic _ _ 6 _ _ _ _ => 7
  | .atomic _ _ _ _ _ _ _ => 2 | .scload _ _ _ _ _ => 7 | .axadd _ _ _ _ _ _ => 8 | .axclr _ _ _ _ => 8 | _ => 0
/-- What a page must allow. -/
def Effect.need : Effect → Need
  | .store _ _ 6 _ => needSc true
  | .atomic _ _ o op _ _ _ => { needStore with host := o != 6 && hostAtomic op }
  | .scload _ _ _ _ _ => needSc false
  | .axadd _ _ _ _ _ _ => { needStore with host := false }
  | .axclr _ _ _ _ => { needStore with host := false }
  | _ => needStore
/-- Whether an effect is an SC operation. -/
def Effect.isSc (f : Effect) : Bool := f.ord == 6
/-- Charge at a core's port (R104): the bytes a store writes, to another core's buffer too, and 16 for any other request. -/
def Effect.charge (c : Nat) : Effect → Nat
  | .store _ _ o l => if o = 6 then 16 * l.length else l.foldl (fun n p => n + p.2.length) 0
  | .bst _ _ _ h l => if handleCore c h = c then 0 else l.foldl (fun n p => n + p.2.length) 0
  | .scload _ _ _ l _ => 16 * l.length | .atomic _ _ _ _ _ l _ => 16 * l.length
  | .axadd _ _ _ _ l _ => 16 * l.length | .axclr _ _ _ l => 16 * l.length | _ => 0

/-- The scope of an ordering code; SC counts as DEV (R125). -/
def ordScope (o : Nat) : Option Scope :=
  match o with
  | 1 => some .core | 2 => some .bay | 3 => some .stack | 4 => some .dev | 5 => some .pod | 6 => some .dev | _ => none

/-! ### Faults of an effect -/

/-- A fault of the region's access. -/
structure DFault where
  cause : Cause
  space : Nat
  addr  : Nat
  entry : Word
  level : Nat
  unbacked : Bool
  deriving DecidableEq, Repr

/-- A fault of a translation as the region's. -/
def XFault.data (f : XFault) (va : Nat) : DFault :=
  { cause := f.cause, space := 0, addr := va, entry := f.entry, level := f.level, unbacked := f.unbacked }

/-- Translates lanes in order up to the first that faults. -/
def lanesFault (s : State) (c k : Nat) (nd : Need) : List (Nat × Nat) → State × Option DFault
  | [] => (s, none)
  | (va, n) :: r =>
    if va % n ≠ 0 then (s, some ((bareFault .align).data va))
    else
      match translate s c (ctxOf s c k).r.xlroot (BitVec.ofNat 64 va) nd with
      | (t, .error f) => (t, some (f.data va))
      | (t, .ok _) => lanesFault t c k nd r

/-- Checks lanes of a typed-buffer access, issued now or earlier. -/
def bufLanesFault (issued : Bool) (s : State) (c k : Nat) (h : Half) (write : Bool) : List (Nat × Nat) → Option DFault
  | [] => none
  | (off, n) :: r =>
    match bufCheckOf issued s c k 1 h none off n write with
    | .error cause => some { (bareFault cause).data (bufAddr h off) with space := hSpaceCode h }
    | .ok _ => bufLanesFault issued s c k h write r

/-- The first fault of an effect: at its firing, or, `issued`, at its commit. A handle given away in between still admits it
there (R52). -/
def effectFault (issued : Bool) (s : State) (c k : Nat) (f : Effect) : State × Option DFault :=
  match f with
  | .bst _ _ _ h l => (s, bufLanesFault issued s c k h true (l.map fun p => (p.1, p.2.length)))
  | _ => lanesFault s c k f.need f.cells

/-- Logs a refused access of the region (R43). -/
def violData (s : State) (c k acc : Nat) (d : DFault) : State :=
  let a := asidOf (ctxOf s c k)
  if d.space = 0 then (if logged d.cause d.unbacked then violGlobal s c a d.addr acc d.cause else s)
  else violBuf s c a (BitVec.ofNat 16 (d.addr / 2 ^ 32)) (d.addr % 2 ^ 20) acc d.cause

/-- R37's record of a fault of an element's access. -/
def dataFault (s : State) (c k e slot lsid kind : Nat) (col : Byte) (it : Half) (d : DFault) : FaultInfo :=
  let code := match placeAt (ctxOf s c k) e slot with | some p => p.va | none => 0
  { cause := d.cause, kind := kind, space := d.space, straddle := false, addr := d.addr, elem := e, slot := slot, lsid := lsid,
    unit := 1, colour := col, iter := it, entry := d.entry, code := code, level := d.level }

/-- ACCESS of the violation log for an effect. -/
def Effect.acc : Effect → Nat | .store _ _ _ _ => 1 | .bst _ _ _ _ _ => 1 | .scload _ _ _ _ _ => 0 | _ => 2

/-! ### Performing -/

/-- What an effect's lane does at its home slice. -/
def laneOps : Effect → List (Nat × ReqOp)
  | .store _ _ _ l => l.map fun p => (p.1, .store p.2 false)
  | .atomic _ _ _ op _ l _ => l.map fun p => (p.1, .atomic op 4 (p.2.1.setWidth 64) (p.2.2.setWidth 64))
  | .scload _ _ y l _ => l.map fun a => (a, .load (tyBits y / 8))
  | .axadd _ _ _ fmt l xb => l.map fun p => (p.1, .axadd fmt p.2 xb)
  | .axclr _ _ _ l => l.map fun a => (a, .axclr)
  | _ => []

/-- A lane of an access of the region, translated. -/
structure LaneOp where
  va : Nat
  op : ReqOp
  p  : Phys
  deriving DecidableEq, Repr

/-- Translates lanes; one that faults has been seen before and is left out. -/
def findLanes (s : State) (c k : Nat) (nd : Need) : List (Nat × ReqOp) → State × List LaneOp
  | [] => (s, [])
  | (va, op) :: r =>
    match translate s c (ctxOf s c k).r.xlroot (BitVec.ofNat 64 va) nd with
    | (t, .error _) => findLanes t c k nd r
    | (t, .ok p) => let (u, l) := findLanes t c k nd r; (u, { va := va, op := op, p := p } :: l)

/-- The request a lane makes: `batch` its instruction's number, `acq` whether its instruction acquires, which on a UO page it
does not (R117). -/
def laneReq (s : State) (c k batch : Nat) (sc acq : Bool) (l : LaneOp) : Req :=
  { newReq s (.unit c k 1) (asidOf (ctxOf s c k)) l.va l.p sc l.op with batch := batch, acq := acq && l.p.ord != 2 }

/-- Whether lanes may be performed at once: nothing of the party or of their slices comes first. -/
def lanesFree (s : State) (c k : Nat) (l : List LaneOp) : Bool :=
  l.all fun x => mayPerform s (laneReq s c k s.nextId false false x)

/-- Sends lanes. Where `group` holds, those of one line go as one request (R306): the later ones go with the first. -/
def sendLanes (c k batch : Nat) (sc acq group : Bool) : State → NMap Nat → List LaneOp → State × List LaneWait
  | s, _, [] => (s, [])
  | s, firsts, x :: r =>
    let line := x.p.pa / 128
    let q : Req := { laneReq s c k batch sc acq x with within := if group && !x.p.host then look firsts line else none }
    let (t, l) := sendLanes c k batch sc acq group (launch s q) (if (look firsts line).isSome then firsts else put firsts line q.id) r
    (t, { req := some q.id, v := 0, xb := 0, bad := false } :: l)

/-- Performs lanes at once, in increasing order (R320); poison is latched (R86). -/
def doLanes (c k : Nat) : State → List LaneOp → State × List LaneWait
  | s, [] => (s, [])
  | s, x :: r =>
    let (t, v, xb, b) := performOp s (asidOf (ctxOf s c k)) x.p x.op
    let u := match b with | some i => latchFlow t c k 0 (x.va + i) | none => t
    let (w, l) := doLanes c k u r
    (w, { req := none, v := v.setWidth 32, xb := xb, bad := b.isSome } :: l)

/-- The signatures of lanes (levels 1 and 2). -/
def signLanes (s : State) (c k : Nat) (l : List LaneOp) : State :=
  l.foldl (fun t x => signAccess t c k x.va x.op.bytes x.op.writes) s

/-- Performs or sends the lanes of an effect. -/
def performLanes (s : State) (c k : Nat) (f : Effect) (l : List LaneOp) : State × List LaneWait :=
  let t := signLanes s c k l
  if f.isSc || t.deferred || !lanesFree t c k l then
    sendLanes c k t.nextId f.isSc (f.ord != 0 && (match f with | .atomic _ _ _ _ _ _ _ => true | _ => false))
      (match f with | .store _ _ _ _ => !f.isSc | _ => false) t [] l
  else doLanes c k t l

/-- Requests of the region on a typed buffer of another core that are still to be performed there. -/
def farBusy (s : State) (c k : Nat) (h : Half) : Bool :=
  s.bufreqs.any fun b => b.core == c && b.slot == k && b.unit == 1 && b.answer.isNone && handleCore c b.handle == handleCore c h &&
    hSpace b.handle == hSpace h

/-- Sends a lane of the region to another core's buffer (R50). -/
def sendFar (s : State) (c k : Nat) (h : Half) (off n : Nat) (data : Option Word) : State :=
  let r : BufReq := { id := s.nextId, core := c, slot := k, unit := 1, handle := h, off := off, n := n, data := data, answer := none }
  let o := handleCore c h
  sendPacket { s with bufreqs := s.bufreqs ++ [r], nextId := s.nextId + 1 } 0 c k (flitsOf n) (coreNode c) (coreNode o) o (.buf r.id) none

/-- Performs a typed-buffer store's lanes. -/
def performBst (s : State) (c k : Nat) (h : Half) : List (Nat × List Byte) → State
  | [] => s
  | (off, bs) :: r =>
    match bufCheckOf true s c k 1 h none off bs.length true with
    | .ok p => performBst (bufWrite s p bs false) c k h r
    | .error _ => performBst s c k h r

/-- The narrow port grants a firing's lanes as one access (R309). -/
def grantLanes (s : State) (c k who : Nat) (h : Half) (write : Bool) (l : List (Nat × Nat)) : Option State :=
  match l.map (·.1), l with
  | a :: r, (_, n) :: _ =>
    let lo := r.foldl min a
    let hi := r.foldl max a
    match bufCheckOf true s c k 1 h none a n write with
    | .ok p => grantPort s { p with at_ := p.at_ + lo - a } (hi + n - lo) (if p.core = c then who else portRemote c)
    | .error _ => some s
  | _, _ => some s

/-- A lane's value as a type's lane (R272, R306). -/
def loadedLane (y : Ty) (v : W32) : W32 := if y.isInt then intLane (tyBits y) false (v.toNat : Int) else v

/-- The firing of a result that comes after the commit (R307). -/
def lateFiring (s : State) (c : Nat) (w : LoadWait) : State := modCore s c fun x => { x with loads := x.loads ++ [w] }

/-- Whether an effect that waits acquires: no later access of the party overtakes it (R117, R125). -/
def Effect.acquires : Effect → Bool
  | .atomic _ _ o _ b _ _ => b && o != 0 | .scload _ _ _ _ _ => true | .store _ _ o _ => o == 6 | _ => false

/-- An effect's place and tag as a trap's. -/
def effectTrap (f : Effect) (cause : Cause) (col : Byte) (it : Half) : TrapInfo :=
  dataTrap cause (f.place / 32) (f.place % 32) 0 col it

/-- A firing that delivers nothing: an effect without a result. -/
def silentFiring (k : Nat) (f : Effect) (col : Byte) (it : Half) : Firing :=
  let t : Token := { colour := col, iter := it, lanes := [], xb := 0, last := false, src := 0 }
  { elem := f.place / 32, way := k, slot := f.place % 32, om := 0, even := t, odd := t, due := 0 }

/-- What waits for the answers of an effect's lanes; none for a plain store. Poison that no result carries raises POISON,
and an ordered atomic is then to be performed again (R86, R401). -/
def effectWait (k : Nat) (l : Late) (lanes : List LaneWait) : Option LoadWait :=
  let f := l.eff
  let trap := effectTrap f .poison l.colour l.iter
  match f with
  | .atomic _ _ _ _ b _ fr =>
    some { firing := fr, ty := .i32, at_ := none, lanes := lanes, trap := if b then some trap else none,
           again := if b then some { l with stop := none } else none }
  | .scload _ _ y _ fr => some { firing := fr, ty := y, at_ := none, lanes := lanes, trap := none, again := none }
  | .store _ _ o _ =>
    if o = 6 then some { firing := silentFiring k f l.colour l.iter, ty := .i32, at_ := none, lanes := lanes, trap := none, again := none }
    else none
  | _ => some { firing := silentFiring k f l.colour l.iter, ty := .i32, at_ := none, lanes := lanes, trap := some trap, again := none }

/-- The scope of the release an effect makes, none on UO pages (R117). -/
def effectScope (f : Effect) (l : List LaneOp) : Option Scope :=
  if f.isSc || f.cells == [] || l.any (fun x => x.p.ord != 2) then ordScope f.ord else none

/-- Whether a load or an acquire of the region is in flight, which its later stores and contributions must not pass where no
slice orders them (R112, R117, R125). -/
def regionReads (s : State) (c k : Nat) : Bool :=
  s.reqs.any fun r => r.who == .unit c k 1 && r.answer.isNone && (r.op.reads || r.sc || r.acq)

/-- Whether a copy of the core's scoreboard stalls an effect (R56). -/
def effectStalls (s : State) (c k : Nat) (f : Effect) : Bool :=
  let x := coreOf s c
  (f.cells.any fun p => scoreStalls x (globalRng (asidOf (ctxIn x k)) p.1 p.2) f.need.write) ||
    (match f with | .bst _ _ _ h l => l.any fun p => scoreStalls x (bufRng h p.1 p.2.length) true | _ => false)

/-- Performs or sends one memory effect: none when something holds it. Lanes that poison lets nothing be performed for raise
POISON; an ordered atomic then stays to be performed again. -/
def performEffect (s : State) (c k : Nat) (l : Late) : Option State :=
  let f := l.eff
  if effectStalls s c k f then none
  else
    let (s0, ops) := findLanes s c k f.need (laneOps f)
    match (match effectScope f ops with | some sc => releaseNow s0 (.unit c k 1) sc | none => (s0, true)) with
    | (_, false) => none
    | (s1, true) =>
      match admitted s1 c k (f.charge c) (atCommit k) with
      | (_, false) => none
      | (t, true) =>
        match f with
        | .bst at_ _ _ h b =>
          if regionReads t c k || farBusy t c k h then none
          else if t.deferred && handleCore c h != c then
            some (b.foldl (fun u p => sendFar u c k h p.1 p.2.length (some (BitVec.ofNat 64 (leNat p.2)))) t)
          else (grantLanes t c k (portElem (at_ / 32)) h true (b.map fun p => (p.1, p.2.length))).map fun u => performBst u c k h b
        | _ =>
          let (u, lanes) := performLanes t c k f ops
          match effectWait k l lanes with
          | none => some u
          | some w =>
            match w.trap, lanes.any (·.bad) with
            | some tr, true =>
              some (match w.again with
                | some a => takeTrap (modCtx t c k fun y => { y with flowLatch := (ctxOf u c k).flowLatch, late := a :: y.late }) c k tr false
                | none => takeTrap u c k tr false)
            | _, _ => some (if w.firing.om = 0 ∧ lanes.all (·.req.isNone) then u else lateFiring u c w)

/-- Inserts an effect after those of the same or a lower LSID. -/
def insertEffect (f : Effect) : List Effect → List Effect
  | [] => [f]
  | g :: r => if f.lsid < g.lsid then f :: g :: r else g :: insertEffect f r

/-- Effects in LSID order, COPY after every LSID, the others after it (R307). -/
def sortEffects (l : List Effect) : List Effect := l.foldl (fun a f => insertEffect f a) []

/-- The bytes the save budget counts besides declared lanes: 6 KiB an ACC slot, 64 KiB a binding that may hold a plane
(R403). -/
def accSlots (x : Core) (k : Nat) : Nat :=
  x.elems.foldl (fun n p =>
    let w := lookD p.2.ways k Way.reset
    n + ((List.range 32).filter fun i => w.slotv.getLsbD i && wordOpc (lookD w.slots i 0) == 0xA9).length) 0
def budgetOk (s : State) (c k extra : Nat) : Bool :=
  let x := coreOf s c
  let ctx := ctxIn x k
  lamBytes ctx + extra + 6144 * accSlots x k + 65536 * (ctx.binds.filter fun b => !b.2.plane.isNone || b.2.state != .stopped).length
    ≤ 229376

/-- Whether a laminated effect must wait for a transit bit (R64, R294). -/
def lamWaits (x : Ctx) (f : Effect) : Bool :=
  match f with | .ldecl n _ => inTransit x n | .settle n => inTransit x n | _ => false

/-- Performs an effect that makes no access. -/
def performPlain (s : State) (c k age : Nat) (f : Effect) : State :=
  match f with
  | .copy fr => modCore s c fun x => { x with results := x.results ++ [{ fr with due := s.cycle }] }
  | .ldecl n d => declareLam s c k n d
  | .ply n u l => contribute s c k u n l
  | .settle n => settleLam s c k n
  | .sink e slot t =>
    modCtx s c k fun x =>
      { x with sinks := put x.sinks (e * 32 + slot) (lookD x.sinks (e * 32 + slot) [] ++ [{ tok := t, after := s.nextId, age := age }]) }
  | .ctxf col => modCtx s c k fun x =>
      { x with colours := match look x.colours col.toNat with
          | some (g, _) => put x.colours col.toNat (g, true) | none => x.colours }
  | _ => s

/-- Whether an effect accesses memory or a buffer. -/
def Effect.access (f : Effect) : Bool := f.lsid < 32

/-- Whether an effect is a laminated one. -/
def Effect.lam (f : Effect) : Bool := match f with | .ldecl _ _ => true | .ply _ _ _ => true | .settle _ => true | _ => false

/-- Whether an effect waits behind committed ones that are still to be performed: every access, since a read among those
comes before each later store, and laminated contributions (R112, R134), a COPY's hand-over (R128), and a sink's token, whose
commit is a release (R123). -/
def Effect.waitsLate (f : Effect) : Bool := match f with | .ctxf _ => false | _ => true

/-- An effect joins those still to be performed. -/
def queueLate (s : State) (c k : Nat) (l : Late) : State := modCtx s c k fun x => { x with late := x.late ++ [l] }

/-- Tries to perform one committed effect: none when it must wait; a fault has its record written and leaves it waiting
(R401). -/
def tryEffect (s : State) (c k : Nat) (l : Late) : Option (State × Option Nat) :=
  if !l.eff.access then
    (if (l.eff.lam && regionReads s c k) || lamWaits (ctxOf s c k) l.eff then none else some (performPlain s c k l.age l.eff, none))
  else
    match effectFault true s c k l.eff with
    | (t, some d) =>
      if d.cause = .none then none
      else
        let (u, n) := takeFault (violData t c k l.eff.acc d) c k
          (dataFault t c k (l.eff.place / 32) (l.eff.place % 32) l.eff.lsid l.eff.kind l.colour l.iter d)
        some (u, n)
    | (t, none) => (performEffect t c k l).map fun u => (u, none)

/-- Performs a commit's effects in order; from the first that must wait on, they queue. -/
def performAll (s : State) (c k : Nat) (col : Byte) (it : Half) (age : Nat) : List Effect → State
  | [] => s
  | f :: r =>
    let l : Late := { eff := f, colour := col, iter := it, age := age, stop := none }
    let t :=
      if (ctxOf s c k).late ≠ [] ∧ f.waitsLate then queueLate s c k l
      else match tryEffect s c k l with
        | none => queueLate s c k l
        | some (u, some n) => queueLate u c k { l with stop := some n }
        | some (u, none) => u
    performAll t c k col it age r

/-- Performs the committed effects that wait, from the head on while nothing holds them (R401). -/
def performLate (s : State) (c k : Nat) : Nat → State
  | 0 => s
  | n + 1 =>
    let x := ctxOf s c k
    match x.late with
    | [] => s
    | l :: r =>
      if x.trap.isSome || (match l.stop with | some m => !isReleased x.r m | none => false) then s
      else
        match tryEffect (modCtx s c k fun y => { y with late := r }) c k l with
        | none => s
        | some (u, some m) => modCtx u c k fun y => { y with late := { l with stop := some m } :: y.late }
        | some (u, none) => performLate u c k n

/-- Whether an acquire or an SC operation of the region is still to be performed: its later loads wait (R117, R307). -/
def acqPending (s : State) (c k : Nat) : Bool :=
  (s.reqs.any fun r => r.who == .unit c k 1 && r.answer.isNone && (r.sc || r.acq)) ||
    (ctxOf s c k).late.any fun l => l.eff.acquires

/-- The first fault, in LSID order, among effects whose fault aborts the instance: all but ordered atomics. -/
def commitFault (s : State) (c k : Nat) : List Effect → State × Option (Effect × DFault)
  | [] => (s, none)
  | f :: r =>
    if !f.access || (match f with | .atomic _ _ _ _ b _ _ => b | _ => false) then commitFault s c k r
    else match effectFault true s c k f with
      | (t, some d) => (t, some (f, d))
      | (t, none) => commitFault t c k r

/-- The ILLOP of an instance at its commit: a CTXF of a colour that is not ACTIVE (R289), or an LDECL over the save
budget (R403). -/
def commitIllop (s : State) (c k : Nat) (l : List Effect) : Bool :=
  l.any fun f =>
    match f with
    | .ctxf col => !colourActive (ctxOf s c k) col
    | .ldecl n d => !budgetOk s c k (declWidth d * 48 - declWidth (lamOf (ctxOf s c k) n).decl * 48)
    | _ => false

/-- The value an EXIT's token carries in a chain (R292). -/
def exitValue (t : Token) : Nat :=
  if 2 ≤ t.lanes.length then (nth t.lanes 0 0).toNat + 2 ^ 32 * (nth t.lanes 1 0).toNat else (nth t.lanes 0 0).toNat

/-- What a commit does besides the effects: the instance goes, a chain whose EXIT carried zero ends, trace and progress
(R160, R164). -/
def retireInst (s : State) (c k : Nat) (i : Inst) : State :=
  let ends := i.chain && (match i.exitTok with | some (_, t) => exitValue t == 0 | none => false)
  let s1 := modCtx s c k fun x =>
    { x with insts := x.insts.filter fun j => j.age != i.age
             chain := if ends then none else x.chain }
  let s2 := markProgress s1 c k
  trace s2 c k 5 (place i.colour.toNat 38 ||| i.iter.setWidth 64) 0 (BitVec.ofNat 64 i.va)

/-- Commits an instance that is oldest and COMPLETE, or stops it: POISON or FPX at its exit (R397), ILLOP, a fault. A copy
that stalls one of its accesses, a locked page-table entry, or a transit bit holds the commit. -/
def commitInst (s : State) (c k : Nat) (i : Inst) : State :=
  let x := ctxOf s c k
  let l := sortEffects i.effects
  match i.exitTok with
  | none => s
  | some (at_, t) =>
    match exitTrap x t.xb with
    | some cause => trapInst s c k i.age (dataTrap cause (at_ / 32) (at_ % 32) t.xb i.colour i.iter)
    | none =>
      if commitIllop s c k l then trapInst s c k i.age (dataTrap .illop (at_ / 32) (at_ % 32) 0 i.colour i.iter)
      else if (l.any (lamWaits x)) || l.any (effectStalls s c k) then s
      else
        match commitFault s c k l with
        | (u, some (f, d)) =>
          if d.cause = .none then s
          else
            faultInst (violData u c k f.acc d) c k i.age
              (dataFault u c k (f.place / 32) (f.place % 32) f.lsid f.kind i.colour i.iter d)
        | (u, none) => retireInst (performAll u c k i.colour i.iter i.age l) c k i

/-! ### When a load must wait -/

/-- Loads whose word makes them an acquire: LDE, BLD and AXRD with an ordering scope (R307). -/
def isAcqLoad (w : W32) : Bool :=
  (wordOpc w == 0xC0 || wordOpc w == 0xC2 || wordOpc w == 0xD5) && 1 ≤ wordOrd w && wordOrd w ≤ 5
/-- Instructions performed at commit that are an acquire: ordered atomics and SC operations. -/
def isAcqLate (w : W32) : Bool :=
  (0xC8 ≤ wordOpc w && wordOpc w ≤ 0xD3 && wordOrd w != 0) || ((wordOpc w == 0xC0 || wordOpc w == 0xC1) && wordOrd w == 6)

/-- Whether an instance's load at a place has fired, or been closed by a null operand. -/
def Inst.loaded (i : Inst) (at_ : Nat) : Bool := i.loads.any fun r => r.at_ == at_

/-- Whether an instruction of an instance is an acquire that is still to come: a load until it fires or is closed, an
operation of the commit unless it has ended with a null operand, or acts on UO pages (R117, R307). -/
def Inst.acquires (i : Inst) (w : Nat × W32) : Bool :=
  (isAcqLoad w.2 && !i.loaded w.1) ||
    (isAcqLate w.2 && (match i.effects.find? fun q => q.access && q.place == w.1 with
      | some q => q.acquires
      | none => !i.closedE.contains w.1 && !i.loaded w.1))

/-- Whether an older instance's acquire is still to come. -/
def olderAcquire (y : Core) (k age : Nat) : Bool :=
  let x := ctxIn y k
  (olderInsts x age).any fun j =>
    match placeOf x j.place with | some p => (placeWords y k p).any j.acquires | none => false

/-- Whether an acquire BLD of the region waits for another core's buffer. -/
def farAcquires (s : State) (c k : Nat) : Bool :=
  let y := coreOf s c
  y.loads.any fun w => w.firing.way == k &&
    (match w.at_ with | some a => isAcqLoad (slotWord y (a / 32) k (a % 32)) | none => false) &&
    w.lanes.any fun l => s.bufreqs.any fun b => l.req == some b.id && b.answer.isNone

/-- Whether an acquire that precedes an instance holds its reads. -/
def acqHolds (s : State) (c k age : Nat) : Bool :=
  acqPending s c k || farAcquires s c k || olderAcquire (coreOf s c) k age

/-- A load is on record in its instance. -/
def noteLoad (s : State) (c k age : Nat) (r : LoadRec) : State :=
  modInst s c k age fun i => { i with loads := i.loads ++ [r] }

/-- The record of a load that reads nothing: one with a null operand, or a gather (R134). -/
def LoadRec.bare (at_ lsid : Nat) : LoadRec := { at_ := at_, lsid := lsid, space := 0, cells := [], so := false, seen := [] }

/-- A load ends that waits for no answer: one with a null operand, a gather, or an operation of the commit; its instance may
then be COMPLETE (R159). -/
def closeLoad (s : State) (f : Fire) (lsid : Nat) : State :=
  checkComplete (noteLoad s f.c f.k f.set.inst (.bare f.at_ lsid)) f.c f.k f.set.inst

/-! ### Recording an effect at its firing -/

/-- Records the effect of a firing of an instance, when it finds room; outside any instance it is performed at once, or
queues. -/
def recordEffect (s : State) (f : Fire) (x : Effect) : Option State :=
  if f.set.inst = 0 then
    (if lamWaits (ctxOf s f.c f.k) x then none else some (performAll s f.c f.k f.set.colour f.set.iter 0 [x]))
  else if !commitRoom s f.c f.k f.set.inst x.entries then none
  else some (modInst s f.c f.k f.set.inst fun i => { i with effects := i.effects ++ [x] })

end Sys2Proof.Machine
end

