-- ==== Sys2Proof/Machine/ElemToken.lean ====
section
/-! DEFINITION. The element instructions that make, steer and end tokens (R287–R293), and the nodes of configuration
slots (R300–R302). -/
namespace Sys2Proof.Machine

/-! ### PACK and UNPACK (R153, R287) -/

/-- A token under another colour. -/
def Fire.tokIn (f : Fire) (col : Byte) (lanes : List W32) : Token := { f.tok lanes 0 with colour := col }

/-- PACK's effect (R274): a null operand gives the null token of the firing's tag; ILLOP unless the colour is ACTIVE and
ga + gb ≤ gc; it waits for the window of R155. -/
def packOp (col : Byte) (f : Fire) (s : State) : State :=
  let x := ctxOf s f.c f.k
  let ga := colourWidth x (nth (f.set.toks.map (·.colour)) 0 0)
  let gb := colourWidth x (nth (f.set.toks.map (·.colour)) 1 0)
  let gc := colourWidth x col
  if f.void then deliver s f 1 f.null
  else if !colourActive x col || gc < ga + gb then fireIllop s f
  else if !tagOpen s f.c f.k col f.set.iter then waitIssue s f
  else
    deliver s f 1 (f.tokIn col ((List.range gc).map fun l => if l < ga then f.x 0 l else if l < ga + gb then f.x 1 (l - ga) else 0))

/-- PACK (R287). -/
def execPack (h : EHdr) (col : BitVec 8) (s : State) : Out :=
  .next (match fireOf h s with | none => s | some f => packOp col f s)

/-- UNPACK's effect: the constant names the two colours. -/
def unpackOp (f : Fire) (s : State) : State :=
  let x := ctxOf s f.c f.k
  let w := lookD (wayOf (coreOf s f.c) f.e f.k).k f.hdr.ks.toNat 0
  let a : Byte := w.extractLsb' 0 8
  let b : Byte := w.extractLsb' 8 8
  let t := nth f.set.toks 0 f.null
  let ga := colourWidth x a
  let gb := colourWidth x b
  if f.void then deliver s f 1 f.null
  else if w.extractLsb' 16 16 ≠ 0 ∨ !colourActive x a ∨ !colourActive x b ∨ f.g < ga + gb then fireIllop s f
  else if !tagOpen s f.c f.k a f.set.iter || !tagOpen s f.c f.k b f.set.iter then waitIssue s f
  else
    deliver2 s f 1 (f.tokIn a ((List.range ga).map fun l => nth t.lanes l 0))
      (f.tokIn b ((List.range gb).map fun l => nth t.lanes (ga + l) 0))

/-- UNPACK (R287). -/
def execUnpack (h : EHdr) (s : State) : Out :=
  .next (match fireOf h s with | none => s | some f => unpackOp f s)

/-! ### Colours (R288, R289) -/

/-- CTXA's effect: the allocation of R150 at the firing. -/
def ctxaOp (f : Fire) (s : State) : State :=
  let w := (f.x 0 0).toNat
  let lanes (v : W32) : List W32 := f.lanes.map fun l => if l = 0 then v else 0
  if f.void then deliver s f 2 f.null
  else if w < 1 ∨ 32 < w then fireIllop s f
  else
    match grantColour (coreOf s f.c) f.k w with
    | none => deliver s f 2 (f.tok (lanes 0xFF) 0)
    | some (n, g) =>
      let s1 := modCtx s f.c f.k fun x =>
        { x with colours := put x.colours n (g, false)
                 insts := updFirst x.insts (fun i => i.age == f.set.inst) fun i => { i with colours := i.colours ++ [BitVec.ofNat 8 n] } }
      deliver s1 f 2 (f.tok (lanes (BitVec.ofNat 32 (n + g * 256))) 0)

/-- CTXA (R288). -/
def execCtxa (h : EHdr) (s : State) : Out := .next (match fireOf h s with | none => s | some f => ctxaOp f s)

/-- An instruction whose effect is recorded and that has no result: it waits in its element while the commit buffer has
no room. -/
def fireEffect (s : State) (f : Fire) (x : Effect) : State :=
  if f.set.inst = 0 && commitIllop s f.c f.k [x] then fireIllop s f
  else match recordEffect s f x with | none => waitIssue s f | some t => endFire t f

/-- CTXF (R289). -/
def execCtxf (h : EHdr) (s : State) : Out :=
  .next (match fireOf h s with
    | none => s
    | some f => if f.void then endFire s f else fireEffect s f (.ctxf ((f.x 0 0).extractLsb' 0 8)))

/-! ### Flow (R290–R293) -/

/-- NULL (R290): a null token whether its operand is null or not. -/
def execNull (h : EHdr) (s : State) : Out :=
  .next (match fireOf h s with | none => s | some f => deliver s f 1 f.null)

/-- An operand's lanes over the firing's width. -/
def Fire.lanesOf (f : Fire) (n : Nat) : List W32 := f.lanes.map fun l => f.x n l

/-- MERGE's effect: the single non-null operand. -/
def mergeOp (f : Fire) (s : State) : State :=
  let a := (f.op 0).isNull
  let b := (f.op 1).isNull
  if !colourActive (ctxOf s f.c f.k) f.set.colour || (!a && !b) then fireIllop s f
  else if a && b then deliver s f 1 f.null
  else deliver s f 1 (f.tok (f.lanesOf (if a then 1 else 0)) 0)

/-- MERGE (R290). -/
def execMerge (h : EHdr) (s : State) : Out := .next (match fireOf h s with | none => s | some f => mergeOp f s)

/-- STEER's effect: x0 to the even entries when true, to the odd ones when false, null to the others. -/
def steerOp (f : Fire) (s : State) : State :=
  let t := f.tok (f.lanesOf 0) 0
  if !colourActive (ctxOf s f.c f.k) f.set.colour then fireIllop s f
  else if f.void then deliver s f 1 f.null
  else if f.x 1 0 ≠ 0 then deliver2 s f 1 t f.null else deliver2 s f 1 f.null t

/-- STEER (R291). -/
def execSteer (h : EHdr) (s : State) : Out := .next (match fireOf h s with | none => s | some f => steerOp f s)

/-- The exit predictor learns a successor; of 64 entries, the one of the lowest address goes (R163, log 12). -/
def predPut (m : NMap Nat) (key va : Nat) : NMap Nat :=
  put (if (look m key).isNone ∧ 64 ≤ m.length then m.drop 1 else m) key va

/-- What a known successor does to the chain (R163, R164): a wrong prediction discards the instances created after the
EXIT's, and the first of them keeps the place in age order for the true successor. -/
def chainExit (s : State) (c k : Nat) (i : Inst) (va : Nat) : State :=
  let x := ctxOf s c k
  let asid := asidOf x
  let s0 := modCore s c fun y => { y with pred := predPut y.pred (i.va * 4096 + asid) va }
  match x.chain with
  | none => s
  | some h =>
    let after := (fromInst x i.age).drop 1 |>.filter (·.chain)
    let next (it : Half) : Option Chain := some { h with next := it, waiting := if va = 0 then none else some va, predicted := none }
    match after.find? fun j => j.state != .discarded with
    | none =>
      modCtx s0 c k fun y =>
        { y with chain := next h.next
                 insts := if va = 0 then y.insts.filter fun q => !(after.any fun j => j.age == q.age) else y.insts }
    | some j =>
      if j.va = va then s0
      else
        let ages := after.map (·.age)
        modCtx (cutInsts s0 c k after) c k fun y =>
          { y with
            insts := (y.insts.filter fun q => !ages.contains q.age || (q.age == j.age && va != 0)).map fun q =>
              if q.age = j.age then q.blank .discarded else q
            chain := next j.iter }

/-- EXIT's effect: one exit counted; a second non-null exit, or a successor that is no block address, is ILLOP. -/
def exitOp (f : Fire) (s : State) : State :=
  let isNull := (f.op 0).isNull
  let t := f.tok (if isNull then [] else f.lanesOf 0) 0
  match instOf (ctxOf s f.c f.k) f.set.inst with
  | none => endFire s f
  | some i =>
    let va := exitValue t
    if !isNull && (i.exitTok.isSome || (i.chain && va % 128 != 0)) then fireIllop s f
    else
      let s1 := modInst s f.c f.k i.age fun j =>
        { j with exits := j.exits + 1, exitTok := if isNull then j.exitTok else some (f.at_, t) }
      let s2 := if i.chain && !isNull then chainExit s1 f.c f.k i va else s1
      endFire (checkComplete s2 f.c f.k i.age) f

/-- EXIT (R292). -/
def execExit (h : EHdr) (s : State) : Out := .next (match fireOf h s with | none => s | some f => exitOp f s)

/-- Tokens a SINK slot holds, committed unread or pending. -/
def sinkHolds (x : Ctx) (e slot : Nat) : Nat :=
  let mine (f : Effect) : Bool := match f with | .sink a b _ => a == e && b == slot | _ => false
  (lookD x.sinks (e * 32 + slot) []).length + (x.late.filter fun p => mine p.1).length +
    x.insts.foldl (fun n i => n + (i.effects.filter mine).length) 0

/-- SINK's effect. -/
def sinkOp (f : Fire) (s : State) : State :=
  if (f.op 0).isNull then endFire s f
  else if 8 ≤ sinkHolds (ctxOf s f.c f.k) f.e f.set.slot then waitIssue s f
  else fireEffect s f (.sink f.e f.set.slot (f.tok (f.lanesOf 0) 0))

/-- SINK (R293). -/
def execSink (h : EHdr) (s : State) : Out := .next (match fireOf h s with | none => s | some f => sinkOp f s)

/-! ### Counter nodes and accumulators (R301, R302) -/

/-- The CNT slots of a chain of an element's way, by level. -/
def cntSlot (w : Way) (chain level : Nat) : Option Nat :=
  (List.range 32).find? fun i =>
    let x := lookD w.slots i 0
    w.slotv.getLsbD i && wordOpc x == 0xA8 && field x 2 2 == chain && field x 0 2 == level

/-- Start, step, count and colour of a node. -/
def cntConst (w : Way) (slot n : Nat) : W32 := lookD w.k (field (lookD w.slots slot 0) 17 3 + n) 0

/-- A chain at the start of its sweep: one node per level (R301). -/
def chainStart (w : Way) (e chain : Nat) : List Node :=
  (List.range 4).filterMap fun lv =>
    match cntSlot w chain lv with
    | some sl => some { elem := e, slot := sl, level := lv, value := cntConst w sl 0, left := field (cntConst w sl 2) 0 24 }
    | none => none

/-- The node that emits next: the innermost with emissions left; its inner neighbour then starts its own sweep. The list
is innermost first. -/
def emitNext (w : Way) : List Node → Option (Nat × W32 × Bool × List Node)
  | [] => none
  | n :: r =>
    if n.left = 0 then
      match emitNext w r with
      | none => none
      | some (sl, v, last, r') =>
        let starts := match r with | q :: _ => q.left != 0 | [] => false
        some (sl, v, last,
          (if starts then { n with value := cntConst w n.slot 0, left := field (cntConst w n.slot 2) 0 24 } else n) :: r')
    else some (n.slot, n.value, n.left == 1, { n with value := n.value + cntConst w n.slot 1, left := n.left - 1 } :: r)

/-- Inner nodes of a chain start exhausted: the outermost emits first (R301). -/
def sweepStart (l : List Node) : List Node :=
  (List.range l.length).filterMap fun i =>
    match l[i]? with | some n => some (if i + 1 < l.length then { n with left := 0 } else n) | none => none

/-- Whether a way's port registers named by a set of ports are free: no register, and no result on its way. -/
def portsFree (y : Core) (e k : Nat) (om : BitVec 4) : Bool :=
  let x := elemIn y e
  (portsOf om).all fun p =>
    (look x.ports (k * 4 + p)).isNone &&
    !(y.results.any fun r => r.elem == e && r.way == k && r.om.getLsbD p) &&
    !(y.loads.any fun r => r.firing.elem == e && r.firing.way == k && r.firing.om.getLsbD p) &&
    !(match x.issuing with | some r => r.way == k && (BitVec.ofNat 4 (wordOm (slotWord y e k r.slot))).getLsbD p | none => false)

/-- A counter node emits its next token (R301): under the window of R155, while its port registers are free and the
sources open. R181's ILLOP is of a firing; an emission that a network entry takes to a core outside the task makes none
(log 73). -/
def counterNode (s : State) (c k e m : Nat) : State :=
  let y := coreOf s c
  let x := ctxIn y k
  let w := wayOf y e k
  match look x.counters (e * 4 + m) with
  | none => s
  | some ch =>
    if !ch.running || x.gates != 0 then s
    else
      match emitNext w ch.nodes with
      | none => modCtx s c k fun z => { z with counters := put z.counters (e * 4 + m) { ch with running := false } }
      | some (sl, v, last, nodes) =>
        let word := lookD w.slots sl 0
        let om : BitVec 4 := BitVec.ofNat 4 (wordOm word)
        let col : Byte := (cntConst w sl 2).extractLsb' 24 8
        if !colourActive x col then takeTrap s c k (dataTrap .illop e sl 0 col ch.next) false
        else if !portsFree y e k om || !tagOpen s c k col ch.next then s
        else
          let t : Token := { colour := col, iter := ch.next, lanes := List.replicate (colourWidth x col) v, xb := 0,
                             last := last, src := 0 }
          let more := (emitNext w nodes).isSome
          let s1 := modCtx s c k fun z =>
            { z with counters := put z.counters (e * 4 + m) { ch with nodes := nodes, next := ch.next + 1, running := more, made := ch.made + 1 } }
          modElem s1 c e fun z =>
            { z with ports := (portsOf om).foldl (fun ps p =>
                if branches w p = [] then ps
                else put ps (k * 4 + p) { even := t, odd := t, slot := sl, done := 0, freeAt := s.cycle }) z.ports }

/-- CNT (R301): a counter node's word makes the next emission of its chain; it consumes no operand. -/
def execCnt (h : EHdr) (chain lv : BitVec 2) (s : State) : Out :=
  .next (match fireOf h s with
    | none => s
    | some f =>
      if (cntSlot (wayOf (coreOf s f.c) f.e f.k) chain.toNat lv.toNat).isSome then
        counterNode (doneIssue s f) f.c f.k f.e chain.toNat
      else doneIssue s f)

/-- Whether a run may take a token of an iteration: its held LAST is absent or not older (R302). -/
def runTakes (r : AccRun) (it : Half) : Bool := match r.held with | none => true | some (_, h) => !older h it

/-- Combines a token's lanes into a run. -/
def runAdd (z : RedOp) (y : Ty) (g : Nat) (f : Fire) (r : AccRun) : AccRun :=
  let k := redKind z y
  { lanes := (List.range (max g r.lanes.length)).map fun l =>
      if l < g ∧ !(f.op 0).isNull then combineRec k (nth r.lanes l emptyRec) (redRec z y (f.x 0 l) 0) else nth r.lanes l emptyRec
    xb := r.xb ||| f.xb
    held := if f.last then some (f.set.colour, f.set.iter) else r.held }

/-- The runs after a firing, none when it must wait. -/
def accRuns (z : RedOp) (y : Ty) (f : Fire) (l : List AccRun) : Option (List AccRun) :=
  if l.any fun r => runTakes r f.set.iter then some (updFirst l (fun r => runTakes r f.set.iter) (runAdd z y f.g f))
  else if 4 ≤ l.length then none
  else some (l ++ [runAdd z y f.g f { lanes := [], xb := 0, held := none }])

/-- ACC (R302). -/
def execAcc (h : EHdr) (y : Ty) (z : RedOp) (s : State) : Out :=
  .next (match fireOf h s with
    | none => s
    | some f =>
      let key := f.k * 32 + f.set.slot
      match accRuns z y f (lookD (elemOf s f.c f.e).acc key []) with
      | none => waitIssue s f
      | some l => endFire (modElem s f.c f.e fun x => { x with acc := put x.acc key l }) f)

end Sys2Proof.Machine
end

