-- ==== Sys2Proof/Machine/ElemLam.lean ====
section
/-! DEFINITION. The laminated element instructions (R294–R298). -/
namespace Sys2Proof.Machine

/-- A laminated write ends: its register's count is closed (R159, R298). -/
def endLam (s : State) (f : Fire) : State :=
  if f.set.inst = 0 then endFire s f
  else endFire (checkComplete (closeLam s f.c f.k f.set.inst f.at_) f.c f.k f.set.inst) f

/-- A laminated write with an effect. -/
def fireLam (s : State) (f : Fire) (x : Effect) : State :=
  if f.set.inst = 0 && commitIllop s f.c f.k [x] then fireIllop s f
  else match recordEffect s f x with | none => waitIssue s f | some t => endLam t f

/-- LDECL (R294): the checks at the firing, the effect at commit. -/
def execLdeclE (h : EHdr) (l : LReg) (s : State) : Out :=
  .next (match fireOf h s with
    | none => s
    | some f =>
      if f.void then endLam s f
      else if declOk (f.x 0 0) then fireLam s f (.ldecl l.toNat (f.x 0 0)) else fireIllop s f)

/-- The lane records a PLY contributes to a register declared `d` (R295). -/
def plyLanes (f : Fire) (y : Ty) (d : W32) : List Rec :=
  let xb := (f.op 0).xb
  let xu : BitVec 7 := if xb = 0 then 0x7F else BitVec.ofNat 7 f.e
  (List.range (declWidth d)).map fun l =>
    if l < f.g then
      lamRec d ((tyFmt y).read (f.x 0 l).toNat) (intVal (tyBits y) false (f.x 0 l).toNat) xb xu
    else emptyRec

/-- PLY (R295). -/
def execPlyE (h : EHdr) (y : Ty) (l : LReg) (s : State) : Out :=
  .next (match fireOf h s with
    | none => s
    | some f =>
      let d := (lamOf (ctxOf s f.c f.k) l.toNat).decl
      if f.void then endLam s f
      else if !declared d || !tySuits y (declFmt d) then fireIllop s f
      else fireLam s f (.ply l.toNat f.e (plyLanes f y d)))

/-- Whether an effect is a laminated one on a register. -/
def Effect.touches (q : Effect) (n : Nat) : Bool :=
  match q with | .ldecl r _ => r == n | .ply r _ _ => r == n | .settle r => r == n | _ => false

/-- Whether a contribution, a settling or a declaration of a register precedes an instance and is still to be performed:
an older instance may still make it, or holds it, or a committed one waits (R132). -/
def lamPending (y : Core) (k age n : Nat) : Bool :=
  let x := ctxIn y k
  (x.late.any fun l => l.eff.touches n) ||
  (olderInsts x age).any fun i =>
    match placeOf x i.place with
    | none => false
    | some p => (placeWords y k p).any fun w =>
        isLamWrite w.2 && field w.2 0 6 == n && (!i.closedL.contains w.1 || i.effects.any fun q => q.touches n)

/-- The value a gather gives a firing (R296). -/
def rdlLanes (f : Fire) (d : W32) (z : RdlMode) (l : List Rec) : List W32 × Xb × Xb :=
  let w := declWidth d
  let one (i : Nat) : Nat × Xb := lamRead d z (nth l i emptyRec)
  (f.lanes.map (fun i => if w ≤ i then 0 else BitVec.ofNat 32 (one i).1),
   (List.range w).foldl (fun b i => b ||| recXb (nth l i emptyRec)) 0,
   f.lanes.foldl (fun b i => if w ≤ i then b else b ||| (one i).2) 0)

/-- What a gather waits for: the transit bit, and what precedes its instance, acquires among it (R64, R132, R134). -/
def rdlWaits (s : State) (c k age n : Nat) : Bool :=
  inTransit (ctxOf s c k) n || lamPending (coreOf s c) k age n || acqHolds s c k age

/-- RDL (R296). -/
def execRdlE (h : EHdr) (z : RdlMode) (l : LReg) (s : State) : Out :=
  .next (match fireOf h s with
    | none => s
    | some f =>
      let x := ctxOf s f.c f.k
      let d := (lamOf x l.toNat).decl
      let hi := match z with | .hi => declFmt d != 3 | _ => false
      let note (t : State) : State := closeLoad t f 99
      if f.void then deliver (note s) f 1 f.null
      else if rdlWaits s f.c f.k f.set.inst l.toNat then waitIssue s f
      else if !declared d || hi then fireIllop s f
      else
        let (v, pl, own) := rdlLanes f d z (gatherLanes x l.toNat)
        let lat := 10 + (present x l.toNat).length * ((declWidth d + 7) / 8)
        deliver (note (noteBits s f own)) f lat (f.tok v (pl ||| own)))

/-- SETTLE (R297). -/
def execSettleE (h : EHdr) (l : LReg) (s : State) : Out :=
  .next (match fireOf h s with
    | none => s
    | some f =>
      if f.void then endLam s f
      else if declared (lamOf (ctxOf s f.c f.k) l.toNat).decl then fireLam s f (.settle l.toNat) else fireIllop s f)

end Sys2Proof.Machine
end

