-- ==== Sys2Proof/Machine/ElemMem.lean ====
section
/-! DEFINITION. The element instructions on memory and typed buffers (R304–R307, R309, R314, R320–R322): loads as they
fire, with forwarding and replay (R113, R465), and the effects that wait for the commit. -/
namespace Sys2Proof.Machine

/-! ### Addresses (R304) -/

/-- Lane l's address: bits [31:0] of the address operand, bits [47:32] from the hi operand `n`, if the word has one. -/
def Fire.va (f : Fire) (n l : Nat) : Nat := (f.x 0 l).toNat + 2 ^ 32 * field (f.x n 0) 0 16
/-- Whether the hi operand makes every address non-canonical. -/
def Fire.hiBad (f : Fire) (n : Nat) : Bool := (f.x n 0).extractLsb' 16 16 != 0

/-- The bytes of each lane. -/
def Fire.cells (f : Fire) (n size : Nat) : List (Nat × Nat) := f.lanes.map fun l => (f.va n l, size)

/-! ### When a load must wait -/

/-- Whether an acquire of the own instance with a lower LSID, or what a replayed load is to wait for, holds a load (R307,
R465). -/
def ownHolds (y : Core) (k : Nat) (i : Inst) (lsid : Nat) : Bool :=
  match placeOf (ctxIn y k) i.place with
  | none => false
  | some p => (placeWords y k p).any fun w =>
      hasLsid w.2 && wordLsid w.2 < lsid &&
        ((isAcqLoad w.2 && !i.loaded w.1) ||
         (i.held.contains lsid && ((isEffect w.2 && !i.closedE.contains w.1) || (isLoad w.2 && !i.loaded w.1))))

/-- Whether cells share a byte. -/
def cellsMeet (a b : List (Nat × Nat)) : Bool := a.any fun p => b.any fun q => overlap p.1 p.2 q.1 q.2

/-- Whether an effect is an atomic or accumulate operation on some of the cells. -/
def Effect.updates (q : Effect) (cells : List (Nat × Nat)) : Bool :=
  match q with
  | .atomic _ _ _ _ _ _ _ => cellsMeet q.cells cells
  | .axadd _ _ _ _ _ _ => cellsMeet q.cells cells
  | .axclr _ _ _ _ => cellsMeet q.cells cells
  | _ => false

/-- ORD of the page of an address, where it may be read (R15). -/
def ordAt (s : State) (c k va : Nat) : Option Nat :=
  match (translate s c (ctxOf s c k).r.xlroot (BitVec.ofNat 64 va) needLoad).2 with
  | .ok p => some p.ord
  | .error _ => none

/-- Whether an access is ordered (R401): an ordering on an SO or RC page, or any on an SO page. -/
def orderedAt (s : State) (f : Fire) (ord va : Nat) : Bool :=
  match ordAt s f.c f.k va with
  | some o => (ord != 0 && o != 2) || o == 1
  | none => ord != 0

/-- Whether cells lie in an SO page. -/
def anySo (s : State) (c k : Nat) (cells : List (Nat × Nat)) : Bool := cells.any fun p => ordAt s c k p.1 == some 1

/-- The record of a global load; its bytes on UO pages are not kept in order (R114). -/
def globalRec (s : State) (f : Fire) (lsid : Nat) (cells : List (Nat × Nat)) : LoadRec :=
  { at_ := f.at_, lsid := lsid, space := 0, cells := cells.filter fun p => ordAt s f.c f.k p.1 != some 2,
    so := anySo s f.c f.k cells, seen := [] }

/-- Whether two loads are performed in program order (R115, R116, R126). Spaces are 0, or 1 + the handle; a handle's upper
five bits name its buffer's core and space. -/
def LoadRec.orders (a b : LoadRec) : Bool :=
  (a.so && b.so) ||
    (if a.space = 0 ∨ b.space = 0 then a.space == b.space && cellsMeet a.cells b.cells
     else (a.space - 1) / 2048 == (b.space - 1) / 2048)

/-- The loads on record that follow one in program order, with their instances. -/
def laterLoads (x : Ctx) (age lsid : Nat) : List (Nat × LoadRec) :=
  (fromInst x age).flatMap fun i => (i.loads.filter fun r => i.age != age || lsid < r.lsid).map fun r => (i.age, r)

/-- Whether a load on record still waits for answers. -/
def loadWaits (y : Core) (k age at_ : Nat) : Bool :=
  y.loads.any fun w => w.firing.way == k && w.at_ == some at_ && w.firing.even.src == age && w.lanes.any fun l => l.req.isSome

/-- Whether a store of the region to an SO page precedes an instance and is still to be performed, or may be: none of its
loads from SO pages goes ahead of it (R116). -/
def olderSo (s : State) (c k age : Nat) : Bool :=
  let y := coreOf s c
  let x := ctxIn y k
  (olderInsts x age).any fun j =>
    (match placeOf x j.place with
     | some p => (placeWords y k p).any fun w => isEffect w.2 && !j.closedE.contains w.1
     | none => false) || j.effects.any fun q => anySo s c k q.cells

/-- Whether order holds a load of a firing (R113, R115, R116, R307, R401, R465). -/
def loadHeld (s : State) (f : Fire) (ord : Nat) (r : LoadRec) : Bool :=
  let y := coreOf s f.c
  let x := ctxIn y f.k
  acqHolds s f.c f.k f.set.inst ||
  (x.late.any fun l => l.eff.updates r.cells) ||
  (x.late != [] && r.cells.any fun p => r.space == 0 && orderedAt s f ord p.1) ||
  (r.so && olderSo s f.c f.k f.set.inst) ||
  ((laterLoads x f.set.inst r.lsid).any fun p => r.orders p.2 && loadWaits y f.k p.1 p.2.at_) ||
  (match instOf x f.set.inst with
   | none => false
   | some i => ownHolds y f.k i r.lsid || (olderInsts x i.age).any fun j => j.effects.any fun q => q.updates r.cells)

/-! ### Forwarding (R113) -/

/-- The stores that precede a load in program order: committed ones that wait, older instances', then its own of a lower
LSID. -/
def earlierStores (x : Ctx) (age lsid : Nat) : List Effect :=
  x.late.map (·.eff) ++ (olderInsts x age).flatMap (fun i => sortEffects i.effects) ++
    (match instOf x age with | some i => (sortEffects i.effects).filter fun q => q.lsid < lsid | none => [])

/-- The byte lanes of a store give an address, the highest lane's last. -/
def laneByte (l : List (Nat × List Byte)) (a : Nat) : Option Byte :=
  l.foldl (fun b p => if p.1 ≤ a ∧ a < p.1 + p.2.length then some (nth p.2 (a - p.1) 0) else b) none

/-- The forwarded byte of a space: 0 global, or 1 + the handle. -/
def forwarded (l : List Effect) (space a : Nat) : Option Byte :=
  l.foldl (fun b q =>
    match (match q with
      | .store _ _ _ ls => if space = 0 then laneByte ls a else none
      | .bst _ _ _ h ls => if space = 1 + h.toNat then laneByte ls a else none
      | _ => none) with
    | some v => some v
    | none => b) none

/-- What stores give of a lane's bytes. -/
abbrev Given := List (Option Byte)
def givenOf (l : List Effect) (space a n : Nat) : Given := (List.range n).map fun i => forwarded l space (a + i)
/-- Whether stores give a lane whole, or in part. -/
def Given.whole (g : Given) : Bool := g.all (·.isSome)
def Given.mixed (g : Given) : Bool := !g.whole && g.any (·.isSome)
/-- The bytes of a lane: given, or read. -/
def Given.bytes (g : Given) (mem : List Byte) : List Byte :=
  (List.range g.length).map fun i => match nth g i none with | some v => v | none => nth mem i 0
/-- The indices of the bytes that are read. -/
def Given.open_ (g : Given) : List Nat := (List.range g.length).filter fun i => (nth g i none).isNone

/-- What a load's operation makes of its bytes: the value, and the bits of R321. -/
def readValue (op : ReqOp) (bs : List Byte) : Nat × Xb :=
  match op with
  | .axrd f => let o := axOfBytes bs; let r := axRead (axFmt f) o; (r.1, r.2 ||| o.xb)
  | _ => (leNat bs, 0)

/-- A lane that has its bytes. -/
def laneOf (op : ReqOp) (bs : List Byte) (bad : Bool) : LaneWait :=
  let (v, xb) := readValue op bs
  { req := none, v := BitVec.ofNat 32 v, xb := xb, bad := bad }

/-! ### What loads have seen -/

/-- A byte of a storage now: 0 HBM4, 1 host memory, 2 + core × 3 + space a typed buffer. -/
def byteNow (s : State) (st a : Nat) : Byte :=
  if st = 0 then seenByte s a
  else if st = 1 then readByte s.hostMem a
  else
    let x := coreOf s ((st - 2) / 3)
    let sp := (st - 2) % 3
    if rowPoisoned x sp a then 0 else readByte (lookD x.tbuf sp []) a
/-- The storage of a translated access, and of a place of a buffer. -/
def Phys.storage (p : Phys) : Nat := if p.host then 1 else 0
def BufPlace.storage (p : BufPlace) : Nat := 2 + p.core * 3 + p.space

/-- Whether a byte that a load has read is another one now. -/
def LoadRec.stale (r : LoadRec) (s : State) : Bool := r.seen.any fun b => byteNow s b.1 b.2.1 != b.2.2

/-- The instance that is replayed for loads that follow a load or store, and those of its loads (R465). -/
def replayVictim (x : Ctx) (age lsid : Nat) (p : LoadRec → Bool) : Option (Nat × List Nat) :=
  let l := (laterLoads x age lsid).filter fun q => p q.2
  match l with
  | [] => none
  | v :: _ => some (v.1, (l.filter fun q => q.1 == v.1).map (·.2.lsid))

/-- Later loads have read what they may not: their instance and younger ones are aborted and re-presented at once; the
replayed loads are then held (R465). -/
def replayLoads (s : State) (c k age lsid : Nat) (p : LoadRec → Bool) : State :=
  match replayVictim (ctxOf s c k) age lsid p with
  | none => s
  | some (v, ls) =>
    presentReady (modInst (abortFrom s c k v) c k v fun i => { i with held := i.held ++ ls }) c k

/-- A load has been performed: those that follow it, and that it orders, must read what is there now (R115, R116, R126). -/
def recheckLoads (s : State) (c k age : Nat) (r : LoadRec) : State :=
  replayLoads s c k age r.lsid fun q => r.orders q && q.stale s

/-! ### Firing a load -/

/-- Entries of the hold queue in use: waiting loads, and stores that a copy stalls at a commit (R56). -/
def holdUsed (s : State) (c : Nat) : Nat :=
  let y := coreOf s c
  y.hold.length + y.ctxs.foldl (fun n p =>
    match p.2.insts with
    | i :: _ => if i.state = .complete then n + (i.effects.filter (effectStalls s c p.1)).length else n
    | [] => n) 0

/-- The set moves to the hold queue, or waits in its element when that is full (R56). -/
def holdFire (s : State) (f : Fire) (w : Option Nat) : State :=
  if 8 ≤ holdUsed s f.c then waitIssue s f
  else modCore (doneIssue s f) f.c fun y => { y with hold := y.hold ++ [(f.e, { f.set with charges := [], held := true }, w)] }

/-- An access of a firing faults (R35): its instance is aborted; outside any instance the set waits for its record. A lock
that holds the walk holds the firing. -/
def faultFire (s : State) (f : Fire) (lsid kind acc : Nat) (d : DFault) : State :=
  let s1 := violData s f.c f.k acc d
  let rec_ := dataFault s f.c f.k f.e f.set.slot lsid kind f.set.colour f.set.iter d
  if d.cause = .none then holdFire s f none
  else if f.set.inst = 0 then
    let (t, n) := takeFault s1 f.c f.k rec_
    match n with | some m => holdFire t f (some m) | none => t
  else faultInst (doneIssue s1 f) f.c f.k f.set.inst rec_

/-- A load with a null operand is closed and delivers null. -/
def voidLoad (s : State) (f : Fire) (lsid : Nat) : State :=
  deliver (closeLoad s f lsid) f 1 f.null

/-- A load has fired: its token waits for LOAD_RESPONSE, with the lanes that are there. Those read at once are checked
against later loads. -/
def loadFired (s : State) (f : Fire) (y : Ty) (r : LoadRec) (lanes : List LaneWait) : State :=
  let t := f.tok [] 0
  if strays s f then fireIllop s f
  else
    let w : LoadWait := { firing := f.firing t t s.cycle, ty := y, at_ := if f.set.inst = 0 then none else some f.at_,
                          lanes := lanes, trap := none, again := none }
    let u := modCore (endFire (noteLoad s f.c f.k f.set.inst r) f) f.c fun z => { z with loads := z.loads ++ [w] }
    checkComplete (recheckLoads u f.c f.k f.set.inst r) f.c f.k f.set.inst

/-- A lane of a global load and what stores give of it: nothing on a UO page (R114). -/
def giveLanes (l : List Effect) (ops : List LaneOp) : List (LaneOp × Given) :=
  ops.map fun x => (x, givenOf (if x.p.ord = 2 then [] else l) 0 x.va x.op.bytes)

/-- Reads lanes at once, where stores do not give them: the lanes, and the bytes seen. Poison is latched (R86). -/
def readLanes (c k : Nat) : State → List (LaneOp × Given) → State × List LaneWait × List (Nat × Nat × Byte)
  | s, [] => (s, [], [])
  | s, (x, g) :: r =>
    let n := x.op.bytes
    let t := if g.whole then s else physFetch s x.p n
    let raw := (physRead t x.p n).1
    let bad := g.open_.find? fun i => !x.p.host && sectorPoisoned t (x.p.pa + i)
    let u := match bad with | some i => latchFlow t c k 0 (x.va + i) | none => t
    let (v, ws, seen) := readLanes c k u r
    (v, laneOf x.op (g.bytes raw) bad.isSome :: ws,
     (if x.p.ord = 2 then [] else g.open_.map fun i => (x.p.storage, x.p.pa + i, nth raw i 0)) ++ seen)

/-- Lanes in order: those that stores give whole, and those on their way. -/
def mixLanes : List (ReqOp × Given) → List LaneWait → List LaneWait
  | [], _ => []
  | (op, g) :: r, ws =>
    if g.whole then laneOf op (g.bytes []) false :: mixLanes r ws
    else match ws with | w :: t => w :: mixLanes r t | [] => mixLanes r []

/-- A load's lanes are read, or sent; one that needs bytes of both kinds cannot be sent and is held. -/
def performLoad (s : State) (f : Fire) (y : Ty) (ord : Nat) (r : LoadRec) (l : List (LaneOp × Given)) : State :=
  let need := l.filter fun p => !p.2.whole
  let ops := need.map (·.1)
  let t := signLanes s f.c f.k (l.map (·.1))
  if !t.deferred && lanesFree t f.c f.k ops then
    let (u, ws, seen) := readLanes f.c f.k t l
    loadFired u f y { r with seen := seen } ws
  else if need.any fun p => p.2.mixed then holdFire s f none
  else
    let (u, ws) := sendLanes f.c f.k t.nextId false (1 ≤ ord && ord ≤ 5)
      (ops.all fun x => match x.op with | .load _ => true | _ => false) t [] ops
    loadFired u f y r (mixLanes (l.map fun p => (p.1.op, p.2)) ws)

/-- A global load of a firing, lane by lane (R306): checked whole, held where something holds it, then performed. -/
def fireLoad (s : State) (f : Fire) (y : Ty) (lsid ord kind acc charge hi : Nat) (nd : Need) (op : ReqOp) : State :=
  let cells := f.cells hi op.bytes
  let r := globalRec s f lsid cells
  if f.void then voidLoad s f lsid
  else if f.hiBad hi then faultFire s f lsid kind acc ((bareFault .xlate).data (f.va hi 0))
  else if loadHeld s f ord r then holdFire s f none
  else
    match lanesFault s f.c f.k nd cells with
    | (t, some d) => faultFire t f lsid kind acc d
    | (t, none) =>
      let x := coreOf t f.c
      if cells.any fun p => scoreStalls x (globalRng (asidOf (ctxIn x f.k)) p.1 p.2) false then holdFire t f none
      else
        match admitted t f.c f.k (charge * f.g) (atFiring f.k f.at_) with
        | (u, false) => holdFire u f none
        | (u, true) =>
          let (v, ops) := findLanes u f.c f.k nd (cells.map fun p => (p.1, op))
          performLoad v f y ord r (giveLanes (earlierStores (ctxOf v f.c f.k) f.set.inst lsid) ops)

/-- LDE (R306, R307). -/
def execLde (h : EHdr) (y : Ty) (i : BitVec 5) (q : ElemOrd) (s : State) : Out :=
  .next (match fireOf h s with
    | none => s
    | some f => fireLoad s f y i.toNat q.code.toNat 0 0 (tyBits y / 8) 1 needLoad (.load (tyBits y / 8)))

/-- The accumulate format's type. -/
def axTy (f : AxFmt) : Ty := match f with | .fp32 => .fp32 | .bf16 => .bf16 | .fp16 => .fp16

/-- AXRD (R321): each lane reads an object rounded once, with the object's bits. -/
def execAxrdE (h : EHdr) (m : AxFmt) (i : BitVec 5) (q : ElemOrd) (s : State) : Out :=
  .next (match fireOf h s with
    | none => s
    | some f => fireLoad s f (axTy m) i.toNat q.code.toNat 8 2 16 1 { needLoad with host := false } (.axrd m.code.toNat))

/-- The handle a firing names (R304). -/
def Fire.handle (f : Fire) : Half := (f.x 0 0).extractLsb' 0 16

/-- Reads lanes of a typed buffer at once: as readLanes. -/
def readBufLanes (f : Fire) (hd : Half) (n : Nat) : State → List (Nat × Given) → State × List LaneWait × List (Nat × Nat × Byte)
  | s, [] => (s, [], [])
  | s, (off, g) :: r =>
    match bufCheckOf true s f.c f.k 1 hd none off n false with
    | .error _ => readBufLanes f hd n s r
    | .ok p =>
      let raw := (bufRead s p n).1
      let bad := g.open_.find? fun i => rowPoisoned (coreOf s p.core) p.space (p.at_ + i)
      let t := match bad with | some i => latchFlow s f.c f.k (hSpaceCode hd) (bufAddr hd (off + i)) | none => s
      let (u, ws, seen) := readBufLanes f hd n t r
      (u, laneOf (.load n) (g.bytes raw) bad.isSome :: ws,
       (g.open_.map fun i => (p.storage, p.at_ + i, nth raw i 0)) ++ seen)

/-- Sends lanes of a load to another core's buffer. -/
def sendFarLoads (f : Fire) (hd : Half) (n : Nat) : State → List Nat → State × List LaneWait
  | s, [] => (s, [])
  | s, off :: r =>
    let (u, ws) := sendFarLoads f hd n (sendFar s f.c f.k hd off n none) r
    (u, { req := some s.nextId, v := 0, xb := 0, bad := false } :: ws)

/-- A typed-buffer load's lanes are read under their port's grant, or sent to the buffer's core (R49, R50, R104). -/
def performBld (s : State) (f : Fire) (y : Ty) (r : LoadRec) (hd : Half) (n : Nat) (l : List (Nat × Given)) : State :=
  let need := l.filter fun p => !p.2.whole
  let far := handleCore f.c hd != f.c
  if need = [] then loadFired s f y r (mixLanes (l.map fun p => (.load n, p.2)) [])
  else
    match (if far then admitted s f.c f.k (n * need.length) (atFiring f.k f.at_) else (s, true)) with
    | (t, false) => holdFire t f none
    | (t, true) =>
      if far && t.deferred then
        if need.any fun p => p.2.mixed then holdFire s f none
        else
          let (u, ws) := sendFarLoads f hd n t (need.map (·.1))
          loadFired u f y r (mixLanes (l.map fun p => (.load n, p.2)) ws)
      else
        match grantLanes t f.c f.k (portElem f.e) hd false (need.map fun p => (p.1, n)) with
        | none => holdFire s f none
        | some u =>
          let (v, ws, seen) := readBufLanes f hd n u l
          loadFired v f y { r with seen := seen } ws

/-- BLD (R309). -/
def execBldE (h : EHdr) (y : Ty) (i : BitVec 5) (q : ElemOrd) (s : State) : Out :=
  .next (match fireOf h s with
    | none => s
    | some f =>
      let hd := f.handle
      let n := tyBits y / 8
      let cells := f.lanes.map fun l => ((f.x 1 l).toNat, n)
      let r : LoadRec := { LoadRec.bare f.at_ i.toNat with space := 1 + hd.toNat, cells := cells }
      if f.void then voidLoad s f i.toNat
      else if loadHeld s f q.code.toNat r || farBusy s f.c f.k hd then holdFire s f none
      else
        match bufLanesFault f.set.held s f.c f.k hd false cells with
        | some d => faultFire s f i.toNat 0 0 d
        | none =>
          if cells.any fun p => scoreStalls (coreOf s f.c) (bufRng hd p.1 n) false then holdFire s f none
          else
            let l := earlierStores (ctxOf s f.c f.k) f.set.inst i.toNat
            performBld s f y r hd n (cells.map fun p => (p.1, givenOf l (1 + hd.toNat) p.1 n)))

/-! ### Effects at commit -/

/-- Whether a load record has read bytes a store writes. -/
def LoadRec.hit (r : LoadRec) (space : Nat) (cells : List (Nat × Nat)) : Bool := r.space == space && cellsMeet r.cells cells

/-- An effect instruction ends: its count is closed, and loads that ran ahead are replayed. -/
def endEffect (s : State) (f : Fire) (lsid space : Nat) (cells : List (Nat × Nat)) : State :=
  if f.set.inst = 0 then endFire s f
  else
    replayLoads (endFire (checkComplete (closeEffect s f.c f.k f.set.inst f.at_) f.c f.k f.set.inst) f)
      f.c f.k f.set.inst lsid fun r => r.hit space cells

/-- An effect instruction that a null operand closes; an atomic then delivers null. -/
def voidEffect (s : State) (f : Fire) : State :=
  let s1 := if f.set.inst = 0 then s else checkComplete (closeEffect s f.c f.k f.set.inst f.at_) f.c f.k f.set.inst
  if f.hdr.om = 0 then endFire s1 f else deliver s1 f 1 f.null

/-- Checks an effect at its firing and records it (R307, R320). -/
def fireAccess (s : State) (f : Fire) (x : Effect) (space : Nat) (cells : List (Nat × Nat)) : State :=
  if strays s f then fireIllop s f
  else
    match effectFault false s f.c f.k x with
    | (t, some d) => if d.cause = .none then waitIssue t f else faultFire t f x.lsid x.kind x.acc d
    | (t, none) =>
      match recordEffect t f x with
      | none => waitIssue t f
      | some u => endEffect u f x.lsid space cells

/-- A global effect: the hi operand is checked first. -/
def fireGlobal (s : State) (f : Fire) (hi : Nat) (x : Effect) : State :=
  if f.void then voidEffect s f
  else if f.hiBad hi then faultFire s f x.lsid x.kind x.acc ((bareFault .xlate).data (f.va hi 0))
  else fireAccess s f x 0 x.cells

/-- A store's lanes: the low bytes of the data operand. -/
def Fire.stores (f : Fire) (hi n : Nat) : List (Nat × List Byte) :=
  f.lanes.map fun l => (f.va hi l, natLE n (f.x 1 l).toNat)

/-- STE (R306). -/
def execSte (h : EHdr) (y : Ty) (i : BitVec 5) (q : ElemOrd) (s : State) : Out :=
  .next (match fireOf h s with
    | none => s
    | some f => fireGlobal s f 2 (.store f.at_ i.toNat q.code.toNat (f.stores 2 (tyBits y / 8))))

/-- STSC (R322). -/
def execStscE (h : EHdr) (y : Ty) (i : BitVec 5) (s : State) : Out :=
  .next (match fireOf h s with
    | none => s
    | some f => fireGlobal s f 2 (.store f.at_ i.toNat 6 (f.stores 2 (tyBits y / 8))))

/-- The template of a result that comes after the commit: the firing's tag, lanes still to come. -/
def Fire.after (f : Fire) : Firing :=
  let t : Token := { f.tok (f.lanes.map fun _ => 0) 0 with src := 0 }
  f.firing t t 0

/-- LDSC (R322): performed at commit; it closes nothing. -/
def execLdscE (h : EHdr) (y : Ty) (i : BitVec 5) (s : State) : Out :=
  .next (match fireOf h s with
    | none => s
    | some f =>
      let x : Effect := .scload f.at_ i.toNat y (f.lanes.map fun l => f.va 1 l) f.after
      if f.void then voidLoad s f i.toNat
      else if strays s f then fireIllop s f
      else if f.hiBad 1 then faultFire s f i.toNat 7 0 ((bareFault .xlate).data (f.va 1 0))
      else
        match effectFault false s f.c f.k x with
        | (t, some d) => if d.cause = .none then waitIssue t f else faultFire t f i.toNat 7 0 d
        | (t, none) =>
          match recordEffect t f x with
          | none => waitIssue t f
          | some u => endFire (closeLoad u f i.toNat) f)

/-- BST (R309). -/
def execBstE (h : EHdr) (y : Ty) (i : BitVec 5) (q : ElemOrd) (s : State) : Out :=
  .next (match fireOf h s with
    | none => s
    | some f =>
      let n := tyBits y / 8
      let l := f.lanes.map fun j => ((f.x 1 j).toNat, natLE n (f.x 2 j).toNat)
      if f.void then voidEffect s f
      else fireAccess s f (.bst f.at_ i.toNat q.code.toNat f.handle l) (1 + f.handle.toNat) (l.map fun p => (p.1, n)))

/-- An element atomic (R320): `cmp` and `v` name the operands, `hi` the hi operand. -/
def fireAtomic (s : State) (f : Fire) (op lsid ord v cmp hi : Nat) : State :=
  let l := f.lanes.map fun j => (f.va hi j, f.x v j, f.x cmp j)
  fireGlobal s f hi (.atomic f.at_ lsid ord op (f.lanes.any fun j => orderedAt s f ord (f.va hi j)) l f.after)

/-- AADD (R319, R320). -/
def execAaddE (h : EHdr) (i : BitVec 5) (q : ElemOrd) (s : State) : Out :=
  .next (match fireOf h s with | none => s | some f => fireAtomic s f 0 i.toNat q.code.toNat 1 1 2)

/-- AAND (R319, R320). -/
def execAandE (h : EHdr) (i : BitVec 5) (q : ElemOrd) (s : State) : Out :=
  .next (match fireOf h s with | none => s | some f => fireAtomic s f 1 i.toNat q.code.toNat 1 1 2)

/-- AOR (R319, R320). -/
def execAorE (h : EHdr) (i : BitVec 5) (q : ElemOrd) (s : State) : Out :=
  .next (match fireOf h s with | none => s | some f => fireAtomic s f 2 i.toNat q.code.toNat 1 1 2)

/-- AXOR (R319, R320). -/
def execAxorE (h : EHdr) (i : BitVec 5) (q : ElemOrd) (s : State) : Out :=
  .next (match fireOf h s with | none => s | some f => fireAtomic s f 3 i.toNat q.code.toNat 1 1 2)

/-- AMIN (R319, R320). -/
def execAminE (h : EHdr) (i : BitVec 5) (q : ElemOrd) (s : State) : Out :=
  .next (match fireOf h s with | none => s | some f => fireAtomic s f 4 i.toNat q.code.toNat 1 1 2)

/-- AMAX (R319, R320). -/
def execAmaxE (h : EHdr) (i : BitVec 5) (q : ElemOrd) (s : State) : Out :=
  .next (match fireOf h s with | none => s | some f => fireAtomic s f 5 i.toNat q.code.toNat 1 1 2)

/-- AMINU (R319, R320). -/
def execAminuE (h : EHdr) (i : BitVec 5) (q : ElemOrd) (s : State) : Out :=
  .next (match fireOf h s with | none => s | some f => fireAtomic s f 6 i.toNat q.code.toNat 1 1 2)

/-- AMAXU (R319, R320). -/
def execAmaxuE (h : EHdr) (i : BitVec 5) (q : ElemOrd) (s : State) : Out :=
  .next (match fireOf h s with | none => s | some f => fireAtomic s f 7 i.toNat q.code.toNat 1 1 2)

/-- ASWP (R319, R320). -/
def execAswpE (h : EHdr) (i : BitVec 5) (q : ElemOrd) (s : State) : Out :=
  .next (match fireOf h s with | none => s | some f => fireAtomic s f 8 i.toNat q.code.toNat 1 1 2)

/-- ACAS (R319, R320): address, compare, new; no hi operand. -/
def execAcasE (h : EHdr) (i : BitVec 5) (q : ElemOrd) (s : State) : Out :=
  .next (match fireOf h s with | none => s | some f => fireAtomic s f 9 i.toNat q.code.toNat 2 1 3)

/-- AFMIN (R319, R320). -/
def execAfminE (h : EHdr) (i : BitVec 5) (q : ElemOrd) (s : State) : Out :=
  .next (match fireOf h s with | none => s | some f => fireAtomic s f 10 i.toNat q.code.toNat 1 1 2)

/-- AFMAX (R319, R320). -/
def execAfmaxE (h : EHdr) (i : BitVec 5) (q : ElemOrd) (s : State) : Out :=
  .next (match fireOf h s with | none => s | some f => fireAtomic s f 11 i.toNat q.code.toNat 1 1 2)

/-- AXADD (R321): each lane contributes, and the token's bits join the object's. -/
def execAxaddE (h : EHdr) (m : AxFmt) (i : BitVec 5) (q : ElemOrd) (s : State) : Out :=
  .next (match fireOf h s with
    | none => s
    | some f => fireGlobal s f 2 (.axadd f.at_ i.toNat q.code.toNat m.code.toNat (f.lanes.map fun l => (f.va 2 l, f.x 1 l)) f.xb))

/-- AXCLR (R321). -/
def execAxclrE (h : EHdr) (i : BitVec 5) (q : ElemOrd) (s : State) : Out :=
  .next (match fireOf h s with
    | none => s
    | some f => fireGlobal s f 1 (.axclr f.at_ i.toNat q.code.toNat (f.lanes.map fun l => f.va 1 l)))

/-- COPY (R314): at the commit its ports send the command token, the descriptor's address in lanes 0 and 1. -/
def execCopyE (h : EHdr) (s : State) : Out :=
  .next (match fireOf h s with
    | none => s
    | some f =>
      let t := f.tok ((List.range (max f.g 2)).map fun l =>
        if l = 0 then f.x 0 0 else if l = 1 then BitVec.ofNat 32 (field (f.x 1 0) 0 16) else 0) 0
      if f.void then endFire s f
      else if f.hiBad 1 then faultFire s f 0 0 0 ((bareFault .xlate).data (f.va 1 0))
      else fireEffect s f (.copy (f.firing t t 0)))

end Sys2Proof.Machine
end

