-- ==== Sys2Proof/Machine/Fetch.lean ====
section
/-! DEFINITION. Fetching (R215, R251, R256): what an address of a sequencer reads as an instruction. -/
namespace Sys2Proof.Machine

/-- What a fetch finds: a word, a fault, a poisoned word, or nothing that answers. -/
inductive Fetched where
  | word (w : W32)
  | bad (f : XFault)
  | poisoned
  | none
  deriving DecidableEq, Repr

/-- The instruction cache's key of an address under an ASID (R256). -/
def icKey (a asid : Nat) : Nat := a * 4096 + asid

/-- Fetches a word of a context's code through its translation. -/
def fetchCtx (s : State) (c k : Nat) (a : Word) : State × Fetched :=
  let x := ctxOf s c k
  let key := icKey a.toNat (asidOf x)
  match (if x.seq.loops = [] then none else look x.seq.loopBuf a.toNat) with
  | some w => (s, .word w)
  | none =>
    match (if s.stale then look (coreOf s c).icache key else none) with
    | some w => (s, .word w)
    | none =>
      match translate s c x.r.xlroot a needFetch with
      | (t, .error f) => (t, .bad f)
      | (t, .ok p) =>
        match physRead t p 4 with
        | (_, some _) => (t, .poisoned)
        | (bs, none) =>
          let w := BitVec.ofNat 32 (leNat bs)
          let t1 := modCore (physFetch t p 4) c fun y => { y with icache := put y.icache key w }
          (if x.seq.loops = [] then t1
           else modCtx t1 c k fun y => { y with seq := { y.seq with loopBuf := put y.seq.loopBuf a.toNat w } }, .word w)

/-- Fetches a word of a service core's code, untranslated (R18); an unbacked address is logged (R10). -/
def fetchSvc (s : State) (n : Nat) (a : Word) : State × Fetched :=
  if isHbm a.toNat then
    match firstPoisoned s a.toNat 4 with
    | some _ => (s, .poisoned)
    | none => (touchLines s a.toNat 4 false, .word (BitVec.ofNat 32 (leNat (hbmRead s a.toNat 4))))
  else if isDevice a.toNat then (s, .none)
  else (logViol s 2 { asid := 0, addr := a.toNat, cause := 0, reqid := n, kind := 5, akind := 1, acc := 3 }, .none)

/-- Fetches one word of the executing sequencer. -/
def fetchWord (s : State) (a : Word) : State × Fetched :=
  match s.cur with
  | .seq c k => fetchCtx s c k a
  | .svc n => fetchSvc s n a
  | _ => (s, .none)

/-- A fetch that does not answer with a word: the fault at the instruction's address, POISON, a wait for the lock that holds
its walk, or a free word (log 2). -/
def fetchFails (s : State) (pc : Word) (f : Fetched) : State × Option Instr :=
  match f with
  | .bad x => (if x.cause = .none then s else faultGlobal s pc 3 x, none)
  | .poisoned =>
    (trapCur (match s.cur with | .seq c k => modCtx s c k fun y => { y with seqLatch := some (pc &&& 0xFFFFFFFFFFFF) } | _ => s)
      .poison, none)
  | _ =>
    let (v, t) := drawFree s
    (t, some (match decodeSeq (v.setWidth 32) (v.extractLsb' 32 32) with | .ok i => i | .error _ => .reservedEncoding))

/-- The instruction at the executing sequencer's PC; a reserved word is RESERVED_ENCODING (R224). -/
def fetchInstr (s : State) : State × Option Instr :=
  let pc := (curSeq s).pc
  match fetchWord s pc with
  | (t, .word w) =>
    if isSx w then
      match fetchWord t (pc + 4) with
      | (u, .word v) => (u, some (match decodeSeq w v with | .ok i => i | .error _ => .reservedEncoding))
      | (u, f) => fetchFails u pc f
    else (t, some (match decodeSeq w 0 with | .ok i => i | .error _ => .reservedEncoding))
  | (t, f) => fetchFails t pc f

end Sys2Proof.Machine
end

