-- ==== Sys2Proof/Machine/Schedule.lean ====
section
/-! DEFINITION. Whose turn it is (log 1): the agenda, or the unit that moves by default; the time that passes; and the
instruction the turn executes. -/
namespace Sys2Proof.Machine

/-- Time passes: cycles, and nanoseconds at 0.8 ns a cycle (R1, R439). -/
def elapse (s : State) (n : Nat) : State :=
  let f := s.time.frac + 4 * n
  { s with cycle := s.cycle + n, time := { s.time with ptime := s.time.ptime + BitVec.ofNat 64 (f / 5), frac := f % 5 } }

/-- Whether a context's unit may act: resident, not clamped, not saved, not at a trap (R407, R411). -/
def ctxMoves (s : State) (c k : Nat) : Bool :=
  let x := ctxOf s c k
  (x.r.state == .running || x.r.state == .gated || x.r.state == .quiescent)

/-- The lowest slot of a core that holds a resident context of a job. -/
def jobSlot (s : State) (c asid : Nat) : Option Nat :=
  match (coreOf s c).ctxs.find? fun p => asidOf p.2 == asid &&
      (match p.2.r.state with | .free => false | .saved => false | .lost => false | _ => true) with
  | some p => some p.1
  | none => none

/-- Whether a BLOCK step lets a clamped context's region fire (R418). -/
def blockSteps (s : State) (c k : Nat) : Bool :=
  let a := asidOf (ctxOf s c k)
  match (jobOf s a).stepCore with
  | some (c', 1, _) => c' == c && (jobOf s a).stepping && jobSlot s c a == some k
  | _ => false

/-- Whether a context's dataflow region moves: resident, not clamped but for a BLOCK step, not captured (R402, R407,
R411). -/
def regionMoves (s : State) (c k : Nat) : Bool :=
  let x := ctxOf s c k
  x.r.state == .running || x.r.state == .gated || (x.r.state == .clamped && blockSteps s c k)

/-- Whether a context's sequencer may execute its next instruction. -/
def seqRuns (s : State) (c k : Nat) : Bool :=
  let x := ctxOf s c k
  ctxMoves s c k && x.trap.isNone && x.seqStop.isNone && !x.seq.stopped

/-- Whether a service core executes. -/
def svcRuns (s : State) (n : Nat) : Bool := (svcOf s n).running && !(svcOf s n).seq.stopped

/-- The unit that moves when the agenda is empty. -/
def autoTurn (s : State) : Turn :=
  match s.actor with
  | .seq c k => .seq c k false false
  | .svc n => .svc n false false
  | .elem c e => .elem c e false
  | .idle => .seq 0 0 false false

/-- The next turn, the cycles before it, and the agenda after it. -/
def takeTurn (s : State) : State × Nat × Turn :=
  match s.agenda with
  | (n, t) :: r => ({ s with agenda := r }, n, t)
  | [] => (s, 1, autoTurn s)

/-- Makes a turn's unit the executing one. -/
def beginTurn (s : State) (t : Turn) : State :=
  match t with
  | .seq c k d f => drainTrace { s with cur := .seq c k, deferred := d, stale := f } c
  | .svc n d f => { s with cur := .svc n, deferred := d, stale := f }
  | .elem c e d => drainTrace { s with cur := .elem c e, deferred := d, stale := false } c
  | .ev _ d => { s with cur := .idle, deferred := d, stale := false }

/-- The word of the slot an element's issued set fires (R172), while its context's region moves. -/
def issuedWord (s : State) (c e : Nat) : Option W32 :=
  let x := elemOf s c e
  match x.issuing with
  | some r => if regionMoves s c r.way then some (lookD (lookD x.ways r.way Way.reset).slots r.slot 0) else none
  | none => none

/-- The instruction a turn executes, if it executes one. -/
def turnInstr (s : State) (t : Turn) : State × Option Instr :=
  match t with
  | .seq c k _ _ => if seqRuns s c k then fetchInstr s else (s, none)
  | .svc n _ _ => if svcRuns s n then fetchInstr s else (s, none)
  | .elem c e _ =>
    match issuedWord s c e with
    | some w => match decodeElem w with | .ok i => (s, some i) | .error _ => (s, none)
    | none => (s, none)
  | .ev i _ => (s, some i)

/-- The instruction of the next step, at the state it executes in. -/
def nextInstr (s : State) : State × Option Instr :=
  let (a, n, t) := takeTurn s
  turnInstr (beginTurn (elapse a n) t) t

end Sys2Proof.Machine
end

