-- ==== Sys2Proof/Machine/Region.lean ====
section
/-! DEFINITION. The dataflow region at work: instances created (R158), tokens on tracks and boxes (R176–R181), matching
and issue (R171–R175, R427, R428), and a firing's results (R276, R307). -/
namespace Sys2Proof.Machine

/-! ### Instances -/

/-- The tokens of a tag that already wait in a placement's slots: inputs of its new instance. -/
def storedInputs (y : Core) (k : Nat) (p : Placement) (col : Byte) (it : Half) : List (Dest × Token) :=
  y.elems.flatMap fun z =>
    (z.2.store.filter fun m => m.way == k && m.iter == it && m.tag y z.1 == some col &&
        (p.map.any fun w => mapElem w == z.1 && mapSlot w == m.slot)).flatMap fun m =>
      m.opnds.map fun o => ({ elem := z.1, slot := m.slot, opnd := o.1 }, o.2)

/-- A new instance of a placement. -/
def newInst (x : Ctx) (p : Placement) (col : Byte) (it : Half) (chain : Bool) (inputs : List (Dest × Token)) (now : Nat) : Inst :=
  { age := x.nextAge, born := now, place := p.id, va := p.va, colour := col, iter := it, state := .live, closedE := [], closedL := [],
    exits := 0, exitTok := none, effects := [], loads := [], inputs := inputs, fired := 0, chain := chain, held := [],
    colours := [], fault := none, trap := none, waitSeq := none }

/-- Whether an instance takes its age before a pinned one created in the same cycle (R158): the sequencer's and the front
end's come first, then pin number, colour and iteration. -/
def agesBefore (x : Ctx) (i j : Inst) : Bool :=
  let pin (a : Inst) : Option Nat := match placeOf x a.place with | some p => p.pin.map (·.1) | none => none
  match pin i, pin j with
  | none, some _ => true
  | some p, some q =>
    p < q || (p == q && (i.colour.toNat < j.colour.toNat || (i.colour == j.colour && older i.iter j.iter)))
  | _, none => false

/-- Puts an instance last in the age order, but before those of its cycle that it precedes. -/
def insertAge (x : Ctx) (i : Inst) : List Inst → List Inst
  | [] => [i]
  | j :: r => if j.born = i.born ∧ agesBefore x i j then i :: j :: r else j :: insertAge x i r

/-- Puts an instance into the age order: in the place of a discarded placeholder when there is one and the chain
fetches its true successor (R164). -/
def insertInst (x : Ctx) (i : Inst) : List Inst :=
  if i.chain ∧ x.insts.any (·.state == .discarded) then x.insts.map fun j => if j.state = .discarded then i else j
  else insertAge x i x.insts

/-- Creates an instance (R158): its instructions without operands fire (R275), complete sets of its tag become ready. -/
def createInst (s : State) (c k : Nat) (p : Placement) (col : Byte) (it : Half) (chain : Bool) : State :=
  modCore s c fun y =>
    let x := ctxIn y k
    let i := newInst x p col it chain (storedInputs y k p col it) s.cycle
    let y1 := { y with ctxs := put y.ctxs k { x with insts := insertInst x i, nextAge := x.nextAge + 1 } }
    fillAll (offerFree y1 s.cycle (freeSets y1 k p i))

/-- Whether a context may take another instance: at most 512 uncommitted (R402), no trap pending (R396). -/
def instRoom (x : Ctx) : Bool := x.insts.length < 512 && x.trap.isNone

/-! ### Counters of the region (R427, R428) -/

/-- A spill record. -/
def spillWord (asid c e k bin : Nat) (ovf : Bool) : Word :=
  place asid 52 ||| place c 44 ||| place e 38 ||| place k 36 ||| place (if ovf then 0 else bin) 32 |||
    place (if ovf then 1 else 0) 31

/-- Appends a spill record, or counts it lost; whether it was written. -/
def spill (s : State) (c : Nat) (w : Word) : State × Bool :=
  let (base, ptr, lost) := (coreOf s c).sp
  let head := field ptr 0 9
  let tail := field ptr 16 9
  if base.getLsbD 0 = false ∨ (head + 1) % 512 = tail then
    (modCore s c fun y => { y with sp := (base, ptr, BitVec.ofNat 64 (min 0xFFFFFFFF (lost.toNat + 1))) }, false)
  else
    ({ modCore s c fun y => { y with sp := (base, place tail 16 ||| BitVec.ofNat 64 ((head + 1) % 512), lost) } with
       hbm := writeBytes s.hbm (field base 12 40 * 4096 + 8 * head) (natLE 8 w.toNat) }, true)

/-- Increments a counter that spills at its top. -/
def bump (s : State) (c : Nat) (v : W32) (w : Word) : State × W32 :=
  if v = 0xFFFFFFFF then
    match spill s c w with | (t, true) => (t, 0) | (t, false) => (t, v)
  else (s, v + 1)

/-- The bin of a wait (R427). -/
def waitBin (w : Nat) : Nat := if w ≤ 1 then 0 else min 15 (Nat.log2 w)

/-- Counts a matched set's wait. -/
def countWait (s : State) (c k e w : Nat) : State :=
  let b := waitBin w
  let (t, v) := bump s c (lookD (elemOf s c e).hist (k * 16 + b) 0) (spillWord (asidOf (ctxOf s c k)) c e k b false)
  modElem t c e fun x => { x with hist := put x.hist (k * 16 + b) v }

/-- Counts a diversion. -/
def countDivert (s : State) (c k e : Nat) : State :=
  let (t, v) := bump s c (lookD (elemOf s c e).ovfs k 0) (spillWord (asidOf (ctxOf s c k)) c e k 0 true)
  modElem t c e fun x => { x with ovfs := put x.ovfs k v }

/-! ### Matching (R171) -/

/-- An ILLOP of a token, charged to the instance of its tag. -/
def tokIllop (s : State) (c k : Nat) (d : Dest) (t : Token) : State :=
  chargeTrap s c k (tagInst (ctxOf s c k) d.elem d.slot t.colour t.iter) (dataTrap .illop d.elem d.slot 0 t.colour t.iter)

/-- The entries sets of an element occupy. -/
def heldCharges (x : Elem) : List (Nat × Charge) :=
  x.store.flatMap (fun m => m.charges.map fun h => (m.way, h)) ++ x.ready.flatMap (fun r => r.charges.map fun h => (r.way, h))
/-- Entries of a colour's reserve in use. -/
def reserveUsed (x : Elem) (k : Nat) (col : Byte) : Nat :=
  (heldCharges x).foldl (fun n p => if p.1 == k && p.2.reserve && p.2.colour == col then n + p.2.n else n) 0
/-- Unreserved entries in use. -/
def openUsed (x : Elem) : Nat := (heldCharges x).foldl (fun n p => if p.2.reserve then n else n + p.2.n) 0
/-- Entries of an element that colours of the core's contexts reserve: those whose configuration holds the element. -/
def elemReserved (y : Core) (e : Nat) : Nat :=
  y.ctxs.foldl (fun n p =>
    if p.2.r.state.resident && (p.2.elemv.getLsbD e || (wayOf y e p.1).v) then n + reserved p.2 else n) 0

/-- Entries for a token: of its colour's reserve, else unreserved ones; none when it must be diverted. -/
def chargeFor (y : Core) (e k : Nat) (t : Token) : Option Charge :=
  let x := elemIn y e
  let n := entriesFor t.lanes.length
  let own := match colourOf (ctxIn y k) t.colour with | some (g, _) => entriesFor g | none => 0
  if reserveUsed x k t.colour + n ≤ own then some { colour := t.colour, reserve := true, n := n }
  else if elemReserved y e + openUsed x + n ≤ 64 then some { colour := t.colour, reserve := false, n := n }
  else none

/-- Whether a stored set has a token's key; PACK's key omits the colour. -/
def MEntry.keyed (m : MEntry) (k slot : Nat) (col : Byte) (it : Half) (pack : Bool) : Bool :=
  m.way == k && m.slot == slot && m.iter == it && (pack || m.colour == col)

/-- The header's and lanes' bytes of an overflow record (R173). -/
def ovfBytes (d : Dest) (t : Token) : List Byte :=
  let w0 := place t.iter.toNat 48 ||| place t.colour.toNat 40 ||| place d.elem 34 ||| place d.slot 29 ||| place d.opnd 27 |||
    place t.lanes.length 21 ||| place t.xb.toNat 15 ||| place (if t.last then 1 else 0) 14
  natLE 8 w0.toNat ++ natLE 8 0 ++
    (List.range (4 * ((t.lanes.length + 3) / 4))).flatMap fun i => natLE 4 (nth t.lanes i 0).toNat

/-- The lowest free overflow record slot. -/
def freeRecord (x : Ctx) : Option Nat := (List.range 256).find? fun i => (look x.ovf i).isNone

/-- Diverts a token to the overflow queue; without room it stays in its channel and OVFQ is raised, charged to its
instance (R173, R175, R396). -/
def divert (s : State) (c k : Nat) (age : Option Nat) (d : Dest) (t : Token) : State × Bool :=
  let x := ctxOf s c k
  match (if x.r.ovfbase.getLsbD 0 then freeRecord x else none) with
  | some i =>
    let s1 := hbmWrite s (field x.r.ovfbase 16 36 * 65536 + 256 * i) (ovfBytes d t) false
    let s2 := modCtx s1 c k fun z =>
      { z with ovf := put z.ovf i { tok := t, dest := d, entry := 0, origin := (64, 0), hops := s.cycle } }
    (trace (countDivert s2 c k d.elem) c k 3 (traceTok c t d) (hashToken t) 0, true)
  | none =>
    (if x.trap.isSome then s else chargeTrap s c k age (dataTrap .ovfq d.elem d.slot 0 t.colour t.iter), false)

/-- An instance has received a token. -/
def noteInput (s : State) (c k : Nat) (age : Option Nat) (d : Dest) (t : Token) : State :=
  match age with
  | some a => modInst s c k a fun i => { i with inputs := i.inputs ++ [(d, t)] }
  | none => s

/-- Matching of an accepted token. `owner` is none when its slot belongs to no placement, `some none` when its
instance does not exist yet; `since` is the cycle in which it was first accepted. -/
def matchToken (s : State) (c k : Nat) (d : Dest) (t : Token) (since : Nat) (reinject : Bool) (owner : Option (Option Nat)) :
    State × Bool :=
  let y := coreOf s c
  let e := elemIn y d.elem
  let word := slotWord y d.elem k d.slot
  let pack := wordOpc word == 0x88
  let age := match owner with | some a => a | none => none
  let here (m : MEntry) : Bool := m.keyed k d.slot t.colour t.iter pack
  let m0 : MEntry := match e.store.find? here with
    | some m => m
    | none => { way := k, colour := t.colour, iter := t.iter, slot := d.slot, opnds := [], charges := [], first := since }
  -- operand 0 of PACK also brings the instance the operand that waited for it
  let note (u : State) : State :=
    if pack && d.opnd == 0 then
      m0.opnds.foldl (fun v o => noteInput v c k age { d with opnd := o.1 } o.2) (noteInput u c k age d t)
    else noteInput u c k age d t
  if (look m0.opnds d.opnd).isSome then
    (chargeTrap s c k age (dataTrap .illop d.elem d.slot 0 t.colour t.iter), true)
  else
    let m : MEntry := { m0 with opnds := put m0.opnds d.opnd t, first := min m0.first since }
    let rest := match e.store.find? here with | some _ => e.store.filter fun z => !here z | none => e.store
    match setTokens m (wordNt word), owner == some none with
    | some ts, false =>
      if 8 ≤ e.ready.length then (s, false)
      else
        let r : RSet := { way := k, slot := d.slot, colour := (match ts with | z :: _ => z.colour | [] => m.colour), iter := m.iter, toks := ts,
                          inst := (match age with | some a => a | none => 0), charges := m.charges, held := false }
        let s1 := modElem s c d.elem fun x => { x with store := rest, ready := x.ready ++ [r] }
        let s2 := trace (note s1) c k 0 (traceTok c t d) (hashToken t) 0
        let s3 := trace s2 c k 1 (traceTok c t d) (hashToken t) 0
        (if ts.length < 2 then s3 else countWait s3 c k d.elem (s.cycle - m.first), true)
    | _, _ =>
      match chargeFor y d.elem k t with
      | some h =>
        let s1 := modElem s c d.elem fun x =>
          { x with store := (match e.store.find? here with
              | some _ => x.store.map fun z => if here z then { m with charges := m.charges ++ [h] } else z
              | none => x.store ++ [{ m with charges := [h] }]) }
        (trace (note s1) c k 0 (traceTok c t d) (hashToken t) 0, true)
      | none => if reinject then (s, false) else divert s c k age d t

/-- The colour of the tag an arriving token's set belongs to: operand 0's for PACK, none while that is not there. -/
def tokenTag (e : Elem) (d : Dest) (k : Nat) (t : Token) (pack : Bool) : Option Byte :=
  if !pack || d.opnd == 0 then some t.colour
  else match e.store.find? fun m => m.keyed k d.slot t.colour t.iter true with
    | some m => (match look m.opnds 0 with | some z => some z.colour | none => none)
    | none => none

/-- A token is offered to its element (R171, R188): the state, and whether it has left its channel. -/
def offerToken (s : State) (c k : Nat) (d : Dest) (t : Token) (since : Nat) (reinject : Bool) : State × Bool :=
  let y := coreOf s c
  let x := ctxIn y k
  let w := wayOf y d.elem k
  if !w.v then
    if x.image.getLsbD 63 && x.elemv.getLsbD d.elem then (s, false) else (tokIllop s c k d t, true)
  else if !w.slotv.getLsbD d.slot then (tokIllop s c k d t, true)
  else
    match placeAt x d.elem d.slot with
    | none => matchToken s c k d t since reinject none
    | some p =>
      let pack := wordOpc (slotWord y d.elem k d.slot) == 0x88
      let tag := tokenTag (elemIn y d.elem) d k t pack
      match (match tag with | some col => instFor x p col t.iter | none => none) with
      | some i =>
        if i.inputs.any fun q => q.1 == d then (chargeTrap s c k (some i.age) (dataTrap .illop d.elem d.slot 0 t.colour t.iter), true)
        else if i.state = .aborted then (noteInput s c k (some i.age) d t, true)
        else matchToken s c k d t since reinject (some (some i.age))
      | none =>
        match p.pin, tag with
        | some (_, pinned), some col =>
          if pinned ≠ col then matchToken s c k d t since reinject (some none)
          else if p.unpinning then (tokIllop s c k d t, true)
          else if !instRoom x then (s, false)
          else matchToken (createInst s c k p col t.iter false) c k d t since reinject (some (some x.nextAge))
        | some _, none => if p.unpinning then (tokIllop s c k d t, true) else matchToken s c k d t since reinject (some none)
        | none, _ => matchToken s c k d t since reinject (some none)

/-! ### Tracks and boxes (R176–R181) -/

/-- The element at a box, if it is none of the hard-block columns. -/
def boxElem (b : Nat) : Option Nat :=
  let col := b % 18
  if col = 7 ∨ col = 15 then none
  else some (b / 18 * 16 + (if col < 7 then col else if col < 15 then col - 1 else col - 2))

/-- Where a token at a box goes on. -/
inductive Hop where
  | next (out box : Nat)
  | elem (e : Nat)
  | hport (h : Nat)
  | stray
  deriving DecidableEq, Repr

/-- Where a token that came by a source of a box goes (R184, R185). -/
def headHop (y : Core) (k b src : Nat) (w : Word) : Hop :=
  let r := lookD y.boxes (b * 4 + k) BoxWay.reset
  match (List.range 36).find? fun o => (lookD r.out o 0).getLsbD 7 && field (lookD r.out o 0) 0 6 == src with
  | some o => match segmentEnd b o with | some b' => .next o b' | none => .stray
  | none =>
    if !r.drop.getLsbD src then .stray
    else if swtKind w = 1 then (if swtId w < 32 ∧ portBox (swtId w) = b then .hport (swtId w) else .stray)
    else match boxElem b with | some e => .elem e | none => .stray

/-- The destination an entry names. -/
def entryDest (w : Word) : Dest := { elem := swtId w, slot := swtSlot w, opnd := swtOpnd w }

/-- What a branch offers: it waits, is illegal, goes with this token, or goes to the checkpoint buffer with it. -/
inductive Branch where
  | wait
  | illegal
  | go (t : Token)
  | keep (t : Token)
  deriving DecidableEq, Repr

/-- A branch's token (R157, R155, R402): a back edge advances the iteration. -/
def branchTok (s : State) (c k : Nat) (w : Word) (t : Token) : Branch :=
  let x := ctxOf s c k
  if !swtBack w then .go t
  else if !colourActive x t.colour then .illegal
  else
    let u : Token := { t with iter := t.iter + 1 }
    if x.gates ≠ 0 then .keep u else if tagOpen s c k t.colour u.iter then .go u else .wait

/-- A movement of tokens: a branch of a port register (element, way × 4 + port, entry), or the head of a skid buffer or
of a hard port's output. -/
inductive Move where
  | port (e key q : Nat)
  | skid (key : Nat)
  | hp (key : Nat)
  deriving DecidableEq, Repr

/-- The way a movement belongs to. -/
def Move.way (m : Move) : Nat := match m with | .port _ key _ => key / 4 | .skid key => key / 40 % 4 | .hp key => key % 4

/-- The movements a core may have. -/
def allMoves (y : Core) : List Move :=
  (y.elems.flatMap fun p => p.2.ports.flatMap fun r =>
    ((branches (wayOf y p.1 (r.1 / 4)) (r.1 % 4)).filter fun q => !r.2.done.getLsbD q).map fun q => .port p.1 r.1 q) ++
  ((y.skid.filter fun p => p.2 != []).map fun p => .skid p.1) ++ ((y.hpOut.filter fun p => p.2 != []).map fun p => .hp p.1)

/-- The head a movement moves, with the box and source it stands at. -/
def moveHead (y : Core) (m : Move) : Option (Flight × Nat × Nat) :=
  match m with
  | .port _ _ _ => none
  | .skid key => match lookD y.skid key [] with | f :: _ => some (f, key / 160, key % 40) | [] => none
  | .hp key => match lookD y.hpOut key [] with | f :: _ => some (f, portBox (key / 4), 36 + key / 4 % 4) | [] => none

/-- Removes the head. -/
def dropHead (y : Core) (m : Move) : Core :=
  match m with
  | .port _ _ _ => y
  | .skid key => { y with skid := put y.skid key ((lookD y.skid key []).drop 1) }
  | .hp key => { y with hpOut := put y.hpOut key ((lookD y.hpOut key []).drop 1) }

/-- The wire a movement crosses: box × 40 + output (R177). -/
def moveWire (y : Core) (m : Move) : Option Nat :=
  match m with
  | .port e key q =>
    let w := swtOf (wayOf y e (key / 4)) (key % 4) q
    if swtKind w = 2 ∨ (swtKind w = 0 ∧ swtId w = e) then none else some (elemBox e * 40 + swtPath w)
  | _ =>
    match moveHead y m with
    | some (f, b, src) => match headHop y m.way b src f.entry with | .next o _ => some (b * 40 + o) | _ => none
    | none => none

/-- Whether a skid buffer takes a token (R178). -/
def skidRoom (y : Core) (key : Nat) : Bool := (lookD y.skid key []).length ≤ 1
/-- A token enters a skid buffer. -/
def enterSkid (y : Core) (key : Nat) (f : Flight) : Core := { y with skid := put y.skid key (lookD y.skid key [] ++ [f]) }

/-- A branch of a port register has been accepted; the register frees once all have (R179). -/
def acceptBranch (s : State) (c e key q : Nat) : State :=
  modCore s c fun y =>
    let x := elemIn y e
    match look x.ports key with
    | none => y
    | some r =>
      let done := r.done ||| (1#4 <<< q)
      let all := (branches (wayOf y e (key / 4)) (key % 4)).all fun j => done.getLsbD j
      { y with elems := put y.elems e { x with ports := if all then del x.ports key else put x.ports key { r with done := done } } }

/-- The token of a branch. -/
def portTok (r : PortReg) (q : Nat) : Token := if q % 2 = 0 then r.even else r.odd

/-- A branch of a port register moves; none when it cannot. -/
def movePort (s : State) (c e key q : Nat) : Option State :=
  let y := coreOf s c
  let k := key / 4
  match look (elemIn y e).ports key with
  | none => none
  | some r =>
    let w := swtOf (wayOf y e k) (key % 4) q
    let t0 := portTok r q
    let d := entryDest w
    let done (t : State) : State := acceptBranch t c e key q
    match branchTok s c k w t0 with
    | .wait => none
    | .illegal => some (tokIllop (done s) c k d t0)
    | .keep t =>
      let f : Flight := { tok := t, dest := d, entry := w, origin := (e, r.slot), hops := 0 }
      if swtKind w = 0 then some (modCtx (done s) c k fun x => { x with ckpt := x.ckpt ++ [f] })
      else some (modCtx (done s) c k fun x => { x with ckptPort := x.ckptPort ++ [(if swtKind w = 2 then 28 else swtId w, f)] })
    | .go t =>
      let f : Flight := { tok := t, dest := d, entry := w, origin := (e, r.slot), hops := 0 }
      if swtKind w = 2 then
        some (sendPacket (done s) 2 c k (flitsOf (4 * t.lanes.length)) (coreNode c) (coreNode (swtCore w)) (swtCore w)
          (.tok (ctxOf s c k).task { f with tok := { t with src := 0 } }) none)
      else if swtKind w = 3 then some (tokIllop (done s) c k d t)
      else if swtKind w = 0 ∧ swtId w = e then none
      else
        match segmentEnd (elemBox e) (swtPath w) with
        | none => some (tokIllop (done s) c k d t)
        | some b =>
          let key' := (b * 4 + k) * 40 + swtPath w
          if skidRoom y key' then some (done (modCore s c fun z => enterSkid z key' { f with hops := 1 })) else none

/-- A head of a skid buffer or of a hard port's output moves; none when it cannot, or when it drops at an element, which
takes it at TOKEN_ARRIVE. -/
def moveFlight (s : State) (c : Nat) (m : Move) : Option State :=
  let y := coreOf s c
  let k := m.way
  match moveHead y m with
  | none => none
  | some (f, b, src) =>
    match headHop y k b src f.entry with
    | .next o b' =>
      if 64 ≤ f.hops then some (tokIllop (modCore s c fun z => dropHead z m) c k f.dest f.tok)
      else
        let key' := (b' * 4 + k) * 40 + o
        if skidRoom y key' then some (modCore s c fun z => enterSkid (dropHead z m) key' { f with hops := f.hops + 1 }) else none
    | .elem _ => none
    | .hport h =>
      if 2 ≤ (lookD y.hport (h * 4 + k) []).length then none
      else some (modCore s c fun z =>
        { dropHead z m with hport := put z.hport (h * 4 + k) (lookD z.hport (h * 4 + k) [] ++ [f]) })
    | .stray => some (tokIllop (modCore s c fun z => dropHead z m) c k f.dest f.tok)

/-- A movement made. -/
def makeMove (s : State) (c : Nat) (m : Move) : Option State :=
  match m with | .port e key q => movePort s c e key q | _ => moveFlight s c m

/-- The movements that can be made now by some ways. -/
def liveMoves (s : State) (c : Nat) (ways : Nat → Bool) : List Move :=
  (allMoves (coreOf s c)).filter fun m => ways m.way && (makeMove s c m).isSome

/-- Whether a movement's wire is granted to its way: ways take the cycle round-robin (R177). -/
def granted (y : Core) (l : List Move) (m : Move) : Bool :=
  match moveWire y m with
  | none => true
  | some w =>
    let rivals := (l.filter fun n => moveWire y n == some w).map (·.way)
    let turn := lookD y.wireTurn w 3
    match ((List.range 4).map fun i => (turn + 1 + i) % 4).find? fun k => rivals.contains k with
    | some k => k == m.way
    | none => true

/-- A movement made, and its wire's turn passed on. -/
def moveOn (s : State) (c : Nat) (m : Move) : State :=
  match makeMove s c m with
  | none => s
  | some t =>
    match moveWire (coreOf s c) m with
    | some w => modCore t c fun y => { y with wireTurn := put y.wireTurn w m.way }
    | none => t

/-! ### Arrivals at an element -/

/-- A token at an element's door: from the control network, from a skid buffer or a hard port whose route drops there,
or from the element's own port. -/
inductive Arrival where
  | door (i : Nat)
  | head (m : Move)
  | own (key q : Nat)
  deriving DecidableEq, Repr

/-- The tokens that wait at an element. -/
def arrivals (s : State) (c e : Nat) : List Arrival :=
  let y := coreOf s c
  let x := elemIn y e
  let doors := (List.range y.door.length).filter fun i => match y.door[i]? with | some p => p.2.dest.elem == e | none => false
  let heads := (((y.skid.map fun p => Move.skid p.1) ++ (y.hpOut.map fun p => Move.hp p.1)).filter fun m =>
    match moveHead y m with
    | some (f, b, src) => headHop y m.way b src f.entry == .elem e
    | none => false)
  let own := x.ports.flatMap fun r =>
    ((branches (wayOf y e (r.1 / 4)) (r.1 % 4)).filter fun q =>
      let w := swtOf (wayOf y e (r.1 / 4)) (r.1 % 4) q
      !r.2.done.getLsbD q && swtKind w == 0 && swtId w == e).map fun q => (r.1, q)
  (doors.map Arrival.door) ++ (heads.map Arrival.head) ++ own.map fun p => Arrival.own p.1 p.2

/-- The way of a waiting token. -/
def arrivalWay (s : State) (c : Nat) (a : Arrival) : Nat :=
  match a with
  | .door i => match (coreOf s c).door[i]? with | some p => p.1 | none => 0
  | .head m => m.way
  | .own key _ => key / 4

/-- An element handles a waiting token: the state, and whether it has left its channel. -/
def takeArrival (s : State) (c e : Nat) (a : Arrival) : State × Bool :=
  let y := coreOf s c
  let k := arrivalWay s c a
  match a with
  | .door i =>
    match y.door[i]? with
    | none => (s, false)
    | some p =>
      let (t, ok) := offerToken s c k p.2.dest p.2.tok s.cycle false
      (if ok then modCore t c fun z => { z with door := z.door.filter fun q => q != p } else t, ok)
  | .head m =>
    match moveHead y m with
    | none => (s, false)
    | some (f, _, _) =>
      let (t, ok) := offerToken s c k { f.dest with elem := e } f.tok s.cycle false
      (if ok then modCore t c fun z => if (moveHead z m).isSome && (moveHead z m) == moveHead y m then dropHead z m else z else t, ok)
  | .own key q =>
    match look (elemIn y e).ports key with
    | none => (s, false)
    | some r =>
      let w := swtOf (wayOf y e k) (key % 4) q
      match branchTok s c k w (portTok r q) with
      | .wait => (s, false)
      | .illegal => (tokIllop (acceptBranch s c e key q) c k (entryDest w) (portTok r q), true)
      | .keep t =>
        (modCtx (acceptBranch s c e key q) c k fun x =>
          { x with ckpt := x.ckpt ++ [{ tok := t, dest := entryDest w, entry := w, origin := (e, r.slot), hops := 0 }] }, true)
      | .go t =>
        let (u, ok) := offerToken s c k (entryDest w) t s.cycle false
        (if ok then acceptBranch u c e key q else u, ok)

/-! ### Issue and results -/

/-- Commit buffer entries that a word's firing of width g takes: Effect.entries before the firing. -/
def wordEntries (g : Nat) (w : W32) : Nat :=
  let opc := wordOpc w
  if opc = 0xC1 ∨ opc = 0xC3 then (g * (tyBits (Ty.ofCode (w.extractLsb' 12 3)) / 8) + 127) / 128
  else if isEffect w then (4 * g + 127) / 128
  else if isLamWrite w then 1 else 0

/-- Whether a ready set's instruction would wait in its element (R59, R56, R64, R293, R302). -/
def mustWait (s : State) (c e : Nat) (r : RSet) : Bool :=
  let y := coreOf s c
  let x := ctxIn y r.way
  let w := slotWord y e r.way r.slot
  let opc := wordOpc w
  if r.toks.any (fun t => t.lanes == []) ∧ opc ≠ 0xA9 then false
  else if opc = 0x94 ∧ 8 ≤ sinkHolds x e r.slot then true
  else if opc = 0xA9 then
    let l := lookD (elemIn y e).acc (r.way * 32 + r.slot) []
    4 ≤ l.length && !(l.any fun a => runTakes a r.iter)
  else if opc = 0xA2 then
    rdlWaits s c r.way r.inst (field w 0 6)
  else if (opc = 0xC0 ∧ wordOrd w ≠ 6) ∨ opc = 0xC2 ∨ opc = 0xD5 then 8 ≤ holdUsed s c
  else r.inst != 0 && !commitRoom s c r.way r.inst (wordEntries (colourWidth x r.colour) w)

/-- Whether a ready set may issue now. -/
def mayIssue (s : State) (c e : Nat) (r : RSet) : Bool :=
  let y := coreOf s c
  portsFree y e r.way (BitVec.ofNat 4 (wordOm (slotWord y e r.way r.slot))) && !mustWait s c e r

/-- A set issues (R172): its entries are freed, and the issue port is taken for ceil(g / 8) cycles. -/
def issueSet (s : State) (c e : Nat) (r : RSet) : State :=
  let g := colourWidth (ctxOf s c r.way) r.colour
  let s1 := modElem s c e fun x =>
    { x with ready := x.ready.erase r, issuing := some { r with charges := [] }, busyTo := s.cycle + (g + 7) / 8 }
  trace s1 c r.way 2 (place r.colour.toNat 38 ||| place c 30 ||| place e 24 ||| place r.slot 19 ||| r.iter.setWidth 64) 0 0

/-- A result enters its port registers. -/
def enterPorts (s : State) (c : Nat) (r : Firing) : State :=
  modCore s c fun y =>
    let x := elemIn y r.elem
    let w := wayOf y r.elem r.way
    let ps := (portsOf r.om).foldl (fun m p =>
      if branches w p = [] then m
      else put m (r.way * 4 + p) { even := r.even, odd := r.odd, slot := r.slot, done := 0, freeAt := s.cycle }) x.ports
    { y with results := y.results.erase r, elems := put y.elems r.elem { x with ports := ps } }

/-- A lane with its answer; none while that is to come. A request that is gone answers zero. -/
def laneAnswer (s : State) (l : LaneWait) : Option LaneWait :=
  match l.req with
  | none => some l
  | some id =>
    match s.reqs.find? (fun r => r.id == id), s.bufreqs.find? fun r => r.id == id with
    | some r, _ => r.answer.map fun a => { req := none, v := a.1.setWidth 32, xb := r.axb, bad := a.2 }
    | none, some b => b.answer.map fun a => { req := none, v := a.1.setWidth 32, xb := 0, bad := a.2 == .poison }
    | none, none => some { req := none, v := 0, xb := 0, bad := false }

/-- The lanes of a load, once all have come. -/
def loadAnswers (s : State) (w : LoadWait) : Option (List LaneWait) :=
  w.lanes.foldr (fun l r => match laneAnswer s l, r with | some x, some y => some (x :: y) | _, _ => none) (some [])

/-- The refusal of a lane by another core's buffer, if there is one. -/
def loadRefusal (s : State) (w : LoadWait) : Option DFault :=
  w.lanes.findSome? fun l =>
    match s.bufreqs.find? fun b => l.req == some b.id with
    | some b => (match b.answer with
        | some (_, cause) =>
          if cause = .none ∨ cause = .poison then none
          else some { (bareFault cause).data (bufAddr b.handle b.off) with space := hSpaceCode b.handle }
        | none => none)
    | none => none

/-- The bytes an answered lane has seen. An object that no longer gives an AXRD's answer counts as seen otherwise. -/
def laneSeen (s : State) (l : LaneWait) : List (Nat × Nat × Byte) :=
  match s.reqs.find? (fun r => l.req == some r.id), s.bufreqs.find? fun b => l.req == some b.id with
  | some r, _ =>
    let st := if r.host then 1 else 0
    let v := match r.answer with | some a => a.1 | none => 0
    let bs := (List.range r.op.bytes).map fun i => byteNow s st (r.pa + i)
    if r.ord = 2 then []
    else match r.op with
      | .load n => (List.range n).map fun i => (st, r.pa + i, nth (natLE n v.toNat) i 0)
      | _ => if readValue r.op bs = (v.toNat, r.axb) then (List.range bs.length).map fun i => (st, r.pa + i, nth bs i 0)
             else [(st, r.pa, 0), (st, r.pa, 1)]
  | none, some b =>
    match bufCheckOf true s b.core b.slot 1 b.handle none b.off b.n false, b.answer with
    | .ok p, some a => (List.range b.n).map fun i => (p.storage, p.at_ + i, nth (natLE b.n a.1.toNat) i 0)
    | _, _ => []
  | none, none => []

/-- The region's latch takes the first poisoned lane that answers bring (R86). -/
def latchLanes (s : State) (c k : Nat) (w : LoadWait) : State :=
  w.lanes.foldl (fun t l =>
    match s.reqs.find? (fun r => l.req == some r.id), s.bufreqs.find? fun b => l.req == some b.id with
    | some r, _ => (match r.answer with | some (_, true) => latchFlow t c k 0 r.va | _ => t)
    | none, some b => (match b.answer with | some (_, .poison) => latchFlow t c k (hSpaceCode b.handle) (bufAddr b.handle b.off) | _ => t)
    | none, none => t) s

/-- The token of a load whose lanes have come: those that carry poison read zero and set PS (R86). -/
def loadFiring (w : LoadWait) (l : List LaneWait) : Firing :=
  let f (t : Token) : Token :=
    { t with lanes := l.map fun p => if p.bad then 0 else loadedLane w.ty p.v
             xb := l.foldl (fun b p => b ||| p.xb ||| (if p.bad then xPS else 0)) t.xb }
  { w.firing with even := f w.firing.even, odd := f w.firing.odd }

/-- What a load's answers leave: its requests are gone, what it saw is on record, and later loads are checked. -/
def settleLoad (s : State) (c : Nat) (w : LoadWait) : State :=
  let k := w.firing.way
  let age := w.firing.even.src
  let ids := w.lanes.filterMap (·.req)
  let t := latchLanes s c k w
  let u := { t with reqs := t.reqs.filter fun r => !ids.contains r.id, bufreqs := t.bufreqs.filter fun r => !ids.contains r.id }
  match w.at_ with
  | none => u
  | some a =>
    let seen := w.lanes.flatMap (laneSeen s)
    let v := modInst u c k age fun i =>
      { i with loads := updFirst i.loads (fun r => r.at_ == a) fun r => { r with seen := r.seen ++ seen } }
    match (match instOf (ctxOf v c k) age with | some i => i.loads.find? fun r => r.at_ == a | none => none) with
    | some r => if ids = [] then v else checkComplete (recheckLoads v c k age r) c k age
    | none => v

/-- A load's lanes go to their targets (R307), unless their poison raises a trap, or a buffer has refused one. -/
def finishLoad (s : State) (c : Nat) (w : LoadWait) (l : List LaneWait) : State :=
  let k := w.firing.way
  let age := w.firing.even.src
  let s1 := modCore s c fun y => { y with loads := y.loads.erase w }
  match loadRefusal s w, w.trap, l.any (·.bad) with
  | some d, _, _ =>
    let t := violData s1 c k 0 d
    let a := match w.at_ with | some a => a | none => 0
    faultInst { t with bufreqs := t.bufreqs.filter fun r => !(w.lanes.any fun l => l.req == some r.id) } c k age
      (dataFault t c k (a / 32) (a % 32) (wordLsid (slotWord (coreOf t c) (a / 32) k (a % 32))) 0 w.firing.even.colour w.firing.even.iter d)
  | none, some tr, true =>
    let t := settleLoad s1 c w
    takeTrap (match w.again with | some e => modCtx t c k fun x => { x with late := e :: x.late } | none => t) c k tr false
  | none, _, _ =>
    let f := loadFiring w l
    let own := l.foldl (fun b p => b ||| p.xb ||| (if p.bad then xPS else 0)) (0 : Xb)
    let s2 := modCtx s1 c k fun x => latchFirst x f.elem f.slot own f.even.colour f.even.iter
    settleLoad (if f.om = 0 then s2 else modCore s2 c fun y => { y with results := y.results ++ [{ f with due := s.cycle }] }) c w

end Sys2Proof.Machine
end

