-- ==== Sys2Proof/Machine/Image.lean ====
section
/-! DEFINITION. Configuration images (R182–R188): reading records of a context's image, the checks of R186, and writing
them into the ways. -/
namespace Sys2Proof.Machine

/-- What a configuration fetch ends in. -/
inductive CfgEnd (α : Type) where
  | got (x : α)
  | fault (f : XFault) (va : Nat) (straddle : Bool)
  | poison (va : Nat)
  | bad
  deriving DecidableEq, Repr

/-- Reads bytes of a context's image, by pages of X = 1 (R182). -/
def readImage (s : State) (c k va n : Nat) : State × CfgEnd (List Byte) :=
  match translate s c (ctxOf s c k).r.xlroot (BitVec.ofNat 64 va) needFetch with
  | (t, .error f) => (t, .fault f va (4096 < va % 4096 + n))
  | (t, .ok p) =>
    let u := physFetch t p n
    match physRead u p n with
    | (_, some i) => (u, .poison (va + i))
    | (bs, none) => (u, .got bs)

/-- The configuration cache's set of an address (R188). -/
def ccSet (va : Nat) : Nat := va / 512 % 16

/-- Puts a record first in the cache, at most eight in its set (R188). -/
def ccPut (l : NMap (List Byte)) (key : Nat) (bs : List Byte) : NMap (List Byte) :=
  let rest := l.filter fun p => p.1 != key
  let same := (rest.filter fun p => ccSet (p.1 / 4096) == ccSet (key / 4096)).take 7
  (key, bs) :: rest.filter fun p => ccSet (p.1 / 4096) != ccSet (key / 4096) || same.any fun q => q.1 == p.1

/-- Reads a record through the configuration cache. -/
def readCfgRecord (s : State) (c k va : Nat) : State × CfgEnd (List Byte) :=
  let key := icKey va (asidOf (ctxOf s c k))
  match look (coreOf s c).ccache key with
  | some bs => (modCore s c fun y => { y with ccache := ccPut y.ccache key bs }, .got bs)
  | none =>
    match readImage s c k va 512 with
    | (t, .got bs) => (modCore t c fun y => { y with ccache := ccPut y.ccache key bs }, .got bs)
    | (t, e) => (t, e)

/-- A word of a record. -/
def recW32 (bs : List Byte) (o : Nat) : W32 := BitVec.ofNat 32 (leNat ((bs.drop o).take 4))
def recWord (bs : List Byte) (o : Nat) : Word := BitVec.ofNat 64 (leNat ((bs.drop o).take 8))

/-- The hard ports that exist (R180). -/
def hportExists (h : Nat) : Bool := h ≤ 17 || h == 20 || (22 ≤ h && h ≤ 25) || h == 28 || h == 29

/-- An element record of the configuration (R183). -/
def wayOfBytes (bs : List Byte) : Way :=
  { slots := (List.range 32).foldl (fun m i => put m i (recW32 bs (4 * i))) []
    k := (List.range 7).foldl (fun m i => put m i (recW32 bs (0x80 + 4 * i))) []
    slotv := recW32 bs 0x9C
    swt := (List.range 16).foldl (fun m i => put m i (recWord bs (0xA0 + 8 * i))) []
    v := true, jig := false }

/-- The bytes of an element record. -/
def wayBytes (w : Way) : List Byte :=
  ((List.range 32).flatMap fun i => natLE 4 (lookD w.slots i 0).toNat) ++
  ((List.range 7).flatMap fun i => natLE 4 (lookD w.k i 0).toNat) ++ natLE 4 w.slotv.toNat ++
  ((List.range 16).flatMap fun i => natLE 8 (lookD w.swt i 0).toNat) ++ natLE 224 0

/-- Whether an entry breaks R186 for an element. -/
def swtBad (e : Nat) (hportv : W32) (w : Word) : Bool :=
  field w 32 9 != 0 || field w 0 24 != 0 || (swtKind w != 2 && swtCore w != 0) ||
  swtKind w == 3 || (swtKind w == 1 && (!hportExists (swtId w) || !hportv.getLsbD (swtId w))) ||
  (swtUsed w && swtKind w != 2 && !(swtKind w == 0 && swtId w == e) && (segmentEnd (elemBox e) (swtPath w)).isNone)

/-- Whether a word is an element instruction. -/
def elemWordOk (w : W32) : Bool := match decodeElem w with | .ok _ => true | .error _ => false

/-- ACC slots of a way. -/
def wayAccs (w : Way) : Nat :=
  ((List.range 32).filter fun i => w.slotv.getLsbD i && wordOpc (lookD w.slots i 0) == 0xA9).length

/-- The CNT nodes of a way: chain × 4 + level of each. -/
def cntNodes (w : Way) : List Nat :=
  (List.range 32).filterMap fun i =>
    let x := lookD w.slots i 0
    if w.slotv.getLsbD i ∧ wordOpc x = 0xA8 then some (field x 0 4) else none

/-- Whether a list names a number twice. -/
def namedTwice : List Nat → Bool
  | [] => false
  | a :: r => r.contains a || namedTwice r

/-- Whether a chain's levels leave a gap (R301). -/
def cntGap (l : List Nat) : Bool := l.any fun n => n % 4 != 0 && !l.contains (n - 1)

/-- Whether an instruction's result comes after the commit (R307): atomics, LDSC, STSC. -/
def lateResult (x : W32) : Bool :=
  (0xC8 ≤ wordOpc x && wordOpc x ≤ 0xD3) || ((wordOpc x == 0xC0 || wordOpc x == 0xC1) && wordOrd x == 6)

/-- Whether an entry in use of a slot whose result comes after the commit is no back edge (R307). -/
def lateTargetBad (w : Way) : Bool :=
  (List.range 32).any fun i =>
    let x := lookD w.slots i 0
    w.slotv.getLsbD i && lateResult x && (List.range 4).any fun p => (wordOm x / 2 ^ p % 2 == 1) && (List.range 4).any fun q =>
      let e := lookD w.swt (p * 4 + q) 0
      swtUsed e && !swtBack e

/-- Whether an element record is rejected (R186, R300, R301, R307). -/
def elemRecBad (e : Nat) (hportv : W32) (bs : List Byte) : Bool :=
  let w := wayOfBytes bs
  ((bs.drop 0x120).any fun b => b != 0) ||
  ((List.range 32).any fun i => w.slotv.getLsbD i && !elemWordOk (lookD w.slots i 0)) ||
  ((List.range 16).any fun i => swtBad e hportv (lookD w.swt i 0)) ||
  1 < wayAccs w || namedTwice (cntNodes w) || cntGap (cntNodes w) || lateTargetBad w

/-- Writes an element record into a context's way. -/
def writeWay (s : State) (c k e : Nat) (w : Way) : State :=
  modElem s c e fun x => { x with ways := put x.ways k w }

/-- The address of an element's record in a context's image. -/
def recordVa (x : Ctx) (e : Nat) : Nat := field x.image 0 48 + 0x200 + e * 0x200

/-- Fetches an element record and writes it under R186. -/
def loadRecord (s : State) (c k e : Nat) : State × CfgEnd Unit :=
  let x := ctxOf s c k
  match readCfgRecord s c k (recordVa x e) with
  | (t, .got bs) =>
    let w := wayOfBytes bs
    if elemRecBad e x.hportv bs || (0 < wayAccs w && !budgetOk t c k (6144 * wayAccs w)) then (t, .bad)
    else (writeWay t c k e w, .got ())
  | (t, .fault f va z) => (t, .fault f va z)
  | (t, .poison va) => (t, .poison va)
  | (t, .bad) => (t, .bad)

/-- A switch-box record (R185). -/
def boxOfBytes (bs : List Byte) : BoxWay :=
  { out := (List.range 36).foldl (fun m o => let b := nth bs o 0; if b = 0 then m else put m o b) []
    drop := BitVec.ofNat 40 (leNat ((bs.drop 0x24).take 5)) }

/-- The bytes of a switch-box record. -/
def boxBytes (b : BoxWay) : List Byte := (List.range 36).map (fun o => lookD b.out o 0) ++ natLE 5 b.drop.toNat ++ natLE 215 0

/-- Whether a switch-box record is rejected (R186). -/
def boxRecBad (b : Nat) (bs : List Byte) : Bool :=
  let r := boxOfBytes bs
  let srcs := (List.range 36).filterMap fun o =>
    let v := lookD r.out o 0
    if v.getLsbD 7 then some (o, field v 0 6) else none
  ((bs.drop 0x29).any fun x => x != 0) || ((List.range 36).any fun o => (lookD r.out o 0).getLsbD 6) ||
  srcs.any fun p => (segmentEnd b p.1).isNone || 40 ≤ p.2 || r.drop.getLsbD p.2 ||
    (srcs.any fun q => q.1 != p.1 && q.2 == p.2)

/-- Whether a header is rejected (R186). -/
def headerBad (bs : List Byte) : Bool :=
  recWord bs 0 != 0x0100000000000000 || recW32 bs 0x14 != 0 || (bs.drop 0x18).any fun b => b != 0

/-- Fetches the box records from a box on, into a way. -/
def loadBoxes (s : State) (c k base : Nat) : Nat → State × CfgEnd Unit
  | 0 => (s, .got ())
  | n + 1 =>
    let b := 71 - n
    match readImage s c k (base + 0x8200 + b * 0x100) 256 with
    | (t, .got bs) =>
      if boxRecBad b bs then (t, .bad)
      else loadBoxes (modCore t c fun y => { y with boxes := put y.boxes (b * 4 + k) (boxOfBytes bs) }) c k base n
    | (t, .fault f va z) => (t, .fault f va z)
    | (t, .poison va) => (t, .poison va)
    | (t, .bad) => (t, .bad)

/-- Fetches an image's header and box records into a context's way (R187). -/
def loadImage (s : State) (c k base : Nat) : State × CfgEnd Unit :=
  match readImage s c k base 512 with
  | (t, .got bs) =>
    if headerBad bs then (t, .bad)
    else loadBoxes (modCtx t c k fun x => { x with elemv := recWord bs 8, hportv := recW32 bs 0x10 }) c k base 72
  | (t, .fault f va z) => (t, .fault f va z)
  | (t, .poison va) => (t, .poison va)
  | (t, .bad) => (t, .bad)

/-- A refused fetch of a unit of a context is logged (R10, R43). -/
def violFetch (s : State) (c k : Nat) (f : XFault) (va : Nat) : State :=
  if logged f.cause f.unbacked then violGlobal s c (asidOf (ctxOf s c k)) va 3 f.cause else s

/-- A configuration fetch's fault record (R37). -/
def cfgFault (f : XFault) (va code : Nat) : FaultInfo := { seqFault f.cause 4 0 va code f.entry f.level with unit := 4 }

/-- Poison in a configuration fetch raises POISON (log 17). -/
def cfgPoison (s : State) (c k va : Nat) : State := takeTrap (latchFlow s c k 0 va) c k (plainTrap .poison 4) false

/-- CONFIG_RECORD_FETCH (R188): the record of an element whose way holds none is fetched and written. -/
def fetchConfig (s : State) (c k e : Nat) : State :=
  let x := ctxOf s c k
  let waits := match look x.cfgStop e with | some n => !isReleased x.r n | none => false
  if (wayOf (coreOf s c) e k).v || !x.image.getLsbD 63 || !x.elemv.getLsbD e || waits then s
  else
    let s0 := modCtx s c k fun z => { z with cfgStop := del z.cfgStop e }
    match loadRecord s0 c k e with
    | (t, .got _) => t
    | (t, .fault f va z) =>
      if f.cause = .none then t
      else
      let (u, n) := takeFault (violFetch t c k f va) c k { cfgFault f va 0 with elem := e, straddle := z }
      match n with | some m => modCtx u c k fun z => { z with cfgStop := put z.cfgStop e m } | none => u
    | (t, .poison va) => if x.trap.isSome then t else cfgPoison t c k va
    | (t, .bad) => if x.trap.isSome then t else takeTrap t c k (plainTrap .illop 4) false

/-- CONFIG_RECORD_FETCH (R188): a token of the way waits at the element, or an overflow record for it does. -/
def execConfigRecordFetch (c k e : Nat) (s : State) : Out :=
  let asked := (arrivals s c e).any (fun a => arrivalWay s c a == k) || (ctxOf s c k).ovf.any fun p => p.2.dest.elem == e
  .next (if regionMoves s c k && e < 64 && asked then fetchConfig s c k e else s)

end Sys2Proof.Machine
end

