-- ==== Sys2Proof/Machine/Dataflow.lean ====
section
/-! DEFINITION. The events of the dataflow region: arrivals, issue, results, hops (R171–R181), commits (R160), colours
(R152), counters, rounds and accumulators (R165, R166, R301, R302), overflow re-injection (R174). -/
namespace Sys2Proof.Machine

/-! ### Firing inside a step of a debugger (R417) -/

/-- The meaning of an element instruction. -/
def elemMeaning (i : Instr) (s : State) : Out :=
  match i with
  | .fadd h y r => execFadd h y r s
  | .fsub h y r => execFsub h y r s
  | .fmul h y r => execFmul h y r s
  | .ffma h y r => execFfma h y r s
  | .ffms h y r => execFfms h y r s
  | .fmin h y => execFmin h y s
  | .fmax h y => execFmax h y s
  | .fabs h y => execFabs h y s
  | .fneg h y => execFneg h y s
  | .frcp h => execFrcp h s
  | .fsqrt h => execFsqrt h s
  | .frsq h => execFrsq h s
  | .fexp2 h => execFexp2 h s
  | .flog2 h => execFlog2 h s
  | .ftanh h => execFtanh h s
  | .fcmp h y c => execFcmp h y c s
  | .cvt h y r w u v => execCvt h y r w u v s
  | .iadd h y u w => execIadd h y u w s
  | .isub h y u w => execIsub h y u w s
  | .imul h y => execImul h y s
  | .imulh h y u => execImulh h y u s
  | .imad h y u w => execImad h y u w s
  | .iand h y => execIand h y s
  | .ior h y => execIor h y s
  | .ixor h y => execIxor h y s
  | .ishl h y => execIshl h y s
  | .ishr h y => execIshr h y s
  | .isra h y => execIsra h y s
  | .imin h y u => execImin h y u s
  | .imax h y u => execImax h y u s
  | .icmp h y c => execIcmp h y c s
  | .selE h => execSelE h s
  | .mov h => execMov h s
  | .lbc h x => execLbc h x s
  | .lshf h z x => execLshf h z x s
  | .lred h y z => execLred h y z s
  | .pack h c => execPack h c s
  | .unpack h => execUnpack h s
  | .ctxa h => execCtxa h s
  | .ctxf h => execCtxf h s
  | .null h => execNull h s
  | .exit h => execExit h s
  | .steer h => execSteer h s
  | .merge h => execMerge h s
  | .sink h => execSink h s
  | .ldeclE h l => execLdeclE h l s
  | .plyE h y l => execPlyE h y l s
  | .rdlE h z l => execRdlE h z l s
  | .settleE h l => execSettleE h l s
  | .cnt h c v => execCnt h c v s
  | .acc h y z => execAcc h y z s
  | .lde h y i q => execLde h y i q s
  | .ldscE h y i => execLdscE h y i s
  | .ste h y i q => execSte h y i q s
  | .stscE h y i => execStscE h y i s
  | .bldE h y i q => execBldE h y i q s
  | .bstE h y i q => execBstE h y i q s
  | .aaddE h i q => execAaddE h i q s
  | .aandE h i q => execAandE h i q s
  | .aorE h i q => execAorE h i q s
  | .axorE h i q => execAxorE h i q s
  | .aminE h i q => execAminE h i q s
  | .amaxE h i q => execAmaxE h i q s
  | .aminuE h i q => execAminuE h i q s
  | .amaxuE h i q => execAmaxuE h i q s
  | .aswpE h i q => execAswpE h i q s
  | .acasE h i q => execAcasE h i q s
  | .afminE h i q => execAfminE h i q s
  | .afmaxE h i q => execAfmaxE h i q s
  | .axaddE h f i q => execAxaddE h f i q s
  | .axrdE h f i q => execAxrdE h f i q s
  | .axclrE h i q => execAxclrE h i q s
  | .copyE h => execCopyE h s
  | _ => .next s

/-- The state an answer gives. -/
def afterOut (o : Out) (s : State) : State := match o with | .next t => t | _ => s

/-- An element fires its issued set. -/
def fireElement (s : State) (c e : Nat) : State :=
  match issuedWord { s with cur := .elem c e } c e with
  | some w =>
    match decodeElem w with
    | .ok i => { afterOut (elemMeaning i { s with cur := .elem c e }) s with cur := s.cur }
    | .error _ => s
  | none => s

/-! ### Arrival, issue, results -/

/-- TOKEN_ARRIVE (R171): the i-th token that waits at an element. -/
def execTokenArrive (c e i : Nat) (s : State) : Out :=
  .next (match (arrivals s c e)[i]? with
    | some a => if regionMoves s c (arrivalWay s c a) then (takeArrival s c e a).1 else s
    | none => s)

/-- Whether a record comes before another in R174's order. -/
def reinjectBefore (s : State) (c k : Nat) (a b : Flight) : Bool :=
  let dist (f : Flight) : Nat :=
    match oldestTag s c k f.tok.colour with | some o => (f.tok.iter - o).toNat | none => 0
  let key (f : Flight) : Nat :=
    ((dist f * 256 + f.tok.colour.toNat) * 32 + f.dest.slot) * 4 + f.dest.opnd
  key a < key b

/-- The record offered next to an element. -/
def reinjectNext (s : State) (c k e : Nat) : Option (Nat × Flight) :=
  ((ctxOf s c k).ovf.filter fun p => p.2.dest.elem == e).foldl (fun b p =>
    match b with | none => some p | some q => if reinjectBefore s c k p.2 q.2 then some p else some q) none

/-- The token of a diverted record as its slot holds it: lanes, bits and mark are read from memory, poison sets PS; the edge
knows tag, destination and width, by which it chooses (R173, R174). -/
def recordTok (s : State) (c k i : Nat) (t : Token) : State × Token :=
  let p : Phys := { pa := field (ctxOf s c k).r.ovfbase 16 36 * 65536 + 256 * i, leaf := 0 }
  let n := (ovfBytes { elem := 0, slot := 0, opnd := 0 } t).length
  let u := physFetch s p n
  let (bs, bad) := physRead u p n
  let w0 : Word := BitVec.ofNat 64 (leNat (bs.take 8))
  (u, { t with lanes := (List.range t.lanes.length).map fun l => BitVec.ofNat 32 (leNat ((bs.drop (16 + 4 * l)).take 4))
               xb := w0.extractLsb' 15 6 ||| (if bad.isSome then xPS else 0)
               last := w0.getLsbD 14 })

/-- OVERFLOW_REINJECT (R174): the record stays when it would be diverted again. -/
def execOverflowReinject (c k e : Nat) (s : State) : Out :=
  .next (
    match reinjectNext s c k e with
    | some (i, f) =>
      if !regionMoves s c k then s
      else
        let (u, tok) := recordTok s c k i f.tok
        match offerToken (modCtx u c k fun x => { x with ovf := del x.ovf i }) c k f.dest tok f.hops true with
        | (t, true) => trace t c k 4 (traceTok c tok f.dest) (hashToken tok) 0
        | (_, false) => s
    | none => s)

/-- FIRING_RESULT (R276). -/
def execFiringResult (c i : Nat) (s : State) : Out :=
  .next (match (coreOf s c).results[i]? with
    | some r => if regionMoves s c r.way && r.due ≤ s.cycle then enterPorts s c r else s
    | none => s)

/-- A held set goes back to its element's issue port. -/
def retryHeld (s : State) (c : Nat) (h : Nat × RSet × Option Nat) : State :=
  modCore s c fun y =>
    { y with hold := y.hold.filter fun q => q != h, elems := put y.elems h.1 { elemIn y h.1 with issuing := some h.2.1 } }

/-- Whether a held set may be tried again. -/
def heldReady (s : State) (c : Nat) (h : Nat × RSet × Option Nat) : Bool :=
  let x := ctxOf s c h.2.1.way
  (elemOf s c h.1).issuing.isNone && x.gates < 2 && (match h.2.2 with | some n => isReleased x.r n | none => true)

/-- LOAD_RESPONSE (R307): the i-th entry of the hold queue is tried again; past them, the i-th load whose responses have
all come sends its token. -/
def execLoadResponse (c i : Nat) (s : State) : Out :=
  .next (
    let y := coreOf s c
    match y.hold[i]? with
    | some h => if regionMoves s c h.2.1.way && heldReady s c h then retryHeld s c h else s
    | none =>
      match y.loads[i - y.hold.length]? with
      | some w =>
        if !regionMoves s c w.firing.way then s
        else match loadAnswers s w with | some l => finishLoad s c w l | none => s
      | none => s)

/-- TOKEN_HOP (R178): the i-th movement that can be made, if its wire is granted. -/
def execTokenHop (c i : Nat) (s : State) : Out :=
  .next (
    let l := liveMoves s c fun k => regionMoves s c k
    match l[i]? with
    | some m => if granted (coreOf s c) l m then moveOn s c m else s
    | none => s)

/-- The next event of a context's tokens inside a FIRE step (R417): results, loads, hops and arrivals, without issue. -/
def settleOnce (s : State) (c k : Nat) : Option State :=
  let y := coreOf s c
  match y.results.find? fun r => r.way == k with
  | some r => some (enterPorts s c r)
  | none =>
    match y.loads.findSome? fun w => if w.firing.way = k then (loadAnswers s w).map (fun l => (w, l)) else none with
    | some (w, l) => some (finishLoad s c w l)
    | none =>
      match (liveMoves s c fun j => j == k).head? with
      | some m => some (moveOn s c m)
      | none =>
        (List.range 64).findSome? fun e =>
          (arrivals s c e).findSome? fun a =>
            if arrivalWay s c a = k then match takeArrival s c e a with | (t, true) => some t | _ => none else none

/-- Tokens of a context travel until none moves. -/
def settleTokens (s : State) (c k : Nat) : Nat → State
  | 0 => s
  | n + 1 => match settleOnce s c k with | some t => settleTokens t c k n | none => s

/-! ### Commit (R160) -/

/-- A BLOCK step ends when the oldest instance has committed (R418). -/
def endBlockStep (s : State) (c k : Nat) : State :=
  let a := asidOf (ctxOf s c k)
  if blockSteps s c k then
    trace (modJob s a fun j => { j with stepping := false, stepCore := none, stepstat := 1 }) c k 10 0 0 0
  else s

/-- Whether a context's oldest instance may commit. -/
def commits (s : State) (c k : Nat) : Option Inst :=
  let x := ctxOf s c k
  if !regionMoves s c k || x.gates == 3 then none
  else match x.insts with | i :: _ => if i.state = .complete then some i else none | [] => none

/-- The context the commit port takes: round-robin from the last one (R160). -/
def commitSlot (s : State) (c : Nat) : Option (Nat × Inst) :=
  let turn := (coreOf s c).commitTurn
  ((List.range 4).map fun i => (turn + 1 + i) % 4).findSome? fun k => (commits s c k).map fun i => (k, i)

/-- Performs the committed effects that wait, context by context (R401). -/
def performWaiting (s : State) (c : Nat) : State :=
  (List.range 4).foldl (fun t k =>
    let x := ctxOf t c k
    if regionMoves t c k && x.gates < 3 then performLate t c k x.late.length else t) s

/-- INSTANCE_COMMIT (R160). -/
def execInstanceCommit (c : Nat) (s0 : State) : Out :=
  .next (
    let s := performWaiting s0 c
    match commitSlot s c with
    | none => s
    | some (k, i) =>
      let t := commitInst (modCore s c fun y => { y with commitTurn := k }) c k i
      if (instOf (ctxOf t c k) i.age).isNone then endBlockStep t c k else t)

/-! ### Colours, counters, rounds, accumulators -/

/-- COLOUR_FREE (R152). -/
def execColourFree (c k : Nat) (n : Byte) (s : State) : Out :=
  .next (
    let x := ctxOf s c k
    match colourOf x n with
    | some (_, true) =>
      if outstanding s c k n = [] then modCtx s c k fun z => { z with colours := del z.colours n.toNat } else s
    | _ => s)

/-- COUNTER_EMIT (R301): a chain whose record is not resident, as after a restore, has it fetched first (R188, R196). -/
def execCounterEmit (c k e m : Nat) (s : State) : Out :=
  .next (
    if !regionMoves s c k then s
    else if !(wayOf (coreOf s c) e k).v && (look (ctxOf s c k).counters (e * 4 + m)).isSome then fetchConfig s c k e
    else counterNode s c k e m)

/-- Whether an element's way holds CNT slots. -/
def hasCnt (w : Way) : Bool :=
  (List.range 32).any fun i => w.slotv.getLsbD i && wordOpc (lookD w.slots i 0) == 0xA8

/-- Whether a tag was created in a chain's round (R166). -/
def CntChain.inRound (h : CntChain) (n : Half) : Bool := 65536 ≤ h.made || (n - h.start).toNat < h.made

/-- The colour of a chain. -/
def chainColour (y : Core) (k e m : Nat) : Byte :=
  let w := wayOf y e k
  match cntSlot w m 0 with | some sl => (cntConst w sl 2).extractLsb' 24 8 | none => 0xFF

/-- The colours that PACK and UNPACK of a way name: tokens of a round may go on under them. -/
def packColours (y : Core) (k : Nat) : List Byte :=
  y.elems.flatMap fun p =>
    let w := lookD p.2.ways k Way.reset
    (List.range 32).flatMap fun i =>
      let x := lookD w.slots i 0
      let v := lookD w.k (field x 17 3) 0
      if !w.slotv.getLsbD i then []
      else if wordOpc x = 0x88 then [x.extractLsb' 0 8]
      else if wordOpc x = 0x89 then [v.extractLsb' 0 8, v.extractLsb' 8 8] else []

/-- Whether a context stands at its round boundary (R166). -/
def roundEnds (s : State) (c k : Nat) : Bool :=
  let y := coreOf s c
  let x := ctxIn y k
  x.roundReq && x.counters.all fun p =>
    !p.2.running && (chainColour y k (p.1 / 4) (p.1 % 4) :: packColours y k).all fun col =>
      !((outstanding s c k col).any fun n => p.2.inRound n)

/-- Fetches, of the elements of a list, the records that a round boundary needs: those with CNT slots, and those that
staged constants name. -/
def roundRecords (s : State) (c k : Nat) : List Nat → State × Bool
  | [] => (s, true)
  | e :: r =>
    let x := ctxOf s c k
    if (wayOf (coreOf s c) e k).v || !x.image.getLsbD 63 || !x.elemv.getLsbD e then roundRecords s c k r
    else
      let waits := match look x.cfgStop e with | some n => !isReleased x.r n | none => false
      if waits then (s, false)
      else
        let named := x.ripe.any fun p => p.1 / 8 == e
        match readCfgRecord s c k (recordVa x e) with
        | (t, .got bs) =>
          if named || hasCnt (wayOfBytes bs) then
            let u := fetchConfig t c k e
            if (wayOf (coreOf u c) e k).v then roundRecords u c k r else (u, false)
          else roundRecords t c k r
        | (t, _) => (fetchConfig t c k e, false)

/-- The round boundary: staged constants in force, every chain at the start of a sweep, the round number advanced. -/
def nextRound (s : State) (c k : Nat) : State :=
  let s1 := (ctxOf s c k).ripe.foldl (fun t p =>
    modElem t c (p.1 / 8) fun x =>
      let w := lookD x.ways k Way.reset
      { x with ways := put x.ways k { w with k := put w.k (p.1 % 8) p.2 } }) s
  let y := coreOf s1 c
  let chains := (List.range 64).flatMap fun e =>
    let w := wayOf y e k
    if !w.v then []
    else ((List.range 4).filter fun m => (cntSlot w m 0).isSome).map fun m => (e, m)
  modCtx s1 c k fun x =>
    { x with
      ripe := [], roundReq := false, round := x.round + 1
      counters := chains.foldl (fun m p =>
        let key := p.1 * 4 + p.2
        let next := match look x.counters key with | some h => h.next | none => 0
        put m key { nodes := sweepStart (chainStart (wayOf y p.1 k) p.1 p.2), next := next, running := true,
                    start := next, made := 0 }) [] }

/-- ROUND_BOUNDARY (R166, R301). -/
def execRoundBoundary (c k : Nat) (s : State) : Out :=
  .next (
    if !regionMoves s c k || !roundEnds s c k then s
    else match roundRecords s c k (List.range 64) with | (t, true) => nextRound t c k | (t, false) => t)

/-- Whether an ACC slot's oldest run may be flushed: its LAST token is held and nothing of the colour is older. -/
def accReady (s : State) (c k : Nat) (l : List AccRun) : Option (AccRun × Byte × Half) :=
  match l with
  | r :: _ =>
    match r.held with
    | some (col, it) => if (outstanding s c k col).any fun n => older n it then none else some (r, col, it)
    | none => none
  | [] => none

/-- The flush of a run: its lanes read under the node's operator and type. -/
def accFlushTok (s : State) (c k : Nat) (z : RedOp) (y : Ty) (r : AccRun) (col : Byte) (it : Half) : Token :=
  let g := colourWidth (ctxOf s c k) col
  let v := (List.range g).map fun l => redRead z y (nth r.lanes l emptyRec)
  { colour := col, iter := it, lanes := v.map (·.1), xb := v.foldl (fun b p => b ||| p.2) r.xb, last := true, src := 0 }

/-- A slot's oldest run is flushed, if it may be and its ports are free; like a counter's emission it makes no ILLOP of R181
(log 73). -/
def accFlush (s : State) (c k e slot : Nat) : Option State :=
  let y := coreOf s c
  let key := k * 32 + slot
  let l := lookD (elemIn y e).acc key []
  let word := slotWord y e k slot
  match decodeElem word, accReady s c k l with
  | .ok (.acc _ ty z), some (r, col, it) =>
    let om : BitVec 4 := BitVec.ofNat 4 (wordOm word)
    if !portsFree y e k om then none
    else
      let t := accFlushTok s c k z ty r col it
      let s1 := modElem s c e fun x => { x with acc := put x.acc key (l.drop 1) }
      some (modCore s1 c fun x => { x with results := x.results ++ [{ elem := e, way := k, slot := slot, om := om, even := t, odd := t,
                                                                      due := s.cycle }] })
  | _, _ => none

/-- ACC_FLUSH (R302): the first of an element's ACC slots that has a run to flush. -/
def execAccFlush (c k e : Nat) (s : State) : Out :=
  .next (
    if !regionMoves s c k then s
    else match (List.range 32).findSome? fun i => accFlush s c k e i with | some t => t | none => s)

end Sys2Proof.Machine
end

