-- ==== Sys2Proof/Machine/Canon.lean ====
section
/-! DEFINITION. Canonical order (R417): the next set of a frozen context, its firing, and issue under it (R172, R431). -/
namespace Sys2Proof.Machine

/-- Where a matched set stands in its element. -/
inductive SetSeat where
  | issuing
  | ready
  | store (m : MEntry)
  deriving DecidableEq, Repr

/-- The matched sets of a context, by element. -/
def matchedSets (s : State) (c k : Nat) : List (Nat × SetSeat × RSet) :=
  let y := coreOf s c
  y.elems.flatMap fun p =>
    (match p.2.issuing with | some r => if r.way = k then [(p.1, SetSeat.issuing, r)] else [] | none => []) ++
    ((p.2.ready.filter fun r => r.way == k).map fun r => (p.1, SetSeat.ready, r)) ++
    (p.2.store.filter fun m => m.way == k).filterMap fun m => (readySet y p.1 m).map fun r => (p.1, SetSeat.store m, r)

/-- The place of a set in canonical order: its block's age and instruction, then those of no block by element and slot. -/
def canonRank (x : Ctx) (e : Nat) (r : RSet) : Nat :=
  let free := 2 ^ 40 + e * 32 + r.slot
  match x.insts.findIdx? fun i => i.age == r.inst, x.insts.find? fun i => i.age == r.inst with
  | some n, some i =>
    match placeOf x i.place with
    | some p =>
      match p.map.findIdx? fun w => mapElem w == e && mapSlot w == r.slot with
      | some m => n * 4096 + m
      | none => n * 4096 + 4095
    | none => free
  | _, _ => free

/-- The set that comes next in canonical order, among those that may fire. -/
def canonNext (s : State) (c k : Nat) : Option (Nat × SetSeat × RSet) :=
  let x := ctxOf s c k
  if 2 ≤ x.gates then none
  else
    ((matchedSets s c k).filter fun q => mayIssue s c q.1 q.2.2).foldl (fun b q =>
      match b with
      | none => some q
      | some p => if canonRank x q.1 q.2.2 < canonRank x p.1 p.2.2 then some q else some p) none

/-- Brings a set to its element's issue port; a set that stood there goes back. -/
def bringSet (s : State) (c : Nat) (q : Nat × SetSeat × RSet) : State :=
  match q.2.1 with
  | .issuing => s
  | .ready => issueSet (modElem s c q.1 fun x => { x with issuing := none, ready := x.ready ++ x.issuing.toList }) c q.1 q.2.2
  | .store m =>
    issueSet (modElem s c q.1 fun x =>
      { x with issuing := none, store := x.store.erase m, ready := x.ready ++ x.issuing.toList ++ [q.2.2] }) c q.1 q.2.2

/-- Fires the next set of a context in canonical order, and lets its results travel; whether there was one. -/
def fireNext (s : State) (c k : Nat) : State × Bool :=
  let t := settleTokens { s with deferred := false } c k 4096
  match canonNext t c k with
  | none => (t, false)
  | some q => (settleTokens (fireElement (bringSet t c q) c q.1) c k 4096, true)

/-- Firings a job has performed on a core since its checkpoint (R431). -/
def firesOn (s : State) (c a : Nat) : Nat :=
  let y := coreOf s c
  lookD (jobOf s a).fires c 0 +
    (y.ctxs.foldl (fun n p => if p.2.r.state.resident ∧ asidOf p.2 = a then n + p.2.fires else n) 0) +
    y.saved.foldl (fun n v => if asidOf v.ctx = a then n + v.ctx.fires else n) 0

/-- Whether a set may issue under a reverse step (R431): the chosen core's context, once in the phase of the cut, fires one
set at a time in canonical order, up to the number to perform. -/
def replayLets (s : State) (c e : Nat) (r : RSet) : Bool :=
  let a := asidOf (ctxOf s c r.way)
  match (jobOf s a).reverse with
  | some (c', n, ph) =>
    c' != c || (jobOf s a).phase != ph ||
      (decide (firesOn s c a < n) && (settleOnce s c r.way).isNone &&
        (match canonNext s c r.way with | some q => q.1 == e && q.2.2 == r | none => false))
  | none => true

/-- ELEMENT_ISSUE (R172): the oldest ready set whose port registers are free, while its context's sources and elements
are not stopped. -/
def execElementIssue (c e : Nat) (s : State) : Out :=
  .next (
    let x := elemOf s c e
    if x.issuing.isSome || s.cycle < x.busyTo then s
    else
      match x.ready.find? fun r => regionMoves s c r.way && (ctxOf s c r.way).gates < 2 && mayIssue s c e r && replayLets s c e r with
      | some r => issueSet s c e r
      | none => s)

end Sys2Proof.Machine
end

