-- ==== Sys2Proof/Machine/Jig.lean ====
section
/-! DEFINITION. The jig (R189–R196) and blocks in memory (R230–R233): reading and checking a block, placing it onto a
context's way, routing it, removing a placement, and writing a recorded one back. -/
namespace Sys2Proof.Machine

/-! ### Blocks (R230–R232) -/

/-- A block as read: its header's numbers, element words, target words and constants. -/
structure Blk where
  header : List W32
  words  : List W32
  targets : List W32
  consts : List W32
  deriving DecidableEq, Repr

def Blk.count (b : Blk) : Nat := field (nth b.header 0 0) 16 7
def Blk.exits (b : Blk) : Nat := field (nth b.header 0 0) 8 8
def Blk.nopred (b : Blk) : Bool := (nth b.header 0 0).getLsbD 0
def Blk.scount (b : Blk) : Nat := field (nth b.header 1 0) 0 6
def Blk.lcount (b : Blk) : Nat := field (nth b.header 2 0) 0 7

/-- Reads code bytes, page by page. -/
def readPieces (s : State) (c k : Nat) : List (Nat × Nat) → State × CfgEnd (List Byte)
  | [] => (s, .got [])
  | (va, n) :: r =>
    match readImage s c k va n with
    | (t, .got bs) => match readPieces t c k r with | (u, .got l) => (u, .got (bs ++ l)) | (u, e) => (u, e)
    | (t, e) => (t, e)

/-- Reads n code bytes as one access (R19). -/
def readCode (s : State) (c k va n : Nat) : State × CfgEnd (List Byte) :=
  match readPieces s c k (pieces 3 va n) with
  | (t, .fault f a _) => (t, .fault f a (4096 < va % 4096 + n))
  | r => r

/-- Cuts bytes into 32-bit words. -/
def words32 : Nat → List Byte → List W32
  | 0, _ => []
  | n + 1, bs => BitVec.ofNat 32 (leNat (bs.take 4)) :: words32 n (bs.drop 4)

/-- KS of an element word. -/
def wordKs (w : W32) : Nat := field w 17 3

/-- Reads a block. A constant table that cannot be fetched is no fault: the block is rejected (R233). -/
def readBlock (s : State) (c k va : Nat) : State × CfgEnd Blk :=
  match readCode s c k va 16 with
  | (t, .got h) =>
    let hd := words32 4 h
    let n := field (nth hd 0 0) 16 7
    match readCode t c k (va + 16) (8 * n) with
    | (u, .got body) =>
      let all := words32 (2 * n) body
      let ws := (List.range n).map fun i => nth all (2 * i) 0
      let ts := (List.range n).map fun i => nth all (2 * i + 1) 0
      let m := (ws.filter fun w => wordKs w == 0).length
      match readCode u c k (va + 16 + 8 * n) (4 * (m + m % 2)) with
      | (v, .got bs) => (v, .got { header := hd, words := ws, targets := ts, consts := words32 (m + m % 2) bs })
      | (v, .poison a) => (v, .poison a)
      | (v, .fault f a z) => if f.cause = .none then (v, .fault f a z) else (v, .bad)
      | (v, .bad) => (v, .bad)
    | (u, .fault f a z) => (u, .fault f a z)
    | (u, .poison a) => (u, .poison a)
    | (u, .bad) => (u, .bad)
  | (t, .fault f a z) => (t, .fault f a z)
  | (t, .poison a) => (t, .poison a)
  | (t, .bad) => (t, .bad)

/-- A target (R231): the instruction, the operand, whether it is a back edge; none when not in use. -/
def target (t : W32) (n : Nat) : Option (Nat × Nat × Bool) :=
  let lo := if n = 0 then 0 else 16
  if t.getLsbD (lo + 10) then some (field t (lo + 3) 7, field t (lo + 1) 2, t.getLsbD lo) else none

/-- The targets in use of an instruction, by number. -/
def targetsOf (t : W32) : List (Nat × Nat × Nat × Bool) :=
  [0, 1].filterMap fun n => (target t n).map fun x => (n, x)

/-- Operations with no result token (R233). -/
def noResult (w : W32) : Bool :=
  let o := wordOpc w
  o == 0x8B || o == 0x91 || o == 0x94 || o == 0xA0 || o == 0xA1 || o == 0xA3 || o == 0xC1 || o == 0xC3 || o == 0xD4 ||
    o == 0xD6 || o == 0xE0

/-- Whether a list repeats a number. -/
def repeats : List Nat → Bool
  | [] => false
  | x :: r => r.contains x || repeats r

/-- Engine-port instructions. -/
def isEngine (w : W32) : Bool := 0xE0 ≤ wordOpc w && wordOpc w ≤ 0xEF

/-- Whether the jig rejects a block with ILLOP (R190, R229, R233, R300, R307). R230 gives EXITS as 1 to 127, and no rule
rejects 0: such a block, with no EXIT, is placed, and its instances never commit (log 74). -/
def blockBad (hportv : W32) (b : Blk) : Bool :=
  let h := b.header
  let n := b.count
  (nth h 0 0).extractLsb' 24 8 != 1 || (nth h 0 0).getLsbD 23 || (nth h 0 0).extractLsb' 1 7 != 0 ||
  (nth h 1 0).extractLsb' 6 26 != 0 || (nth h 2 0).extractLsb' 7 25 != 0 || nth h 3 0 != 0 || n == 0 ||
  (b.words.any fun w => !elemWordOk w || wordOpc w == 0xA8 || wordOpc w == 0xA9 || wordOm w != 0 || (wordKs w != 0 && wordKs w != 7) ||
    (isEngine w && !hportv.getLsbD 22)) ||
  ((List.range n).any fun i =>
    let w := nth b.words i 0
    let t := nth b.targets i 0
    field t 27 5 != 0 || field t 11 5 != 0 || (noResult w && (targetsOf t) != []) ||
      (targetsOf t).any fun x => n ≤ x.2.1 || wordNt (nth b.words x.2.1 0) ≤ x.2.2.1) ||
  ((List.range n).any fun i => lateResult (nth b.words i 0) && (targetsOf (nth b.targets i 0)).any fun x => !x.2.2.2) ||
  repeats ((b.words.filter hasLsid).map wordLsid) || repeats ((b.words.filter isLamWrite).map fun w => field w 0 6) ||
  (b.words.filter isEffect).length != b.scount || (b.words.filter isLamWrite).length != b.lcount ||
  (b.words.filter fun w => wordOpc w == 0x91).length != b.exits ||
  ((b.words.filter fun w => wordKs w == 0).length % 2 == 1 && nth b.consts (b.consts.length - 1) 0 != 0)

/-! ### The free state of a way (R189) -/

/-- The valid words of a way. -/
def validWords (w : Way) : List W32 := ((List.range 32).filter fun i => w.slotv.getLsbD i).map fun i => lookD w.slots i 0

/-- The lowest free slot. -/
def lowSlot (w : Way) : Option Nat := (List.range 32).find? fun i => !w.slotv.getLsbD i
/-- The lowest free port: named by no valid slot, with no entry in use. -/
def lowPort (w : Way) : Option Nat :=
  (List.range 4).find? fun p => !((validWords w).any fun x => (BitVec.ofNat 4 (wordOm x)).getLsbD p) && branches w p == []
/-- The constant registers a valid word uses; CNT uses three. -/
def wordConsts (x : W32) : List Nat :=
  if wordKs x = 7 then [] else if wordOpc x = 0xA8 then rangeFrom (wordKs x) 3 else [wordKs x]
/-- The lowest free constant register. -/
def lowConst (w : Way) : Option Nat := (List.range 7).find? fun n => !((validWords w).any fun x => (wordConsts x).contains n)

/-- Whether an entry takes an output at its element's box. -/
def swtLeaves (e : Nat) (w : Word) : Bool := swtUsed w && swtKind w != 2 && !(swtKind w == 0 && swtId w == e)

/-- Whether a box output is free: driven by no record, and no entry's PATH. -/
def outFree (y : Core) (k b o : Nat) : Bool :=
  !(lookD (lookD y.boxes (b * 4 + k) BoxWay.reset).out o 0).getLsbD 7 &&
    (match boxElem b with
     | some e => !((List.range 16).any fun i =>
         let w := lookD (wayOf y e k).swt i 0
         swtLeaves e w && swtPath w == o)
     | none => true)

/-! ### Placing (R191) -/

/-- Where an instruction lies: element, slot, port and constant register. -/
structure Seat where
  elem  : Nat
  slot  : Nat
  port  : Option Nat
  konst : Option Nat
  deriving DecidableEq, Repr

/-- The resources an instruction would take in an element. -/
def tryElem (y : Core) (k e : Nat) (np nk : Bool) : Option Seat :=
  let w := wayOf y e k
  match lowSlot w, (if np then (lowPort w).map some else some none), (if nk then (lowConst w).map some else some none) with
  | some sl, some p, some n => some { elem := e, slot := sl, port := p, konst := n }
  | _, _, _ => none

/-- The distance between two elements (R191). -/
def elemDist (a b : Nat) : Nat :=
  let d (x y : Nat) : Nat := if x ≤ y then y - x else x - y
  d (elemRow a) (elemRow b) + d (elemCol a) (elemCol b)

/-- The nearest element with the resources; lower numbers first on ties. -/
def nearest (y : Core) (k anchor : Nat) (np nk : Bool) : Option Seat :=
  match (List.range 64).foldl (fun (best : Option (Nat × Seat)) e =>
      match tryElem y k e np nk with
      | none => best
      | some sp =>
        match best with
        | some (d, _) => if elemDist anchor e < d then some (elemDist anchor e, sp) else best
        | none => some (elemDist anchor e, sp)) none with
  | some (_, sp) => some sp
  | none => none

/-- The anchor of instruction i: the element of the lowest-indexed instruction before it that targets it. -/
def anchorOf (b : Blk) (done : List Seat) (i : Nat) : Nat :=
  match (List.range i).find? fun j => (targetsOf (nth b.targets j 0)).any fun x => x.2.1 == i with
  | some j => match done[j]? with | some sp => sp.elem | none => 0
  | none => if i = 0 then 0 else match done[i - 1]? with | some sp => sp.elem | none => 0

/-- Whether an instruction needs a port. -/
def needsPort (b : Blk) (i : Nat) : Bool := targetsOf (nth b.targets i 0) != [] || isEngine (nth b.words i 0)

/-- The constant of instruction i in the table (R232). -/
def constOf (b : Blk) (i : Nat) : W32 :=
  nth b.consts ((b.words.take i).filter fun w => wordKs w == 0).length 0

/-- The slot word: the port in OM, the constant register in KS. -/
def placedWord (w : W32) (sp : Seat) : W32 :=
  let om : W32 := match sp.port with | some p => 1#32 <<< (8 + p) | none => 0
  let ks : W32 := match sp.konst with | some n => BitVec.ofNat 32 (n * 2 ^ 17) | none => BitVec.ofNat 32 (7 * 2 ^ 17)
  ((w &&& 0xFFF1F0FF) ||| om) ||| ks

/-- Writes an instruction into its place. -/
def putSeat (y : Core) (k : Nat) (w : W32) (v : W32) (sp : Seat) : Core :=
  let e := elemIn y sp.elem
  let x := lookD e.ways k Way.reset
  { y with elems := put y.elems sp.elem { e with ways := put e.ways k { x with
      slots := put x.slots sp.slot (placedWord w sp)
      slotv := x.slotv ||| (1#32 <<< sp.slot)
      k := match sp.konst with | some n => put x.k n v | none => x.k
      v := true, jig := true } } }

/-- A failed attempt: reason, instruction, cycles. -/
structure JigFail where
  reason : Nat
  index  : Nat
  cycles : Nat
  deriving DecidableEq, Repr

/-- Places instructions in index order. -/
def placeAll (k : Nat) (b : Blk) : List Nat → Core → List Seat → Nat → Except JigFail (Core × List Seat × Nat)
  | [], y, done, n => .ok (y, done, n)
  | i :: r, y, done, n =>
    let w := nth b.words i 0
    match nearest y k (anchorOf b done i) (needsPort b i) (wordKs w == 0) with
    | none => .error { reason := 1, index := i, cycles := n }
    | some sp =>
      if 4096 ≤ n + 8 then .error { reason := 3, index := i, cycles := 4096 }
      else placeAll k b r (putSeat y k w (constOf b i) sp) (done ++ [sp]) (n + 8)

/-! ### Routing (R192) -/

/-- Outputs of a kind in a direction, by length. -/
def colOutputs (east : Bool) (len : Nat) : List Nat :=
  match len with
  | 16 => if east then [12, 13] else [26, 27]
  | 4 => if east then rangeFrom 8 4 else rangeFrom 22 4
  | _ => if east then rangeFrom 0 8 else rangeFrom 14 8

/-- The output a route takes at a box. -/
def routeOut (y : Core) (k b dst : Nat) : Option Nat :=
  let c := b % 18
  let d := dst % 18
  let dist := if c ≤ d then d - c else c - d
  let cands : List Nat :=
    if c = d then (if dst / 18 < b / 18 then rangeFrom 28 4 else rangeFrom 32 4)
    else ([16, 4, 1].filter fun n => n ≤ dist).flatMap fun n => colOutputs (decide (c < d)) n
  cands.find? fun o => outFree y k b o && (segmentEnd b o).isSome

/-- Drives an output from a source. -/
def driveOut (y : Core) (k b o src : Nat) : Core :=
  let r := lookD y.boxes (b * 4 + k) BoxWay.reset
  { y with boxes := put y.boxes (b * 4 + k) { r with out := put r.out o (BitVec.ofNat 8 (128 + src)) } }

/-- Sets the drop of a source. -/
def dropAt (y : Core) (k b src : Nat) : Core :=
  let r := lookD y.boxes (b * 4 + k) BoxWay.reset
  { y with boxes := put y.boxes (b * 4 + k) { r with drop := r.drop ||| (1#40 <<< src) } }

/-- Routes from a source at a box to a box, at most 21 hops; its last source drops there. -/
def routeTo (k dst : Nat) : Nat → Core → Nat → Nat → Option (Core × List Nat)
  | 0, _, _, _ => none
  | fuel + 1, y, b, src =>
    if b = dst then some (dropAt y k b src, [])
    else
      match routeOut y k b dst with
      | none => none
      | some o =>
        match segmentEnd b o with
        | none => none
        | some b' =>
          match routeTo k dst fuel (driveOut y k b o src) b' o with
          | some (z, l) => some (z, o :: l)
          | none => none

/-- The entry of a port a route takes: UNPACK's and STEER's targets keep to their parity. -/
def entryFor (w : Way) (p : Nat) (x : W32) (n : Nat) : Option Nat :=
  let parity := (wordOpc x == 0x89 || wordOpc x == 0x92) && n < 2
  (List.range 4).find? fun q => !swtUsed (swtOf w p q) && (!parity || q % 2 == n)

/-- The routes of a block in order: instruction, target (2 for the engine port), destination box, the entry without PATH. -/
def routesOf (b : Blk) (done : List Seat) : List (Nat × Nat × Nat × Word) :=
  (List.range b.count).flatMap fun i =>
    ((targetsOf (nth b.targets i 0)).map fun x =>
      let sp := match done[x.2.1]? with | some z => z | none => { elem := 0, slot := 0, port := none, konst := none }
      (i, x.1, elemBox sp.elem,
        destEntry { elem := sp.elem, slot := sp.slot, opnd := x.2.2.1 } ||| place (if x.2.2.2 then 1 else 0) 47)) ++
    (if isEngine (nth b.words i 0) then [(i, 2, portBox 22, place 1 63 ||| place 1 61 ||| place 22 55)] else [])

/-- Writes a switch-table entry. -/
def putSwt (y : Core) (k e p q : Nat) (w : Word) : Core :=
  let x := elemIn y e
  let v := lookD x.ways k Way.reset
  { y with elems := put y.elems e { x with ways := put x.ways k { v with swt := put v.swt (p * 4 + q) w } } }

/-- Routes in order. -/
def routeAll (k : Nat) (b : Blk) (done : List Seat) :
    List (Nat × Nat × Nat × Word) → Core → Nat → List (List Nat) → Except JigFail (Core × Nat × List (List Nat))
  | [], y, n, acc => .ok (y, n, acc)
  | (i, t, dst, w) :: r, y, n, acc =>
    let sp := match done[i]? with | some z => z | none => { elem := 0, slot := 0, port := none, konst := none }
    let p := match sp.port with | some p => p | none => 0
    match entryFor (wayOf y sp.elem k) p (nth b.words i 0) t, routeTo k dst 22 y (elemBox sp.elem) (36 + p) with
    | some q, some (z, l) =>
      let m := n + l.length + 1
      if 4096 ≤ m then .error { reason := 3, index := i, cycles := 4096 }
      else routeAll k b done r (putSwt z k sp.elem p q (w ||| place (nth l 0 0) 41)) m (acc ++ [l])
    | _, _ => .error { reason := 2, index := i, cycles := n }

/-- The map word of a placed instruction (R195). -/
def mapWord (sp : Seat) : W32 :=
  BitVec.ofNat 32 (2 ^ 31 + sp.elem * 2 ^ 25 + sp.slot * 2 ^ 20 +
    (match sp.port with | some p => p * 2 ^ 18 + 2 ^ 17 | none => 0) +
    (match sp.konst with | some n => n | none => 7) * 2 ^ 14)

/-- A block placed on the way of a context: the core, the map, the routes, the cycles counted. -/
structure Placed where
  core   : Core
  map    : List W32
  routes : List (List Nat)
  cycles : Nat
  deriving DecidableEq, Repr

/-- One attempt at placing a block (R191–R193). -/
def attempt (y : Core) (k : Nat) (b : Blk) : Except JigFail Placed :=
  match placeAll k b (List.range b.count) y [] b.count with
  | .error f => .error f
  | .ok (z, done, n) =>
    match routeAll k b done (routesOf b done) z n [] with
    | .error f => .error f
    | .ok (z2, m, rs) => .ok { core := z2, map := done.map mapWord, routes := rs, cycles := m }

/-! ### Removing placements (R194) -/

/-- Clears the drop of a source. -/
def undropAt (y : Core) (k b src : Nat) : Core :=
  let r := lookD y.boxes (b * 4 + k) BoxWay.reset
  { y with boxes := put y.boxes (b * 4 + k) { r with drop := r.drop &&& ~~~(1#40 <<< src) } }

/-- Undrives a route from a source at a box by an output on. -/
def cutRoute (k : Nat) : Nat → Core → Nat → Nat → Core
  | 0, y, _, _ => y
  | fuel + 1, y, b, o =>
    let r := lookD y.boxes (b * 4 + k) BoxWay.reset
    let y1 := { y with boxes := put y.boxes (b * 4 + k) { r with out := del r.out o } }
    match segmentEnd b o with
    | none => y1
    | some b' =>
      let r' := lookD y1.boxes (b' * 4 + k) BoxWay.reset
      match (List.range 36).find? fun n => (lookD r'.out n 0).getLsbD 7 && field (lookD r'.out n 0) 0 6 == o with
      | some n => cutRoute k fuel y1 b' n
      | none => undropAt y1 k b' o

/-- Frees a port's entries and routes. -/
def cutPort (y : Core) (k e p : Nat) : Core :=
  (List.range 4).foldl (fun z q =>
    let w := swtOf (wayOf z e k) p q
    if !swtUsed w then z
    else
      let z1 := putSwt z k e p q 0
      if swtLeaves e w then cutRoute k 22 z1 (elemBox e) (swtPath w) else undropAt z1 k (elemBox e) (36 + p)) y

/-- Removes a placed instruction. -/
def cutSeat (y : Core) (k : Nat) (m : W32) : Core :=
  let e := mapElem m
  let y1 := if m.getLsbD 17 then cutPort y k e (mapPort m) else y
  let x := elemIn y1 e
  let w := lookD x.ways k Way.reset
  { y1 with elems := put y1.elems e { x with ways := put x.ways k { w with slotv := w.slotv &&& ~~~(1#32 <<< mapSlot m) } } }

/-- Removes a placement from its context's way. -/
def removePlace (y : Core) (k : Nat) (p : Placement) : Core :=
  let z := p.map.foldl (fun z m => cutSeat z k m) y
  let x := ctxIn z k
  { z with ctxs := put z.ctxs k { x with places := x.places.filter fun q => q.id != p.id } }

/-- Whether a token waits in a placement's slots. -/
def placeHolds (y : Core) (k : Nat) (p : Placement) : Bool :=
  y.elems.any fun z =>
    let mine (slot : Nat) : Bool := p.map.any fun w => mapElem w == z.1 && mapSlot w == slot
    (z.2.store.any fun m => m.way == k && mine m.slot) || (z.2.ready.any fun r => r.way == k && mine r.slot) ||
      (match z.2.issuing with | some r => r.way == k && mine r.slot | none => false)

/-- Whether a placement may be removed before a second attempt: unpinned, with no LIVE instance and no waiting token. The
tokens of an ABORTED instance then find no instruction when they come again (R158, R171). -/
def removable (y : Core) (k : Nat) (p : Placement) : Bool :=
  p.pin.isNone && !((ctxIn y k).insts.any fun i => i.place == p.id && i.state == .live) &&
    !placeHolds y k p

/-! ### Write-back at a restore (R196) -/

/-- The place a map word names. -/
def seatOf (m : W32) : Seat :=
  { elem := mapElem m, slot := mapSlot m, port := if m.getLsbD 17 then some (mapPort m) else none,
    konst := if field m 14 3 = 7 then none else some (field m 14 3) }

/-- Whether a recorded place is free. -/
def seatFree (y : Core) (k : Nat) (sp : Seat) : Bool :=
  let w := wayOf y sp.elem k
  !w.slotv.getLsbD sp.slot &&
  (match sp.port with
   | some p => !((validWords w).any fun x => (BitVec.ofNat 4 (wordOm x)).getLsbD p) && branches w p == []
   | none => true) &&
  (match sp.konst with | some n => !((validWords w).any fun x => (wordConsts x).contains n) | none => true)

/-- Writes instructions back at their recorded places. -/
def backSeats (k : Nat) (b : Blk) : List (Nat × W32) → Core → Option Core
  | [], y => some y
  | (i, m) :: r, y =>
    let sp := seatOf m
    let w := nth b.words i 0
    if !seatFree y k sp || sp.port.isSome != needsPort b i || sp.konst.isSome != (wordKs w == 0) then none
    else backSeats k b r (putSeat y k w (constOf b i) sp)

/-- Writes a recorded route back: every output on it free, its end at the destination. -/
def backRoute (k dst : Nat) : List Nat → Core → Nat → Nat → Option Core
  | [], y, b, src => if b = dst then some (dropAt y k b src) else none
  | o :: r, y, b, src =>
    if !outFree y k b o then none
    else
      match segmentEnd b o with
      | none => none
      | some b' =>
        backRoute k dst r (driveOut y k b o src) b' o

/-- Writes the recorded routes back. -/
def backRoutes (k : Nat) (b : Blk) (done : List Seat) : List (Nat × Nat × Nat × Word) → List (List Nat) → Core → Option Core
  | [], [], y => some y
  | (i, t, dst, w) :: r, l :: ls, y =>
    let sp := match done[i]? with | some z => z | none => { elem := 0, slot := 0, port := none, konst := none }
    let p := match sp.port with | some p => p | none => 0
    match entryFor (wayOf y sp.elem k) p (nth b.words i 0) t, backRoute k dst l y (elemBox sp.elem) (36 + p) with
    | some q, some z => backRoutes k b done r ls (putSwt z k sp.elem p q (w ||| place (nth l 0 0) 41))
    | _, _ => none
  | _, _, _ => none

/-- A recorded placement written back onto a way; none when it cannot be. -/
def writeBack (y : Core) (k : Nat) (b : Blk) (p : Placement) : Option Core :=
  if b.count ≠ p.count then none
  else
    match backSeats k b ((List.range p.map.length).map fun i => (i, nth p.map i 0)) y with
    | none => none
    | some z => backRoutes k b (p.map.map seatOf) (routesOf b (p.map.map seatOf)) p.routes z

end Sys2Proof.Machine
end

