-- ==== Sys2Proof/Machine/Blocks.lean ====
section
/-! DEFINITION. Block placements asked of the jig (R162, R189–R195, R259), the chained front end (R163, R164), and the
creation of instances (R158, R162). -/
namespace Sys2Proof.Machine

/-- The placement of a block, if it is placed. -/
def placedAt (x : Ctx) (va : Nat) : Option Placement := x.places.find? fun p => p.va == va

/-- The placement under a pin. -/
def pinnedAt (x : Ctx) (n : Nat) : Option Placement :=
  x.places.find? fun p => match p.pin with | some (m, _) => m == n | none => false

/-- Fetches every element record of ELEMV that is not resident (R189). -/
def fetchAll (s : State) (c k : Nat) : List Nat → State × CfgEnd Unit
  | [] => (s, .got ())
  | e :: r =>
    let x := ctxOf s c k
    if (wayOf (coreOf s c) e k).v || !x.image.getLsbD 63 || !x.elemv.getLsbD e then fetchAll s c k r
    else match loadRecord s c k e with | (t, .got _) => fetchAll t c k r | (t, f) => (t, f)

/-- JIGSTAT without BUSY (R195). -/
def jigWord (reason index cycles : Nat) (second : Bool) : Word :=
  place reason 56 ||| place index 48 ||| place cycles 16 ||| place (if second then 1 else 0) 1

/-- JIGSTAT as it reads. -/
def jigStat (x : Ctx) : Word := x.r.jigstat ||| (if x.jig.isSome then 1 else 0)

/-- The unit that asked takes a trap: the sequencer at its instruction, or the front end. -/
def askerTrap (s : State) (c k : Nat) (j : JigJob) (cause : Cause) : State :=
  let s1 := modCtx s c k fun x => { x with jig := none, seq := if j.front then x.seq else { x.seq with wait := .none } }
  takeTrap s1 c k (plainTrap cause (if j.front then 3 else 0)) false

/-- The unit that asked stops at a fault of a fetch (R35); a lock that holds the walk holds the jig. -/
def askerFault (s : State) (c k : Nat) (j : JigJob) (f : XFault) (va kind : Nat) (straddle : Bool) : State :=
  let code := if j.front then j.va else (ctxOf s c k).seq.pc.toNat
  if f.cause = .none then s
  else
  match takeFault (violFetch s c k f va) c k
      { seqFault f.cause kind 0 va code f.entry f.level with unit := if j.front then 3 else 0, straddle := straddle } with
  | (t, some m) =>
    modCtx t c k fun x =>
      if j.front then { x with jig := none, feStop := some m }
      else { x with jig := none, seqStop := some m, seq := { x.seq with wait := .none } }
  | (t, none) => t

/-- POISON in a fetch: the latch of the unit that asked takes the address (log 17). -/
def askerPoison (s : State) (c k : Nat) (j : JigJob) (va : Nat) : State :=
  if j.front then askerTrap (latchFlow s c k 0 va) c k j .poison
  else askerTrap (modCtx s c k fun x => { x with seqLatch := some (BitVec.ofNat 64 (va % 2 ^ 48)) }) c k j .poison

/-- A placement written: it joins the context's, and JIGSTAT reports it. -/
def recordPlace (s : State) (c k : Nat) (j : JigJob) (b : Blk) (p : Placed) (second : Bool) : State :=
  modCtx (setCore s c p.core) c k fun x =>
    { x with
      places := x.places ++ [{ id := x.nextPlace, va := j.va, pin := j.pin, unpinning := false, count := b.count, exits := b.exits
                               scount := b.scount, lcount := b.lcount, nopred := b.nopred, map := p.map, routes := p.routes }]
      nextPlace := x.nextPlace + 1
      jig := none
      r := { x.r with jigstat := jigWord 0 0 p.cycles second } }

/-- A placement failed (R193, R194). -/
def jigFails (s : State) (c k : Nat) (j : JigJob) (f : JigFail) (second : Bool) : State :=
  askerTrap (modRegs s c k fun r => { r with jigstat := jigWord f.reason f.index f.cycles second }) c k j .jigfail

/-- The jig's attempts at a block whose bytes have been read (R193, R194). -/
def jigPlace (s : State) (c k : Nat) (j : JigJob) (b : Blk) : State :=
  match attempt (coreOf s c) k b with
  | .ok p => recordPlace s c k j b p false
  | .error f =>
    let old := (ctxOf s c k).places.filter fun p => removable (coreOf s c) k p
    if old = [] then jigFails s c k j f false
    else
      let t := modCore s c fun y => old.foldl (fun z p => removePlace z k p) y
      match attempt (coreOf t c) k b with
      | .ok p => recordPlace t c k j b p true
      | .error g => jigFails t c k j g true

/-- The jig's work on a placement: the block is read and checked, the records it may write into are fetched. -/
def jigWork (s : State) (c k : Nat) (j : JigJob) : State :=
  match readBlock s c k j.va with
  | (t, .fault f va z) => askerFault t c k j f va 3 z
  | (t, .poison va) => askerPoison t c k j va
  | (t, .bad) => askerTrap t c k j .illop
  | (t, .got b) =>
    if blockBad (ctxOf t c k).hportv b then askerTrap t c k j .illop
    else
      match fetchAll t c k (List.range 64) with
      | (u, .fault f va z) => askerFault u c k j f va 4 z
      | (u, .poison va) => askerPoison u c k j va
      | (u, .bad) => askerTrap u c k j .illop
      | (u, .got _) => jigPlace u c k j b

/-- JIG_PLACEMENT (R193). -/
def execJigPlacement (c k : Nat) (s : State) : Out :=
  .next (
    let x := ctxOf s c k
    match x.jig with
    | some j => if ctxMoves s c k && x.trap.isNone then jigWork s c k j else s
    | none => s)

/-! ### Instances of a BLKRUN -/

/-- Whether an instance may be created now: sources open, room, the window of R155. -/
def mayCreate (s : State) (c k : Nat) (col : Byte) (n : Half) : Bool :=
  let x := ctxOf s c k
  x.gates == 0 && instRoom x && tagOpen s c k col n

/-- The chain a BLKRUN.CHAIN starts. The spec gives no effect to one while a chain still runs: its record takes the place of
that one's (log 72). -/
def startChain (x : Ctx) (col : Byte) (next : Half) : Ctx :=
  { x with chain := some { colour := col, next := next, active := true, waiting := none, predicted := none } }

/-- A BLKRUN under way creates its next instance, and retires with the last (R162). -/
def createNext (s : State) (c k : Nat) : State :=
  let x := ctxOf s c k
  match x.seq.wait with
  | .creating id col ch n left =>
    match placeOf x id with
    | none => modCtx s c k fun z => { z with seq := { z.seq with wait := .none } }
    | some p =>
      if !mayCreate s c k col n then s
      else
        let s1 := createInst s c k p col n ch
        let s2 := if ch then modCtx s1 c k fun z => startChain z col (n + 1) else s1
        if left ≤ 1 then markProgress (modCtx s2 c k fun z => { z with seq := seqRetired z.seq 1 }) c k
        else modCtx s2 c k fun z => { z with seq := { z.seq with wait := .creating id col ch (n + 1) (left - 1) } }
  | _ => s

/-- INSTANCE_CREATE (R162). -/
def execInstanceCreate (c k : Nat) (s : State) : Out := .next (if seqRuns s c k then createNext s c k else s)

/-! ### The chained front end (R163, R164) -/

/-- The uncommitted instances of the chain. -/
def chainInsts (x : Ctx) : List Inst := x.insts.filter fun i => i.chain && i.state != .discarded

/-- The block the front end fetches next: the true successor, or the prediction for the youngest instance; at most two
instances stand ahead of the oldest. A predicted zero is the end of the chain (R163). -/
def nextBlock (s : State) (c k : Nat) (h : Chain) : Option Nat :=
  let x := ctxOf s c k
  if 3 ≤ (chainInsts x).length then none
  else
  match h.waiting with
  | some va => some va
  | none =>
    match (chainInsts x).getLast? with
    | none => none
    | some i =>
      let nopred := match placeOf x i.place with | some p => p.nopred | none => true
      if i.exitTok.isSome || i.state ≠ .live || nopred then none
      else match look (coreOf s c).pred (i.va * 4096 + asidOf x) with | some 0 => none | r => r

/-- The front end starts the next block of the chain. -/
def frontEnd (s : State) (c k : Nat) (h : Chain) (va : Nat) : State :=
  let x := ctxOf s c k
  match placedAt x va with
  | none =>
    if x.jig.isSome then s
    else modCtx s c k fun z => { z with jig := some { va := va, pin := none, front := true } }
  | some p =>
    if !mayCreate s c k h.colour h.next then s
    else
      modCtx (createInst s c k p h.colour h.next true) c k fun z =>
        { z with chain := some { h with next := h.next + 1, waiting := none } }

/-- FRONT_END_FETCH (R163). -/
def execFrontEndFetch (c k : Nat) (s : State) : Out :=
  .next (
    let x := ctxOf s c k
    let stopped := match x.feStop with | some n => !isReleased x.r n | none => false
    match x.chain with
    | some h =>
      if !regionMoves s c k || x.gates != 0 || x.trap.isSome || stopped then s
      else match nextBlock s c k h with
        | some va => frontEnd (modCtx s c k fun z => { z with feStop := none }) c k h va
        | none => s
    | none => s)

end Sys2Proof.Machine
end

