-- ==== Sys2Proof/Machine/CtxRegs.lean ====
section
/-! DEFINITION. The context registers as they read (R21, R398, R406, R407, R421, R453). -/
namespace Sys2Proof.Machine

/-- STATE (R407). -/
def CtxState.code : CtxState → Nat
  | .free => 0 | .running => 1 | .gated => 2 | .quiescent => 3 | .saving => 4 | .saved => 5 | .restoring => 6
  | .clamped => 7 | .lost => 8 | .ending => 9

/-- FQPTR (R39). -/
def fqptrWord (r : CtxRegs) : Word :=
  place (if unreleased r = 63 then 1 else 0) 15 ||| place r.tail.toNat 8 ||| r.head.setWidth 64

/-- TRAPREQ (R249). -/
def trapreqWord (r : CtxRegs) : Word := place (if r.trapPend then 1 else 0) 63 ||| place r.trapCode.toNat 8

/-- CTXSTATE (R407). -/
def ctxstateWord (r : CtxRegs) : Word := place r.imgkb.toNat 48 ||| BitVec.ofNat 64 r.state.code

/-- DBGSTAT (R421). -/
def dbgstatWord (r : CtxRegs) : Word :=
  place (if r.plystale then 1 else 0) 1 ||| BitVec.ofNat 64 (if r.lddrop then 1 else 0)

/-- A context register as it reads, by its offset; DBGDATA is read by an operation of its own. -/
def ctxReg (x : Ctx) (off : Nat) : Option Word :=
  match off with
  | 0x000 => some x.r.xlroot
  | 0x008 => some x.r.fqctl
  | 0x010 => some (fqptrWord x.r)
  | 0x018 => some (x.r.tenant.setWidth 64)
  | 0x020 => some x.r.ovfbase
  | 0x028 => some (BitVec.ofNat 64 x.ovf.length)
  | 0x030 => some (jigStat x)
  | 0x038 => some (trapreqWord x.r)
  | 0x040 => some (ctxstateWord x.r)
  | 0x048 => some x.r.traprec
  | 0x050 => some x.r.firstx
  | 0x058 => some (x.r.wdlim.setWidth 64)
  | 0x060 => some x.r.poisaddr
  | 0x0F8 => some (x.r.key.setWidth 64)
  | 0x100 => some x.r.dbgsel
  | 0x110 => some (dbgstatWord x.r)
  | _ => none

/-- A context register as it reads in the first section of a save image (R403): offsets without a register and CTXSTATE
are zero. -/
def imageReg (x : Ctx) (i : Nat) : Word :=
  if i = 8 then 0 else match ctxReg x (8 * i) with | some v => v | none => 0

/-! ### FQPTR (R39, R40) -/

/-- Whether a TAIL releases only records written. -/
def tailOk (r : CtxRegs) (t : BitVec 6) : Bool := (t - r.tail).toNat ≤ unreleased r

/-- Writes the records that waited for room, while there is room (R40): each takes its number, and the unit that waits
for it waits for that number. -/
def numberUnit (s : State) (c k n : Nat) (f : FaultInfo) : State :=
  let zero (o : Option Nat) : Bool := o == some 0
  match f.unit with
  | 0 =>
    let mine (z : StreamCmd) : Bool := z.key == (ctxOf s c k).r.key && zero z.stop && z.fault == some f
    if (coreOf s c).ports.any fun p => p.2.any mine then
      modCore s c fun y => { y with ports := y.ports.map fun p => (p.1, updFirst p.2 mine fun z => { z with stop := some n }) }
    else modCtx s c k fun x => if zero x.seqStop then { x with seqStop := some n } else x
  | 1 =>
    let x := ctxOf s c k
    if x.insts.any fun i => zero i.waitSeq && i.fault == some f then
      modCtx s c k fun y => { y with insts := updFirst y.insts (fun i => zero i.waitSeq && i.fault == some f) fun i => { i with waitSeq := some n } }
    else if x.late.any fun l => zero l.stop then
      modCtx s c k fun y => { y with late := updFirst y.late (fun l => zero l.stop) fun l => { l with stop := some n } }
    else modCore s c fun y => { y with hold := updFirst y.hold (fun h => h.1 == f.elem && h.2.1.way == k && h.2.1.slot == f.slot && zero h.2.2) fun h => (h.1, h.2.1, some n) }
  | 2 =>
    let key := (ctxOf s c k).r.key
    let y := coreOf s c
    if y.copies.any fun z => z.key == key && zero z.stop then
      setCore s c { y with copies := updFirst y.copies (fun z => z.key == key && zero z.stop) fun z => { z with stop := some n } }
    else modCtx s c k fun x => { x with cfgStop := x.cfgStop.map fun p => if p.1 = 86 ∧ p.2 = 0 then (p.1, n) else p }
  | 3 => modCtx s c k fun x => if zero x.feStop then { x with feStop := some n } else x
  | _ => modCtx s c k fun x => { x with cfgStop := x.cfgStop.map fun p => if p.1 = f.elem ∧ p.2 = 0 then (p.1, n) else p }

/-- Writes pending records into a ring with room. -/
def writePending (s : State) (c k : Nat) : Nat → State
  | 0 => s
  | fuel + 1 =>
    let x := ctxOf s c k
    match x.pending with
    | [] => s
    | f :: r =>
      if unreleased x.r = 63 then s
      else
        match takeFault (modCtx s c k fun y => { y with pending := [] }) c k f with
        | (t, some n) => writePending (numberUnit (modCtx t c k fun y => { y with pending := r }) c k n f) c k fuel
        | (t, none) => t

/-- Releases records up to a TAIL that is in order (R39, R41). -/
def releaseTo (s : State) (c k : Nat) (t : BitVec 6) : State :=
  writePending (modRegs s c k fun r => { r with tail := t }) c k 64

end Sys2Proof.Machine
end

