-- ==== Sys2Proof/Machine/FabricCmd.lean ====
section
/-! DEFINITION. The fabric commands of the sequencer (R258–R264): blocks, configuration swap, injection, sinks, round
constants, and gating. -/
namespace Sys2Proof.Machine

/-- Stores of bytes to a global range by the executing context: `n` bytes from an address, checked whole. -/
def storeRange (s : State) (c k va : Nat) (bs : List Byte) (fin : State → State) : State :=
  let x := ctxOf s c k
  if bs = [] then fin s
  else
    match findRange false s c k 0 0 0 va bs.length true with
    | (t, .error f) =>
      let t1 := if logged f.cause f.unbacked then violGlobal t c (asidOf x) f.addr 1 f.cause else t
      if f.cause = .none then t else faultCur t1 { seqFault f.cause 1 0 f.addr 0 f.entry f.level with straddle := f.straddle }
    | (t, .ok l) =>
      if scoreStalls (coreOf t c) (globalRng (asidOf x) va bs.length) true || spotsHeld t l then s
      else
        match admitted t c k bs.length (atSeq k) with
        | (u, false) => u
        | (u, true) =>
          fin (writeSpots (signAccess u c k va bs.length true) (asidOf x) l (bs.map fun b => (b, false)))

/-- A block address that is not 128-byte aligned faults (R259). -/
def blockAlign (s : State) (va : Word) : State := faultGlobal s va 3 (bareFault .align)

/-- Asks the jig for a placement and waits. -/
def askJig (s : State) (c k va : Nat) (pin : Option (Nat × Byte)) : State :=
  if (ctxOf s c k).jig.isSome then s
  else waitIn (modCtx s c k fun x => { x with jig := some { va := va, pin := pin, front := false } }) .placing

/-- A block command whose release at CORE scope waits for the context's earlier accesses (R123). -/
def releasing (s : State) (c k : Nat) (body : State → State) : State :=
  match releaseNow s (.unit c k 0) .core with | (t, true) => body t | (t, false) => t

/-- BLKRUN with its operands read. -/
def blkrunOp (va b col : Word) (ch : Bool) (c k : Nat) (s : State) : State :=
  let x := ctxOf s c k
  let count := field b 16 16
  let colour : Byte := col.extractLsb' 0 8
  match curWait s with
  | .creating _ _ _ _ _ => createNext s c k
  | _ =>
    if above b 32 || above col 8 then trapCur s .illop
    else if va.toNat % 128 ≠ 0 then blockAlign s va
    else if !colourActive x colour || (ch && count != 1) then trapCur s .illop
    else if count = 0 then retire s 1
    else
      match placedAt x va.toNat with
      | none => askJig s c k va.toNat none
      | some p =>
        if x.gates ≠ 0 then s
        else
          releasing s c k fun t =>
            createNext (waitIn t (.creating p.id colour ch (b.extractLsb' 0 16) count)) c k

/-- BLKRUN (R259): instances first to first + count − 1, or the start of a chain. -/
def execBlkrun (a b c : Reg) (h : Bool) (s : State) : Out :=
  .next (ctxOnly s (blkrunOp (srcS s a) (srcS s b) (srcS s c) h))

/-- BLKPIN with its operands read: a block placed unpinned becomes pinned where it lies. -/
def blkpinOp (va b col : Word) (c k : Nat) (s : State) : State :=
  let x := ctxOf s c k
  let pin := field b 0 4
  let colour : Byte := col.extractLsb' 0 8
  if above b 4 || above col 8 then trapCur s .illop
  else if va.toNat % 128 ≠ 0 then blockAlign s va
  else if curWait s == .placing && (match pinnedAt x pin with | some p => p.va == va.toNat | none => false) then retire s 1
  else if !colourActive x colour || (pinnedAt x pin).isSome then trapCur s .illop
  else
    match x.places.find? fun p => p.va == va.toNat && p.pin.isNone with
    | some p =>
      releasing s c k fun t =>
        retire (modCtx t c k fun z =>
          { z with places := updFirst z.places (fun q => q.id == p.id) fun q => { q with pin := some (pin, colour) } }) 1
    | none => releasing s c k fun t => askJig t c k va.toNat (some (pin, colour))

/-- BLKPIN (R259). -/
def execBlkpin (a b c : Reg) (s : State) : Out := .next (ctxOnly s (blkpinOp (srcS s a) (srcS s b) (srcS s c)))

/-- BLKUNPIN with its operand read: once every instance of the block has committed, the placement goes (R162). -/
def blkunpinOp (b : Word) (c k : Nat) (s : State) : State :=
  let x := ctxOf s c k
  if above b 4 then trapCur s .illop
  else
    match pinnedAt x (field b 0 4) with
    | none => trapCur s .illop
    | some p =>
      if x.insts.any fun i => i.place == p.id then
        modCtx s c k fun z =>
          { z with places := updFirst z.places (fun q => q.id == p.id) fun q => { q with unpinning := true } }
      else retire (modCore s c fun y => removePlace y k p) 1

/-- BLKUNPIN (R259). -/
def execBlkunpin (b : Reg) (s : State) : Out := .next (ctxOnly s (blkunpinOp (srcS s b)))

/-- JIGMAP with its operands read: the map words as plain stores. -/
def jigmapOp (va m : Word) (c k : Nat) (s : State) : State :=
  if va.toNat % 128 ≠ 0 then blockAlign s va
  else if m.toNat % 4 ≠ 0 then faultGlobal s m 1 (bareFault .align)
  else
    match placedAt (ctxOf s c k) va.toNat with
    | none => askJig s c k va.toNat none
    | some p => storeRange s c k m.toNat (p.map.flatMap fun w => natLE 4 w.toNat) fun t => retire t 1

/-- JIGMAP (R259). -/
def execJigmap (a b : Reg) (s : State) : Out := .next (ctxOnly s (jigmapOp (srcS s a) (srcS s b)))

/-! ### CFGSWAP (R129, R187, R260) -/

/-- Whether a binding delivers to or gathers from hard ports. -/
def Binding.ported (b : Binding) : Bool :=
  b.epi.mode != 0 || (match b.epiNext with | some e => e.mode != 0 | none => false) || b.gather.1 == 2 || b.gatherNext.1 == 2

/-- Whether operations bound to the outgoing configuration are still to be performed (R129). -/
def boundOps (s : State) (c k : Nat) : Bool :=
  let y := coreOf s c
  let key := (ctxIn y k).r.key
  (y.ports.any fun p => p.2.any fun q => q.key == key) ||
  (y.copies.any fun q => q.key == key && q.elemIssued.isSome) ||
  (y.mq.owner == some key && y.mq.queue.any fun q => match q with | .popc _ _ _ _ 0 _ => true | _ => false) ||
  (ctxIn y k).insts.any fun i => i.live

/-- The ways of a context without a configuration. -/
def clearWays (y : Core) (k : Nat) : Core :=
  { y with
    elems := y.elems.map fun p => (p.1, { p.2 with ways := del p.2.ways k, acc := without p.2.acc (32 * k) (32 * k + 32) })
    boxes := y.boxes.filter fun p => p.1 % 4 != k }

/-- The outgoing configuration leaves the context (R187). -/
def dropConfig (s : State) (c k : Nat) (image : Word) : State :=
  modCtx (modCore s c fun y => clearWays y k) c k fun x =>
    { x with image := image, elemv := 0, hportv := 0, places := [], counters := [], cfgStop := [] }

/-- CFGSWAP with its operand read. It passes once every access of the context has been performed (R129). One whose fetches
fault, or whose records are rejected, leaves the outgoing configuration as it was (log 64). -/
def cfgswapOp (v : Word) (c k : Nat) (s : State) : State :=
  let x := ctxOf s c k
  if v.toNat % 4096 ≠ 0 then faultGlobal s v 4 (bareFault .align)
  else if (x.places.any fun p => p.pin.isSome) || (x.binds.any fun b => b.2.ported) then trapCur s .illop
  else if boundOps s c k || x.late != [] || commandTokens s c k != [] then s
  else
  match drainContext s c k with
  | (t, false) => t
  | (s, true) =>
  if v = 0 then retire (dropConfig s c k 0) 1
  else if 2 ^ 48 ≤ v.toNat then faultGlobal s v 4 (bareFault .xlate)
  else
    match loadImage (dropConfig s c k (place 1 63 ||| v)) c k v.toNat with
    | (t, .got _) => retire t 1
    | (_, .fault f va _) => faultGlobal s (BitVec.ofNat 64 va) 4 f
    | (_, .poison va) => poisonCur s 0 va
    | (_, .bad) => trapCur s .illop

/-- CFGSWAP (R260). -/
def execCfgswap (a : Reg) (s : State) : Out := .next (ctxOnly s (cfgswapOp (srcS s a)))

/-! ### INJ, SNKRD, ARGW, ROUND (R261–R263) -/

/-- INJ with its operands read. -/
def injOp (v d col : Word) (last : Bool) (c k : Nat) (s : State) : State :=
  let x := ctxOf s c k
  let colour : Byte := col.extractLsb' 0 8
  let it : Half := d.extractLsb' 16 16
  if above d 32 || field d 13 3 != 0 || above col 8 || !colourActive x colour then trapCur s .illop
  else if x.gates ≠ 0 || !tagOpen s c k colour it then s
  else
    releasing s c k fun t =>
      let tok : Token := { colour := colour, iter := it, lanes := List.replicate (colourWidth x colour) (v.setWidth 32),
                           xb := 0, last := last, src := 0 }
      let f := doorFlight { elem := field d 0 6, slot := field d 6 5, opnd := field d 11 2 } tok
      retire (modCore t c fun y => { y with door := y.door ++ [(k, f)] }) 1

/-- INJ (R261). -/
def execInj (a b c : Reg) (l : Bool) (s : State) : Out :=
  .next (ctxOnly s (injOp (srcS s a) (srcS s b) (srcS s c) l))

/-- SNKRD's metadata of a token. -/
def sinkMeta (t : Token) : Word :=
  place t.xb.toNat 0 ||| place (if t.last then 1 else 0) 6 ||| place t.colour.toNat 8 ||| place t.iter.toNat 16 |||
    place t.lanes.length 32

/-- A sink's token is readable once the release of its commit has been performed (R123): the region's accesses before
it, and the COPYs of its instance and of older ones, those whose command is on its way included. -/
def sinkReady (s : State) (c k : Nat) (t : SinkRec) : State × Bool :=
  let who : Who := .unit c k 1
  let before (r : Req) : Bool := r.id < t.after
  let far (b : BufReq) : Bool := b.core == c && b.slot == k && b.unit == 1 && b.id < t.after && b.answer.isNone
  let (u, ok) := drainList s ((partyReqs s who).filter before)
  (u, ok && !u.bufreqs.any far && !regionCopies u c k fun a => decide (a ≤ t.age))

/-- SNKRD with its operand read: it waits while the sink holds no committed unread token, and while a record that may
hold the sink is still to be fetched. -/
def snkrdOp (b cr : Reg) (sink : Word) (lane : Nat) (c k : Nat) (s : State) : State :=
  let x := ctxOf s c k
  let e := field sink 0 6
  let slot := field sink 6 5
  let w := wayOf (coreOf s c) e k
  if above sink 12 then trapCur s .illop
  else if !w.v && x.image.getLsbD 63 && x.elemv.getLsbD e then s
  else if !w.v || !w.slotv.getLsbD slot || wordOpc (lookD w.slots slot 0) != 0x94 then trapCur s .illop
  else
    match lookD x.sinks (e * 32 + slot) [] with
    | [] => s
    | t :: r =>
      match sinkReady s c k t with
      | (u, false) => u
      | (u, true) =>
        let s1 := if sink.getLsbD 11 then u else modCtx u c k fun z => { z with sinks := put z.sinks (e * 32 + slot) r }
        let v : Word := (nth t.tok.lanes lane 0).setWidth 64
        retireS (modCur s1 fun q => writeS q b (sinkMeta t.tok)) cr v 1

/-- SNKRD (R262). -/
def execSnkrd (a b c : Reg) (l : BitVec 5) (s : State) : Out :=
  .next (ctxOnly s (snkrdOp b c (srcS s a) l.toNat))

/-- ARGW with its operands read. -/
def argwOp (v d : Word) (c k : Nat) (s : State) : State :=
  if above d 9 || field d 6 3 == 7 then trapCur s .illop
  else
    releasing s c k fun t =>
      retire (modCtx t c k fun x =>
        { x with staged := put x.staged (field d 0 6 * 8 + field d 6 3) (v.setWidth 32) }) 1

/-- ARGW (R263). -/
def execArgw (a b : Reg) (s : State) : Out := .next (ctxOnly s (argwOp (srcS s a) (srcS s b)))

/-- ROUND (R263): it stalls while an earlier one awaits its boundary. The values staged so far become current there; later
ones wait for the round that follows (R166). -/
def execRound (s : State) : Out :=
  .next (ctxOnly s fun c k t =>
    if (ctxOf t c k).roundReq then t else retire (modCtx t c k fun x => { x with roundReq := true, ripe := x.staged, staged := [] }) 1)

/-! ### GATE (R264, R402, R407) -/

/-- The state of a slot whose sources close. -/
def gatedState (x : CtxRegs) : CtxRegs :=
  match x.state with
  | .running => { x with state := .gated }
  | .clamped => { x with prev := if x.prev = .running then .gated else x.prev }
  | _ => x

/-- The sources of a context close: the drain stage begins. -/
def closeSources (s : State) (c k : Nat) : State :=
  modCtx s c k fun x => if x.gates = 0 then { x with gates := 1, gateAt := s.cycle, r := gatedState x.r } else x

/-- A captured token with a hard-port mark returns to the channel towards its port. -/
def returnPort (s : State) (c k : Nat) (p : Nat × Flight) : State :=
  if p.1 = 28 then
    sendPacket s 2 c k (flitsOf (4 * p.2.tok.lanes.length)) (coreNode c) (coreNode (swtCore p.2.entry)) (swtCore p.2.entry)
      (.tok (ctxOf s c k).task p.2) none
  else modCore s c fun y => { y with hport := put y.hport (p.1 * 4 + k) (lookD y.hport (p.1 * 4 + k) [] ++ [p.2]) }

/-- The tokens of the checkpoint buffer return to their marked places (R402). -/
def returnTokens (s : State) (c k : Nat) : State :=
  let x := ctxOf s c k
  let s1 := modCtx s c k fun z => { z with ckpt := [], ckptPort := [] }
  let s2 := modCore s1 c fun y => { y with door := y.door ++ x.ckpt.map fun f => (k, f) }
  x.ckptPort.foldl (fun t p => returnPort t c k p) s2

/-- The sources of a context reopen: captured tokens and aborted instances come again before any source emits. -/
def openSources (s : State) (c k : Nat) : State :=
  let x := ctxOf s c k
  if x.gates = 0 then s
  else
    let s1 := modCtx s c k fun z =>
      { z with gates := 0, r := match z.r.state with
          | .gated => { z.r with state := .running } | .quiescent => { z.r with state := .running }
          | .clamped => { z.r with prev := .running } | _ => z.r }
    markProgress (presentReady (returnTokens s1 c k) c k) c k

/-- The context a GATE names: its own, or on a service core that of a core and slot; none is ILLOP. -/
def gateTarget (a b : Reg) (s : State) : Option (Nat × Nat) :=
  match s.cur with
  | .seq c k => if a = 0 ∧ b = 0 then some (c, k) else none
  | .svc _ =>
    let c := (srcS s a).toNat
    let k := (srcS s b).toNat
    if c < 224 ∧ k < 4 then some (c, k) else none
  | _ => none

/-- Whether a slot holds a context that a GATE may act on. -/
def gateable (x : Ctx) : Bool := x.r.state.resident && x.r.state != .ending

/-- GATE (R264): the sources close. -/
def execGate (a b : Reg) (s : State) : Out :=
  .next (match gateTarget a b s with
    | none => trapCur s .illop
    | some (c, k) => retire (if gateable (ctxOf s c k) then closeSources s c k else s) 1)

/-- GATE.WAIT (R264): the sources close, and the instruction retires once the context is quiescent. -/
def execGateWait (a b : Reg) (s : State) : Out :=
  .next (match gateTarget a b s with
    | none => trapCur s .illop
    | some (c, k) =>
      let x := ctxOf s c k
      if !gateable x || x.r.state = .quiescent then retire s 1
      else closeSources s c k)

/-- GATE.OPEN (R264): the sources reopen. -/
def execGateOpen (a b : Reg) (s : State) : Out :=
  .next (match gateTarget a b s with
    | none => trapCur s .illop
    | some (c, k) => retire (if gateable (ctxOf s c k) then openSources s c k else s) 1)

end Sys2Proof.Machine
end

