-- ==== Sys2Proof/Machine/Buffers.lean ====
section
/-! DEFINITION. Typed-buffer accesses and the handle instructions of the sequencer (R308, R310–R312, R50–R54), and the
events of the descriptor table and the clearing units. -/
namespace Sys2Proof.Machine

/-! ### BLD and BST -/

/-- Sends a remote access to the owning core and waits (R50). -/
def sendBuf (s : State) (c k : Nat) (h : Half) (off n : Nat) (data : Option Word) : State :=
  let r : BufReq := { id := s.nextId, core := c, slot := k, unit := 0, handle := h, off := off, n := n, data := data, answer := none }
  let s1 := { s with bufreqs := s.bufreqs ++ [r], nextId := s.nextId + 1 }
  let o := handleCore c h
  waitIn (sendPacket s1 0 c k (flitsOf n) (coreNode c) (coreNode o) o (.buf r.id) none) (.request r.id)

/-- Performs a checked access: the value read, or poison. -/
def bufPerform (s : State) (p : BufPlace) (n : Nat) (data : Option Word) : State × Except Nat Word :=
  match data with
  | some v => (bufWrite s p (natLE n v.toNat) false, .ok 0)
  | none =>
    match bufRead s p n with
    | (_, some i) => (s, .error i)
    | (bs, none) => (s, .ok (BitVec.ofNat 64 (leNat bs)))

/-- A BLD, or a BST of `data`, of the executing context: it waits on the range scoreboard (R56), for its port (R49) and, to
another core's buffer, for the network port (R50, R104). -/
def bufAccess (s : State) (c k : Nat) (h : Half) (off n : Nat) (data : Option Word) (fin : State → Word → State) : State :=
  let kind := if data.isSome then 1 else 0
  match curWait s with
  | .request id =>
    match s.bufreqs.find? fun r => r.id == id with
    | some r =>
      match r.answer with
      | none => s
      | some (v, cause) =>
        let t := { s with bufreqs := s.bufreqs.filter fun x => x.id != id }
        if cause = .none then fin t v
        else if cause = .poison then poisonCur t (hSpaceCode h) (bufAddr h off)
        else faultBuf t h off kind cause
    | none => waitIn s .none
  | _ =>
    match bufCheck s c k 0 h none off n data.isSome with
    | .error cause => faultBuf s h off kind cause
    | .ok p =>
      if scoreStalls (coreOf s c) (bufRng h off n) data.isSome then waitIn s .none
      else
        match (if p.core = c then (s, true) else admitted s c k n (atSeq k)) with
        | (u, false) => waitIn u .none
        | (u, true) =>
          if p.core ≠ c ∧ u.deferred then sendBuf u c k h off n data
          else
            match grantPort u p n (if p.core = c then portSeq else portRemote c) with
            | none => waitIn s .none
            | some v =>
              match bufPerform v p n data with
              | (t, .ok v) => fin t v
              | (t, .error i) => poisonCur t (hSpaceCode h) (bufAddr h (off + i))

/-- A BLD of the executing sequencer (R308). -/
def bldOp (d : Reg) (h : HReg) (off : Word) (z : Size) (words : Nat) (s : State) : State :=
  ctxOnly s fun c k t =>
    bufAccess t c k (readH (curSeq t) h) off.toNat z.bytes none fun u v => retireS u d v words

/-- A BST of the executing sequencer. -/
def bstOp (d : Reg) (h : HReg) (off : Word) (z : Size) (words : Nat) (s : State) : State :=
  ctxOnly s fun c k t =>
    bufAccess t c k (readH (curSeq t) h) off.toNat z.bytes (some (srcS t d)) fun u _ => retire u words

/-- BLD (R308). -/
def execBld (g : Guard) (d : Reg) (h : HReg) (b : Reg) (z : Size) (s : State) : Out :=
  .next (guarded g s fun t => bldOp d h (srcS t b) z 1 t)

/-- BST (R308). -/
def execBst (g : Guard) (d : Reg) (h : HReg) (b : Reg) (z : Size) (s : State) : Out :=
  .next (guarded g s fun t => bstOp d h (srcS t b) z 1 t)

/-- BLD with an immediate offset (R308). -/
def execBldSx (d : Reg) (h : HReg) (z : Size) (o : BitVec 20) (s : State) : Out := .next (bldOp d h (immZ o) z 2 s)

/-- BST with an immediate offset (R308). -/
def execBstSx (d : Reg) (h : HReg) (z : Size) (o : BitVec 20) (s : State) : Out := .next (bstOp d h (immZ o) z 2 s)

/-! ### HALLOC and HFREE -/

/-- Runs of granules in use in a space: allocated, and, where `clearing`, waiting to be cleared. -/
def usedRuns (x : Core) (space : Nat) (clearing : Bool) : List (Nat × Nat) :=
  ((List.range 64).filterMap fun i =>
    let d := descOf x space i
    if d.st = .free then none else some (d.base, d.size)) ++
  (if clearing then lookD x.clearing space [] else [])

/-- The lowest run of n granules that no run in use overlaps. -/
def lowestRun (used : List (Nat × Nat)) (n : Nat) : Option Nat :=
  (List.range 256).find? fun b => b + n ≤ 256 && used.all fun u => !overlap b n u.1 u.2

/-- The lowest FREE descriptor of a space. -/
def freeDescOf (x : Core) (space : Nat) : Option Nat := (List.range 64).find? fun i => (descOf x space i).st == .free

/-- Takes the lowest FREE descriptor and the run at a granule for a context: the handle. -/
def allocRun (x : Core) (c k space n b : Nat) : Core × Half :=
  match freeDescOf x space with
  | none => (x, nullHandle)
  | some i =>
    let ctx := ctxIn x k
    let d := descOf x space i
    (setDesc x space i { d with st := .held 0, base := b, size := n, key := ctx.r.key, asid := BitVec.ofNat 12 (asidOf ctx) },
     mkHandle space (bayPos c) d.gen.toNat i)

/-- HALLOC's effect (R311). One that waits is answered when a clearing frees its run. -/
def hallocOp (h : HReg) (n : Nat) (space : Nat) (c k : Nat) (s : State) : State :=
  let x := coreOf s c
  let take (v : Half) (t : State) : State := progressed (modCur t fun q => seqRetired (writeH q h v) 1)
  match curWait s with
  | .value v => take (v.setWidth 16) s
  | .halloc _ _ => s
  | _ =>
    if n = 0 ∨ 256 < n ∨ space = 3 then trapCur s .illop
    else if (freeDescOf x space).isNone then take nullHandle s
    else
      match lowestRun (usedRuns x space true) n with
      | some b => let (y, v) := allocRun x c k space n b; take v (setCore s c y)
      | none => if (lowestRun (usedRuns x space false) n).isSome then waitIn s (.halloc space n) else take nullHandle s

/-- A waiting HALLOC of a slot takes the lowest run, once one of its size is free (R311). -/
def answerHalloc (c : Nat) (x : Core) (k : Nat) : Core :=
  match (ctxIn x k).seq.wait with
  | .halloc space n =>
    match lowestRun (usedRuns x space true) n with
    | some b =>
      let (y, v) := allocRun x c k space n b
      let ctx := ctxIn y k
      { y with ctxs := put y.ctxs k { ctx with seq := { ctx.seq with wait := .value (v.setWidth 64) } } }
    | none => x
  | _ => x

/-- HALLOC (R311). -/
def execHalloc (g : Guard) (h : HReg) (a : Reg) (sp : BitVec 2) (s : State) : Out :=
  .next (guarded g s fun t => ctxOnly t (hallocOp h (srcS t a).toNat sp.toNat))

/-- The descriptor a handle names on a core, when the handle is valid there (R52). -/
def descNamed (x : Core) (h : Half) : Option Desc :=
  if hSpace h = 3 then none
  else let d := descOf x (hSpace h) (hIndex h); if d.gen.toNat = hGen h then some d else none

/-- HFREE's effect: the holder must be 0x0 or 0x1 of the issuing context. -/
def hfreeOp (h : Half) (c k : Nat) (s : State) : State :=
  let x := coreOf s c
  let bad := faultBuf s h 0 0 .bufown
  if hOwner h ≠ bayPos c then bad
  else
    match descNamed x h with
    | none => bad
    | some d =>
      if (d.st = .held 0 ∨ d.st = .held 1) ∧ d.key = (ctxIn x k).r.key then
        retire (setCore s c (freeDesc x (hSpace h * 64 + hIndex h))) 1
      else bad

/-- HFREE (R311). -/
def execHfree (g : Guard) (h : HReg) (s : State) : Out :=
  .next (guarded g s fun t => ctxOnly t (hfreeOp (readH (curSeq t) h)))

/-! ### HGIVE and HTAKE -/

/-- The requester code of an acting unit of a context on a core, for a descriptor of core `o` (R48, R311): none when
the context is not the owner's. -/
def requester (s : State) (c k o : Nat) (d : Desc) (u : Nat) : Option Nat :=
  let x := ctxOf s c k
  if o = c then (if d.key = x.r.key then some u else none)
  else if d.asid.toNat = asidOf x then some (8 + bayPos c) else none

/-- A handle instruction on another core's descriptor travels there as a CTL message (R312): a turn that leaves accesses in
flight sends it, and the instruction acts once it has arrived (log 3). -/
def atOwner (s : State) (c k o : Nat) (act : State → State) : State :=
  match curWait s with
  | .request id => if s.packets.any fun p => p.id == id then s else act s
  | _ =>
    if s.deferred && o != c then waitIn (sendPacket s 4 c k 1 (coreNode c) (coreNode o) o .ctl none) (.request s.nextId)
    else act s

/-- Whether R52 refuses a target of HGIVE. -/
def targetRefused (t giver o : Nat) : Bool := (5 ≤ t && t ≤ 7) || t == 15 || t == giver || t == 8 + bayPos o

/-- HGIVE's effect: a release at BAY of the acting unit, then DRAINING; it retires when the descriptor has left DRAINING. -/
def hgiveOp (h : Half) (v : Word) (c k : Nat) (s : State) : State :=
  let t := field v 0 4
  let u := field v 4 3
  let o := handleCore c h
  let giver := if o = c then u else 8 + bayPos c
  let i := hSpace h * 64 + hIndex h
  if above v 7 || 4 < u || targetRefused t giver o then trapCur s .illop
  else if hOwner h = 7 then faultBuf s h 0 0 .bufown
  else if curWait s = .moving then
    (match descNamed (coreOf s o) h with
     | some d => if d.st = .draining giver t then s else retire s 1
     | none => retire s 1)
  else atOwner s c k o fun s =>
    match descNamed (coreOf s o) h with
    | none => faultBuf s h 0 0 .bufown
    | some d =>
      if requester s c k o d u = some giver ∧ d.st = .held giver then
        match releaseNow s (.unit c k 0) .bay, releaseNow s (.unit c k 1) .bay with
        | (s1, true), (s2, ok) =>
          if u = 1 ∧ (!ok ∨ (ctxOf s c k).late ≠ []) then waitIn s2 .none
          else
            waitIn (modCore (if u = 1 then s2 else s1) o fun x =>
              { x with descs := put x.descs i { d with st := .draining giver t } }) .moving
        | (s1, false), _ => waitIn s1 .none
      else faultBuf s h 0 0 .bufown

/-- HGIVE (R311). -/
def execHgive (g : Guard) (h : HReg) (b : Reg) (s : State) : Out :=
  .next (guarded g s fun t => ctxOnly t (hgiveOp (readH (curSeq t) h) (srcS t b)))

/-- HTAKE's effect: take, recall, wait while DRAINING, or 0x06. -/
def htakeOp (d : Reg) (v : Word) (h : HReg) (c k : Nat) (s : State) : State :=
  let hv : Half := v.setWidth 16
  let u := field v 16 3
  let o := handleCore c hv
  let i := hSpace hv * 64 + hIndex hv
  let no := retireS s d 6 1
  if above v 19 || 4 < u then trapCur s .illop
  else if hOwner hv = 7 then no
  else atOwner s c k o fun s =>
    let no := retireS s d 6 1
    match descNamed (coreOf s o) hv with
    | none => no
    | some ds =>
      match requester s c k o ds u with
      | none => no
      | some r =>
        let yes :=
          progressed (modCur (modCore s o fun x => { x with descs := put x.descs i { ds with st := .held r } })
            fun q => seqRetired (writeS (writeH q h hv) d 0) 1)
        match ds.st with
        | .offered giver t => if r = t ∨ r = giver then yes else no
        | .draining _ t => if r = t then waitIn s (curWait s) else no
        | _ => no

/-- HTAKE (R311). -/
def execHtake (g : Guard) (d a : Reg) (h : HReg) (s : State) : Out :=
  .next (guarded g s fun t => ctxOnly t (htakeOp d (srcS t a) h))

/-! ### HQRY -/

/-- Giver and target of a descriptor in DRAINING or OFFERED, the holder, and the state's code. -/
def descView (st : DescState) : Nat × Nat × Nat × Nat :=
  match st with
  | .free => (15, 15, 15, 0)
  | .held h => (15, 15, h, 1)
  | .draining h t => (h, t, 15, 2)
  | .moving h t => (h, t, 15, 2)
  | .offered h t => (h, t, 15, 3)

/-- HQRY's answer (R311). -/
def descWord (d : Desc) : Word :=
  let (gv, tg, ho, st) := descView d.st
  place d.gen.toNat 25 ||| place (if d.st = .free then 0 else d.size) 16 ||| place gv 12 ||| place tg 8 |||
    place ho 4 ||| BitVec.ofNat 64 st

/-- HQRY's effect. -/
def hqryOp (d : Reg) (v : Word) (c k : Nat) (s : State) : State :=
  let hv : Half := v.setWidth 16
  let o := handleCore c hv
  if above v 16 then trapCur s .illop
  else atOwner s c k o fun s =>
    let ones : Word := BitVec.allOnes 64
    let r :=
      if hSpace hv = 3 ∨ hOwner hv = 7 then ones
      else
        let ds := descOf (coreOf s o) (hSpace hv) (hIndex hv)
        if ds.st = .free ∨ (requester s c k o ds 0).isSome ∨ ds.asid.toNat = asidOf (ctxOf s c k) then descWord ds else ones
    retireS s d r 1

/-- HQRY (R311). -/
def execHqry (g : Guard) (d a : Reg) (s : State) : Out :=
  .next (guarded g s fun t => ctxOnly t (hqryOp d (srcS t a)))

/-! ### Events of the descriptor table -/

/-- REMOTE_BUFFER_REQUEST (R50): the owning core's narrow port serves a request. -/
def execRemoteBufferRequest (i : Nat) (s : State) : Out :=
  .next (match s.bufreqs.find? fun r => r.id == i && r.answer.isNone with
    | none => s
    | some r =>
      if s.packets.any fun p => p.load == .buf i && p.node != p.dst then s
      else
      let set (t : State) (v : Word) (cause : Cause) : State :=
        { t with bufreqs := updFirst t.bufreqs (fun x => x.id == i) fun x => { x with answer := some (v, cause) }
                 packets := t.packets.filter fun p => p.load != .buf i }
      match bufCheckOf true s r.core r.slot r.unit r.handle none r.off r.n r.data.isSome with
      | .error cause => set s 0 cause
      | .ok p =>
        match grantPort s p r.n (portRemote r.core) with
        | none => s
        | some u =>
          match bufPerform u p r.n r.data with
          | (t, .ok v) => set t v .none
          | (t, .error _) => set t 0 .poison)

/-- The handle a set of a BLD or BST names: its first operand, a token's lane or the constant. -/
def setHandle (y : Core) (e : Nat) (r : RSet) : Option Half :=
  let w := lookD (elemIn y e).ways r.way Way.reset
  let word := lookD w.slots r.slot 0
  if field word 24 8 = 0xC2 ∨ field word 24 8 = 0xC3 then
    some (if field word 17 3 ≠ 7 ∧ field word 15 2 = 0 then (lookD w.k (field word 17 3) 0).extractLsb' 0 16
          else match r.toks with | t :: _ => (nth t.lanes 0 0).extractLsb' 0 16 | [] => nullHandle)
  else none

/-- Whether a context's region or its commits still have accesses of a handle to perform. -/
def regionHolds (s : State) (c k : Nat) (h : Half) : Bool :=
  let y := coreOf s c
  let x := ctxIn y k
  let bst (e : Effect) : Bool := match e with | .bst _ _ _ hh _ => hh == h | _ => false
  (x.insts.any fun i => i.effects.any bst) || (x.late.any fun e => bst e.eff) ||
    y.hold.any fun q => q.2.1.way == k && setHandle y q.1 q.2.1 == some h

/-- Whether an access through a handle of a core is still to be performed (R52). Those of an engine have been when its
holder field changes (R127): a move of a handle to or from an engine waits for them itself. -/
def handleBusy (s : State) (c : Nat) (h : Half) : Bool :=
  let x := coreOf s c
  (x.copies.any fun y => (cpReads y).key == h.toNat && (cpReads y).space == hSpace h + 1 ||
    (cpWrites y).key == h.toNat && (cpWrites y).space == hSpace h + 1) ||
  (s.bufreqs.any fun r => r.handle == h && handleCore r.core h == c && r.answer.isNone) ||
  ((List.range 7).any fun p => (List.range 4).any fun k => regionHolds s (bayCore (coreBay c) p) k h) ||
  (x.ports.any fun p => match p.2 with | m :: _ => m.space != 0 && m.handle == h && m.done != 0 | [] => false)

/-- HANDLE_DRAIN_COMPLETE (R52): DRAINING becomes OFFERED once the giver's accesses are performed. -/
def execHandleDrainComplete (c p i : Nat) (s : State) : Out :=
  .next (
    let d := descOf (coreOf s c) p i
    match d.st with
    | .draining h t =>
      if handleBusy s c (mkHandle p (bayPos c) d.gen.toNat i) then s
      else modCore s c fun x => setDesc x p i { d with st := .offered h t }
    | _ => s)

/-- Zeroes a run of granules and clears its poison (R311, R87). -/
def clearRun (x : Core) (space b n : Nat) : Core :=
  let lo := b * granBytes space
  let hi := lo + n * granBytes space
  let out (q : Nat) : Bool := !(space * 2 ^ 20 + lo / 64 ≤ q && q < space * 2 ^ 20 + hi / 64)
  { x with tbuf := put x.tbuf space (without (lookD x.tbuf space []) lo hi),
           tpoison := x.tpoison.filter out, tpart := x.tpart.filter fun p => out p.1 }

/-- GRANULE_CLEAR_COMPLETE (R311): the oldest freed run of a space is clear and its granules are free. -/
def execGranuleClearComplete (c p : Nat) (s : State) : Out :=
  .next (
    let x := coreOf s c
    match lookD x.clearing p [] with
    | [] => s
    | (b, n) :: r =>
      setCore s c ((List.range 4).foldl (answerHalloc c) { clearRun x p b n with clearing := put x.clearing p r }))

end Sys2Proof.Machine
end

