-- ==== Sys2Proof/Machine/Matrix.lean ====
section
/-! DEFINITION. The matrix engine's instructions (R335–R358): the tensor table, tags and their moves, bindings, gather
and epilogue settings, the softmax pair, status. -/
namespace Sys2Proof.Machine

/-! ### Tensors (R335, R336) -/

def tnHandle (t : Tensor) : Half := t.w0.extractLsb' 48 16
def tnFmt (t : Tensor) : Nat := field t.w0 44 4
def tnSticky (t : Tensor) : Bool := t.w0.getLsbD 43
/-- ROLE: true for a destination. -/
def tnDest (t : Tensor) : Bool := t.w0.getLsbD 42
def tnOff (t : Tensor) : Nat := field t.w0 0 20
def tnRows (t : Tensor) : Nat := field t.w1 48 16
def tnCols (t : Tensor) : Nat := field t.w1 32 16
def tnStride (t : Tensor) : Nat := field t.w1 0 32
def tnScale (t : Tensor) : Nat := field t.w2 32 32
/-- The space of the tensor's buffer. -/
def tnSpace (t : Tensor) : Nat := hSpace (tnHandle t)

/-- The tensor of a context's entry, if defined. -/
def tensorOf (x : Ctx) (n : Nat) : Option Tensor := look x.tensors n

/-- Whether a format is one of the KB formats, and its magnitude bits. -/
def fmtKb (f : Nat) : Bool := 2 ≤ f && f ≤ 4
def kbBits (f : Nat) : Nat := if f = 2 then 7 else if f = 3 then 4 else 2
/-- Bytes of a KB block. -/
def kbBytes (f : Nat) : Nat := if f = 2 then 18 else if f = 3 then 12 else 8
/-- Bytes of a row of COLS elements. -/
def fmtRow (f cols : Nat) : Nat :=
  if fmtKb f then cols / 16 * kbBytes f else if f ≤ 1 then cols else if f ≤ 6 then 2 * cols else 4 * cols
def tnRow (t : Tensor) : Nat := fmtRow (tnFmt t) (tnCols t)
/-- The class of an operand format (R339); 4 is no operand. -/
def fmtClass (f : Nat) : Nat := if f ≤ 2 then 0 else if f = 3 then 1 else if f = 4 then 2 else if f ≤ 6 then 3 else 4

/-- Whether words break a limit or a reserved field of R335. -/
def tensorBad (w0 w1 w2 w3 : Word) : Bool :=
  let t : Tensor := { w0 := w0, w1 := w1, w2 := w2, full := false, giver := 0 }
  let sc := fp32.read (tnScale t)
  8 < tnFmt t || field w0 20 22 != 0 || field w2 0 32 != 0 || w3 != 0 || tnOff t % 64 != 0 ||
    tnRows t == 0 || 4096 < tnRows t || tnCols t == 0 || 4096 < tnCols t || (fmtKb (tnFmt t) && tnCols t % 16 != 0) ||
    tnStride t % 64 != 0 || (1 < tnRows t && tnStride t < tnRow t) || (tnSticky t && tnDest t) ||
    (match sc with | .fin _ m _ => m == 0 | _ => true)

/-- The descriptor of a tensor's handle on its core, while the handle is valid. -/
def tensorDesc (s : State) (c : Nat) (t : Tensor) : Option Desc :=
  if hOwner (tnHandle t) = bayPos c then descNamed (coreOf s c) (tnHandle t) else none

/-- Whether the engine holds a tensor's handle. -/
def withEngine (s : State) (c : Nat) (t : Tensor) : Bool :=
  match tensorDesc s c t with | some d => d.st == .held 2 | none => false
/-- Whether the engine holds it, or it is on its way. -/
def engineSide (s : State) (c : Nat) (t : Tensor) : Bool :=
  match tensorDesc s c t with
  | some d => (match d.st with | .held 2 => true | .moving 2 _ => true | .moving _ 2 => true | _ => false)
  | none => false

/-- Sends a handle of a core on a move (R337, R363). -/
def startMove (s : State) (c : Nat) (h : Half) (from_ to_ : Nat) : State :=
  modCore s c fun x =>
    let i := hSpace h * 64 + hIndex h
    let d := lookD x.descs i Desc.reset
    { x with descs := put x.descs i { d with st := .moving from_ to_ } }

/-! ### Bindings (R339) -/

/-- Whether a binding names a tensor: its operands, its destination, an index tensor it gathers by. -/
def bindNames (b : Binding) (n : Nat) : Bool :=
  b.dx == n || b.ax == n || b.bx == n || b.gather == (1, n) || b.gatherNext == (1, n)
/-- Whether a live binding of the context names a tensor. -/
def boundTensor (x : Ctx) (n : Nat) : Bool := x.binds.any fun p => bindNames p.2 n

/-- Changes a binding. -/
def modBind (s : State) (c k b : Nat) (f : Binding → Binding) : State :=
  modCtx s c k fun x => match look x.binds b with | some z => { x with binds := put x.binds b (f z) } | none => x

/-- M, K and N of a binding. -/
def bindM (x : Ctx) (b : Binding) : Nat := match tensorOf x b.dx with | some t => tnRows t | none => 0
def bindK (x : Ctx) (b : Binding) : Nat := match tensorOf x b.ax with | some t => tnCols t | none => 0
def bindN (x : Ctx) (b : Binding) : Nat := match tensorOf x b.bx with | some t => tnCols t | none => 0

/-- A destination of R350: in space A, in a format that is no FP32. -/
def smxDest (t : Tensor) : Bool := tnSpace t == 1 && (tnFmt t == 0 || tnFmt t == 5 || tnFmt t == 6)

/-! ### TDEF, TQRY, TTAG -/

/-- TDEF with its descriptor read: HANDLE 0xFFFF makes the entry undefined. -/
def defineTensor (n c k : Nat) (s : State) (ws : List Word) : State :=
  let x := ctxOf s c k
  let h : Half := (dw ws 0).extractLsb' 48 16
  let held := match tensorOf x n with | some t => engineSide s c t | none => false
  if boundTensor x n || held then trapCur s .illop
  else if h = 0xFFFF then retire (modCtx s c k fun z => { z with tensors := del z.tensors n }) 1
  else if tensorBad (dw ws 0) (dw ws 1) (dw ws 2) (dw ws 3) ||
      (x.tensors.any fun p => p.1 != n && tnHandle p.2 == h) then trapCur s .illop
  else
    let t : Tensor := { w0 := dw ws 0, w1 := dw ws 1, w2 := dw ws 2, full := (dw ws 0).getLsbD 42, giver := 0 }
    retire (modCtx s c k fun z => { z with tensors := put z.tensors n t }) 1

/-- TDEF with its operands read. -/
def tdefOp (n va : Word) (c k : Nat) (s : State) : State :=
  if va.toNat % 32 = 0 ∧ above n 8 then trapCur s .illop
  else readRecord s c k va 32 32 fun t ws => defineTensor n.toNat c k t ws

/-- TDEF (R356). -/
def execTdef (a b : Reg) (s : State) : Out := .next (ctxOnly s (tdefOp (srcS s a) (srcS s b)))

/-- TQRY's word. -/
def tensorWord (x : Ctx) (n : Nat) : Word :=
  match tensorOf x n with
  | none => 0
  | some t =>
    let bound := ((List.range 4).filter fun b => match look x.binds b with | some z => bindNames z n | none => false)
    (t.w0 &&& 0xFFFFFC0000000000) ||| place 1 41 ||| place (if t.full then 1 else 0) 40 |||
      bound.foldl (fun v b => v ||| place 1 (36 + b)) 0 ||| place (tnRows t) 16 ||| BitVec.ofNat 64 (tnCols t)

/-- TQRY with its operand read. -/
def tqryOp (d : Reg) (n : Word) (c k : Nat) (s : State) : State :=
  if above n 8 then trapCur s .illop else retireS s d (tensorWord (ctxOf s c k) n.toNat) 1

/-- TQRY (R356). -/
def execTqry (a c : Reg) (s : State) : Out := .next (ctxOnly s (tqryOp c (srcS s a)))

/-- TTAG.FULL and TTAG.EMPTY with their operand read: the handle moves to the engine, and the tag changes with it
(R336–R338). -/
def ttagMove (full : Bool) (n : Word) (c k : Nat) (s : State) : State :=
  match tensorOf (ctxOf s c k) n.toNat with
  | none => trapCur s .illop
  | some t =>
    if above n 8 then trapCur s .illop
    else if curWait s = .moving then
      (match tensorDesc s c t with
       | some d => (match d.st with | .moving _ _ => s | _ => retire s 1)
       | none => retire s 1)
    else if tnDest t == full || t.full == full then trapCur s .illop
    else
      match tensorDesc s c t with
      | some d =>
        match d.st with
        | .held h =>
          if h ≤ 1 ∧ d.key = (ctxOf s c k).r.key then
            releasing s c k fun u => waitIn (startMove u c (tnHandle t) h 2) .moving
          else faultBuf s (tnHandle t) 0 0 .bufown
        | _ => faultBuf s (tnHandle t) 0 0 .bufown
      | none => faultBuf s (tnHandle t) 0 0 .bufown

/-- TTAG.WAITFULL and TTAG.WAITEMPTY with their operand read. -/
def ttagWait (full : Bool) (n : Word) (c k : Nat) (s : State) : State :=
  match tensorOf (ctxOf s c k) n.toNat with
  | none => trapCur s .illop
  | some t => if above n 8 then trapCur s .illop else if t.full == full then retire s 1 else waitIn s .none

/-- TTAG.FULL (R338). -/
def execTtagFull (a : Reg) (s : State) : Out := .next (ctxOnly s (ttagMove true (srcS s a)))

/-- TTAG.EMPTY (R338). -/
def execTtagEmpty (a : Reg) (s : State) : Out := .next (ctxOnly s (ttagMove false (srcS s a)))

/-- TTAG.WAITFULL (R338). -/
def execTtagWaitfull (a : Reg) (s : State) : Out := .next (ctxOnly s (ttagWait true (srcS s a)))

/-- TTAG.WAITEMPTY (R338). -/
def execTtagWaitempty (a : Reg) (s : State) : Out := .next (ctxOnly s (ttagWait false (srcS s a)))

/-! ### GATH -/

/-- Whether a tensor may be the index tensor of a binding (R344). -/
def indexTensor (x : Ctx) (b : Binding) (n : Nat) : Bool :=
  match tensorOf x n with
  | some t => tnFmt t == 8 && !tnDest t && tnSpace t == 1 && tnRows t == 1 && tnCols t == bindM x b
  | none => false

/-- GATH with its operands read. -/
def gathOp (v w : Word) (mode c k : Nat) (s : State) : State :=
  let x := ctxOf s c k
  match look x.binds v.toNat with
  | none => trapCur s .illop
  | some b =>
    if above v 2 || above w 8 || mode == 3 || (mode == 1 && !indexTensor x b w.toNat) ||
        (mode == 2 && !x.hportv.getLsbD 17) then trapCur s .illop
    else retire (modBind s c k v.toNat fun z => { z with gatherNext := (mode, if mode = 1 then w.toNat else 0) }) 1

/-- GATH (R344). -/
def execGath (a b : Reg) (m : BitVec 2) (s : State) : Out :=
  .next (ctxOnly s (gathOp (srcS s a) (srcS s b) m.toNat))

/-! ### MMBIND -/

/-- Whether a tensor is the destination of R350 of a live binding, which the value binding of its pair reads as its AX
(R347, log 38). -/
def scoreTensor (x : Ctx) (n : Nat) (t : Tensor) : Bool := tnDest t && smxDest t && x.binds.any fun p => p.2.dx == n

/-- The cases in which R339 and R403 refuse a binding. A fresh binding gathers nothing, so AX must have M rows. -/
def bindRefused (s : State) (c k : Nat) (v w u : Word) : Bool :=
  let x := ctxOf s c k
  let nx := field w 0 8
  let na := field w 8 8
  let nb := field w 16 8
  let p := 16 * 2 ^ field u 0 2
  above v 2 || above w 24 || (u &&& 0xFFFFFFFFFFFF00FC) != 0 || (look x.binds v.toNat).isSome ||
    (match tensorOf x nx, tensorOf x na, tensorOf x nb with
     | some d, some a, some b =>
       let kk := tnCols a
       let n := tnCols b
       let taken (t : Tensor) (i : Nat) : Bool := !tnSticky t && boundTensor x i
       (tnDest a && !scoreTensor x na a) || tnDest b || !tnDest d || tnSpace a != 1 || tnSpace b != 0 ||
         !((tnFmt d == 7 && tnSpace d == 2) || smxDest d) ||
         fmtClass (tnFmt a) == 4 || fmtClass (tnFmt a) != fmtClass (tnFmt b) ||
         tnRows b != kk || kk % p != 0 || 512 < kk || 256 < tnRow a || tnCols d != n || 128 < n || 128 < tnRows d ||
         tnRows a < tnRows d || (taken a na && !scoreTensor x na a) || taken b nb || boundTensor x nx
     | _, _, _ => true) ||
    !budgetOk s c k 65536

/-- The setting of a binding without MMEPI. -/
def epiReset : Epi := { mode := 0, colour := 0, iter := 0, dest := { elem := 0, slot := 0, opnd := 0 }, lreg := none }

/-- A fresh binding. -/
def newBinding (w u : Word) : Binding :=
  { dx := field w 0 8, ax := field w 8 8, bx := field w 16 8, p := 16 * 2 ^ field u 0 2, nch := field u 8 8 + 1,
    state := .waiting, cause := .none, tensor := 0, xb := 0, chains := 0, firing := 0, kgroup := 0, gather := (0, 0),
    gatherNext := (0, 0), index := none, inSet := [], rows := none, epi := epiReset, epiNext := none, plane := none,
    out := false, rowXb := [], drained := 0, pair := none, fin := false, ending := false }

/-- MMBIND with its operands read: a hand-over to the engine, after the sequencer's earlier accesses (R128). -/
def mmbindOp (v w u : Word) (c k : Nat) (s : State) : State :=
  if bindRefused s c k v w u then trapCur s .illop
  else releasing s c k fun t => retire (modCtx t c k fun x => { x with binds := put x.binds v.toNat (newBinding w u) }) 1

/-- MMBIND (R339). -/
def execMmbind (a b c : Reg) (s : State) : Out := .next (ctxOnly s (mmbindOp (srcS s a) (srcS s b) (srcS s c)))

/-! ### MMUNB -/

/-- Whether a chain's firing or drain is under way. -/
def bindBusy (b : Binding) : Bool := b.state == .firing || b.state == .draining

/-- The pair of a binding ends without division: the value side's plane is discarded (R349). -/
def dissolvePair (s : State) (c k n : Nat) : State :=
  match look (ctxOf s c k).binds n with
  | some b =>
    match b.pair with
    | some (m, score, _) =>
      let v := if score then m else n
      let clear (z : Binding) : Binding := { z with pair := none, fin := false }
      let s1 := modBind (modBind s c k n clear) c k m clear
      let s2 := modBind s1 c k v fun z => { z with plane := none, firing := 0 }
      modCore s2 c fun y => { y with smPair := none }
    | none => s
  | none => s

/-- The tensors a binding names return to their givers where no other binding names them (R355). -/
def returnTensors (s : State) (c k : Nat) (b : Binding) : State :=
  let names := [b.dx, b.ax, b.bx] ++ (if b.gather.1 = 1 then [b.gather.2] else []) ++
    (if b.gatherNext.1 = 1 then [b.gatherNext.2] else [])
  names.foldl (fun t n =>
    let x := ctxOf t c k
    match tensorOf x n with
    | some z => if !boundTensor x n && withEngine t c z then startMove t c (tnHandle z) 2 z.giver else t
    | none => t) s

/-- Whether a handle of the context is on its way back from the engine. -/
def returning (s : State) (c k : Nat) : Bool :=
  (ctxOf s c k).tensors.any fun p =>
    match tensorDesc s c p.2 with | some d => (match d.st with | .moving 2 _ => true | _ => false) | none => false

/-- MMUNB with its operand read: it waits for the firing and the drain in progress, abandons the rest of the chain,
and retires when the handles have returned. -/
def mmunbOp (v : Word) (c k : Nat) (s : State) : State :=
  if above v 2 then trapCur s .illop
  else if curWait s = .moving then (if returning s c k then s else retire s 1)
  else
    match look (ctxOf s c k).binds v.toNat with
    | none => trapCur s .illop
    | some b =>
      if bindBusy b then modBind s c k v.toNat fun z => { z with ending := true }
      else
        releasing s c k fun t =>
          let t1 := dissolvePair t c k v.toNat
          let t2 := modCtx t1 c k fun x => { x with binds := del x.binds v.toNat }
          let t3 := returnTensors t2 c k b
          if returning t3 c k then waitIn t3 .moving else retire t3 1

/-- MMUNB (R355). -/
def execMmunb (a : Reg) (s : State) : Out := .next (ctxOnly s (mmunbOp (srcS s a)))

/-! ### MMEPI -/

/-- MMEPI with its operands read (R345, R346). -/
def mmepiOp (v w u : Word) (amax : Bool) (mode c k : Nat) (s : State) : State :=
  let x := ctxOf s c k
  let col : Byte := w.extractLsb' 0 8
  match look x.binds v.toNat with
  | none => trapCur s .illop
  | some b =>
    if above v 2 || above w 24 || above u 19 || (!amax && field u 13 6 != 0) || mode == 3 ||
        !colourActive x col || colourWidth x col != 32 || !x.hportv.getLsbD 16 || b.pair.isSome then trapCur s .illop
    else
      let e : Epi := { mode := mode, colour := col, iter := w.extractLsb' 8 16,
                       dest := { elem := field u 0 6, slot := field u 6 5, opnd := field u 11 2 },
                       lreg := if amax then some (field u 13 6) else none }
      retire (modBind s c k v.toNat fun z => { z with epiNext := some e }) 1

/-- MMEPI (R345). -/
def execMmepi (a b c : Reg) (x : Bool) (m : BitVec 2) (s : State) : Out :=
  .next (ctxOnly s (mmepiOp (srcS s a) (srcS s b) (srcS s c) x m.toNat))

/-! ### MMSMX -/

/-- The setting a binding's next chain takes. -/
def epiOf (b : Binding) : Epi := match b.epiNext with | some e => e | none => b.epi

/-- Planes that resident contexts of a core hold (R340). -/
def planesHeld (y : Core) : Nat :=
  y.ctxs.foldl (fun n p => if p.2.r.state.resident then n + (p.2.binds.filter fun b => b.2.plane.isSome && !b.2.out).length else n) 0

/-- Whether START accepts a pair (R347). -/
def pairAccepts (x : Ctx) (n m : Nat) (tau : W32) : Bool :=
  match look x.binds n, look x.binds m with
  | some a, some b =>
    n != m && (epiOf a).mode == 0 && (epiOf b).mode == 0 && (epiOf a).lreg.isNone && (epiOf b).lreg.isNone && b.ax == a.dx &&
      (match tensorOf x a.dx with
       | some t => smxDest t && tnRows t == bindM x a && tnCols t == bindN x a
       | none => false) &&
      bindM x b == bindM x a && bindK x b == bindN x a &&
      (match fp32.read tau.toNat with | .fin _ _ _ => true | _ => false)
  | _, _ => false

/-- A plane of zeros. -/
def zeroPlane (m n : Nat) : List (List W32) := List.replicate m (List.replicate n 0)

/-- MMSMX START with its operands read: it stalls while another pair is active, and while no plane is free. -/
def smxStart (v w u : Word) (c k : Nat) (s : State) : State :=
  let x := ctxOf s c k
  let tau : W32 := u.setWidth 32
  if above v 2 || above w 2 || above u 32 || !pairAccepts x v.toNat w.toNat tau then trapCur s .illop
  else
    let held := match look x.binds w.toNat with | some b => b.plane.isSome | none => false
    if (coreOf s c).smPair.isSome || (!held && 2 ≤ planesHeld (coreOf s c)) then s
    else
      let s1 := modBind s c k v.toNat fun z => { z with pair := some (w.toNat, true, tau) }
      let s2 := modBind s1 c k w.toNat fun z =>
        { z with pair := some (v.toNat, false, tau), plane := some (zeroPlane (bindM x z) (bindN x z)), rowXb := [] }
      retire (modCore s2 c fun y =>
        { y with smPair := some x.r.key, smKey := some x.r.key,
                 m := (List.range 128).map fun i => (i, 0xFF800000), l := [] }) 1

/-- MMSMX START (R347). -/
def execMmsmxStart (a b c : Reg) (s : State) : Out := .next (ctxOnly s (smxStart (srcS s a) (srcS s b) (srcS s c)))

/-- A plane's rows divided by the side sums, and the bits raised (R349). -/
def dividePlane (l : NMap W32) (p : List (List W32)) : List (List W32) × Xb :=
  let rows := (List.range p.length).map fun i =>
    (nth p i []).map fun x =>
      let (q, b) := divNum (fp32.read x.toNat) (fp32.read (lookD l i 0).toNat)
      let (r, b2) := roundTo fp32 .rne q
      (BitVec.ofNat 32 r, b ||| b2)
  (rows.map fun r => r.map (·.1), rows.foldl (fun z r => r.foldl (fun y e => y ||| e.2) z) 0)

/-- Whether a binding has no firing and no chain in progress. -/
def chainIdle (b : Binding) : Bool := !bindBusy b && b.firing == 0

/-- MMSMX FIN with its operands read: waits, divides, drains, and retires when the pair has ended. -/
def smxFin (v w u : Word) (c k : Nat) (s : State) : State :=
  let x := ctxOf s c k
  match look x.binds v.toNat, look x.binds w.toNat with
  | some a, some b =>
    if curWait s = .moving ∧ a.pair.isNone then retire s 1
    else if above v 2 || above w 2 || u != 0 || a.pair.map (·.1) != some w.toNat || a.pair.map (·.2.1) != some true then
      trapCur s .illop
    else if b.fin then s
    else
      let empty := match tensorOf x a.dx with | some t => !t.full | none => true
      if !chainIdle a || a.plane.isSome || !chainIdle b || !empty then s
      else
        let (p, xb) := dividePlane (coreOf s c).l (match b.plane with | some q => q | none => [])
        waitIn (modBind s c k w.toNat fun z =>
          { z with plane := some p, xb := z.xb ||| xb, state := .draining, drained := 0, fin := true }) .moving
  | _, _ => trapCur s .illop

/-- MMSMX FIN (R349). -/
def execMmsmxFin (a b c : Reg) (s : State) : Out := .next (ctxOnly s (smxFin (srcS s a) (srcS s b) (srcS s c)))

/-! ### MMSTAT -/

/-- Whether the engine takes new work for a context: neither gated nor clamped nor at a trap (R340, R353). -/
def matrixMoves (s : State) (c k : Nat) : Bool := engineMoves s c k && (ctxOf s c k).gates == 0

/-- STATE of a binding (R357). -/
def bindCode (s : State) (c k : Nat) (b : Binding) : Nat :=
  if b.state = .stopped then 4 else if !matrixMoves s c k then 5
  else match b.state with | .waiting => 1 | .firing => 2 | .draining => 3 | .stopped => 4

/-- The status word of a binding. -/
def bindWord (s : State) (c k n : Nat) : Word :=
  match look (ctxOf s c k).binds n with
  | none => 0
  | some b =>
    place b.cause.code 56 ||| place b.tensor 48 ||| place b.xb.toNat 42 ||| place (b.chains % 65536) 24 |||
      place (b.firing % 256) 16 ||| place (b.kgroup % 32) 11 ||| place (if b.plane.isSome then 1 else 0) 10 |||
      BitVec.ofNat 64 (bindCode s c k b)

/-- MMSTAT with its operand read: a binding's status, or a side register of the context's own last pair. -/
def mmstatOp (d : Reg) (v : Word) (sel c k : Nat) (s : State) : State :=
  let y := coreOf s c
  if sel = 3 ∨ above v (if sel = 0 then 2 else 7) then trapCur s .illop
  else if sel = 0 then retireS s d (bindWord s c k v.toNat) 1
  else
    let r : W32 := if y.smKey = some (ctxOf s c k).r.key then lookD (if sel = 1 then y.m else y.l) v.toNat 0 else 0
    retireS s d (r.setWidth 64) 1

/-- MMSTAT (R357). -/
def execMmstat (a c : Reg) (x : BitVec 2) (s : State) : Out := .next (ctxOnly s (mmstatOp c (srcS s a) x.toNat))

end Sys2Proof.Machine
end

