-- ==== Sys2Proof/Machine/Marquetry.lean ====
section
/-! DEFINITION. The marquetry fabric's instructions (R359–R379): ownership, the checks at issue, the command queue and
its handles, status. -/
namespace Sys2Proof.Machine

/-! ### Ownership and the queue (R362, R363) -/

def modMq (s : State) (c : Nat) (f : Mq → Mq) : State := modCore s c fun y => { y with mq := f y.mq }

/-- Whether a context owns the fabric. -/
def ownsMq (s : State) (c k : Nat) : Bool := (coreOf s c).mq.owner == some (ctxOf s c k).r.key

/-- The handle a command names. -/
def mqHandle (q : MqCmd) : Option Half :=
  match q with
  | .tables h _ _ => some h
  | .wiring h _ _ => some h
  | .xpose h _ _ _ => some h
  | .xposb h _ _ => some h
  | .popc a _ _ _ d _ => if d = 1 then some (a.extractLsb' 32 16) else none
  | _ => none

/-- Whether an address operand has bits outside its handle and offset. -/
def mqAddrBad (a : Word) : Bool := field a 48 16 != 0 || field a 20 12 != 0
def mqAddrHandle (a : Word) : Half := a.extractLsb' 32 16
def mqAddrOff (a : Word) : Nat := field a 0 20

/-- The checks at issue on a command's buffer (R28, R363, R366): the space, the handle, its holder 0x0 or the fabric
itself, the extent, the alignment, in this order. -/
def mqCheck (s : State) (c k : Nat) (h : Half) (space off n align : Nat) : Option Cause :=
  if hSpace h ≠ space ∨ hOwner h = 7 then some .bufown
  else if handleCore c h ≠ c then some .perm
  else
    match descNamed (coreOf s c) h with
    | none => some .bufown
    | some d =>
      let mine := d.key == (ctxOf s c k).r.key && (d.st == .held 0 || d.st == .held 3 || d.st == .moving 0 3)
      if !mine then some .bufown
      else if d.size * granBytes space < off + n then some .perm
      else if off % align ≠ 0 then some .align
      else none

/-- Puts a command into the queue after the sequencer's earlier accesses (R128), and retires its instruction. -/
def enqueueMq (s : State) (c : Nat) (q : MqCmd) : State :=
  releasing s c (curCK s).2 fun t => retire (modMq t c fun m => { m with queue := m.queue ++ [q] }) 1

/-- Issues a command: a ninth stalls; a handle that is not with the fabric moves there first. -/
def issueMq (s : State) (c : Nat) (q : MqCmd) : State :=
  if 8 ≤ (coreOf s c).mq.queue.length then s
  else
    match mqHandle q with
    | none => enqueueMq s c q
    | some h =>
      match descNamed (coreOf s c) h with
      | some d =>
        if d.st = .held 3 then enqueueMq s c q
        else if d.st = .held 0 then waitIn (startMove s c h 0 3) .moving
        else s
      | none => s

/-- A fabric instruction of the owner while the fabric is not stopped; ILLOP otherwise (R362, R375). -/
def ownerOnly (s : State) (c k : Nat) (body : State → State) : State :=
  if ownsMq s c k ∧ (coreOf s c).mq.cause = .none then body s else trapCur s .illop

/-- A command that names a buffer: the handle's checks, then the issue. -/
def issueBuf (s : State) (c k : Nat) (q : MqCmd) (h : Half) (space off n align : Nat) (write : Bool) : State :=
  match mqCheck s c k h space off n align with
  | some cause => faultBuf s h off (if write then 1 else 0) cause
  | none => issueMq s c q

/-! ### QTLD, QWLD, QCTX, QRUN, QBRK -/

/-- QTLD and QWLD with their operands read. -/
def mqLoad (a b : Word) (wires : Bool) (c k : Nat) (s : State) : State :=
  ownerOnly s c k fun t =>
    if mqAddrBad a || above b 2 then trapCur t .illop
    else
      let h := mqAddrHandle a
      let o := mqAddrOff a
      issueBuf t c k (if wires then .wiring h o b.toNat else .tables h o b.toNat) h 0 o (if wires then 16384 else 8192) 512 false

/-- QTLD (R366). -/
def execQtld (a b : Reg) (s : State) : Out := .next (ctxOnly s (mqLoad (srcS s a) (srcS s b) false))

/-- QWLD (R366). -/
def execQwld (a b : Reg) (s : State) : Out := .next (ctxOnly s (mqLoad (srcS s a) (srcS s b) true))

/-- The fabric as a claim leaves it (R362). -/
def claimedMq (m : Mq) (key : Half) (k : Nat) : Mq :=
  { m with input := [], planes := [], poison := 0, vt := 0, vw := 0, owner := some key, ownerSlot := k, queue := [],
           busy := false, held := false, xb := 0, cause := .none, brk := [] }

/-- QCTX.CLAIM: it waits while another context owns the fabric. -/
def claimOp (c k : Nat) (s : State) : State :=
  if ownsMq s c k then trapCur s .illop
  else if (coreOf s c).mq.owner.isSome then s
  else retire (modMq s c fun m => claimedMq m (ctxOf s c k).r.key k) 1

/-- QCTX.CLAIM (R367). -/
def execQctxClaim (s : State) : Out := .next (ctxOnly s claimOp)

/-- QCTX.RELEASE (R367). -/
def execQctxRelease (s : State) : Out :=
  .next (ctxOnly s fun c k t => ownerOnly t c k fun u => issueMq u c .release)

/-- QCTX.CLEAR (R367): a stopped fabric accepts it. -/
def execQctxClear (s : State) : Out :=
  .next (ctxOnly s fun c k t => if ownsMq t c k then issueMq t c .clear else trapCur t .illop)

/-- QRUN with its operand read. -/
def qrunOp (a : Word) (c k : Nat) (s : State) : State :=
  ownerOnly s c k fun t =>
    let first := field a 0 2
    let last := field a 2 2
    if above a 4 || last < first then trapCur t .illop else issueMq t c (.run first last first)

/-- QRUN (R368). -/
def execQrun (a : Reg) (s : State) : Out := .next (ctxOnly s (qrunOp (srcS s a)))

/-- QBRK with its operand read. -/
def qbrkOp (a : Word) (cond c k : Nat) (s : State) : State :=
  ownerOnly s c k fun t =>
    if cond = 3 ∨ above a 18 = true ∨ field a 2 6 ≠ 0 then trapCur t .illop
    else issueMq t c (.brk (field a 0 2) (field a 8 10) cond)

/-- QBRK (R373). -/
def execQbrk (a : Reg) (x : BitVec 2) (s : State) : Out := .next (ctxOnly s (qbrkOp (srcS s a) x.toNat))

/-! ### XPOSE, XPOSB -/

def xpP (b : Word) : Nat := field b 0 10
def xpF (b : Word) : Nat := field b 10 11
def xpSrc (b : Word) : Nat := field b 21 3
def xpQ (b : Word) : Bool := b.getLsbD 24
def xpRnd (b : Word) : Nat := field b 25 3
def xpSh (b : Word) : Int := (b.extractLsb' 30 6).toInt

/-- Bytes of a lane's elements for a source. -/
def xpLane (src f : Nat) : Nat :=
  if src ≤ 3 then f else if src = 4 then f / 16 * 18 else if src = 5 then f / 16 * 12 else f / 16 * 8
/-- The stride in force. -/
def xpStride (b : Word) (rs : Nat) : Nat := if rs = 0 then xpLane (xpSrc b) (xpF b) else rs

/-- The limits of R369. -/
def xposeBad (off : Nat) (b rs : Word) : Bool :=
  let f := xpF b
  let src := xpSrc b
  let rnd := xpRnd b
  above b 36 || field b 28 2 != 0 || above rs 20 || rnd == 4 || rnd == 6 || rnd == 7 || (!xpQ b && rnd != 0) ||
    (if src = 7 then
       f == 0 || 1024 < f || 1024 < xpP b + f || off % 32 != 0 || rs != 0 || xpQ b
     else
       f == 0 || 128 < f || 1024 < xpP b + 8 * f || (4 ≤ src && (f % 16 != 0 || !xpQ b)) ||
         (rs != 0 && rs.toNat < xpLane src f))

/-- Bytes from the offset to the last byte read. -/
def xpExtent (b : Word) (rs : Nat) : Nat :=
  if xpSrc b = 7 then 32 * xpF b else 255 * xpStride b rs + xpLane (xpSrc b) (xpF b)

/-- XPOSE with its operands read. -/
def xposeOp (a b rs : Word) (c k : Nat) (s : State) : State :=
  ownerOnly s c k fun t =>
    let h := mqAddrHandle a
    let o := mqAddrOff a
    if mqAddrBad a || xposeBad o b rs then trapCur t .illop
    else issueBuf t c k (.xpose h o b rs.toNat) h 1 o (xpExtent b rs.toNat) 1 false

/-- XPOSE (R369). -/
def execXpose (a b c : Reg) (s : State) : Out := .next (ctxOnly s (xposeOp (srcS s a) (srcS s b) (srcS s c)))

/-- The limits of R370. -/
def xposbBad (b : Word) : Bool :=
  let n := field b 16 8
  above b 24 || field b 13 3 != 0 || 5 ≤ field b 10 3 || n == 0 || 128 < n || 1024 < field b 0 10 + 8 * n

/-- XPOSB with its operands read. -/
def xposbOp (a b : Word) (c k : Nat) (s : State) : State :=
  ownerOnly s c k fun t =>
    let h := mqAddrHandle a
    let o := mqAddrOff a
    if mqAddrBad a || xposbBad b then trapCur t .illop
    else issueBuf t c k (.xposb h o b) h 1 o (256 * field b 16 8) 1 true

/-- XPOSB (R370). -/
def execXposb (a b : Reg) (s : State) : Out := .next (ctxOnly s (xposbOp (srcS s a) (srcS s b)))

/-! ### QPOPC -/

def pcN (b : Word) : Nat := field b 16 5 + 1
def pcG (b : Word) : Nat := field b 24 5 + 1

/-- The limits of R372; `group` is the kind, `d` the destination. -/
def popcBad (a b c : Word) (group : Bool) (d : Nat) : Bool :=
  above b 29 || field b 13 3 != 0 || field b 21 3 != 0 || 5 ≤ field b 10 3 || d == 3 ||
    (if group then 1024 < field b 0 10 + pcN b * pcG b || d == 2 else 1024 < field b 0 10 + pcN b || pcG b != 1) ||
    (if d = 0 then above a 24 || above c 13 else c != 0 || (if d = 1 then mqAddrBad a else above a 6))

/-- QPOPC with its operands read. -/
def qpopcOp (a b cw : Word) (group : Bool) (d c k : Nat) (s : State) : State :=
  ownerOnly s c k fun t =>
    let q : MqCmd := .popc a b cw group d 0
    if popcBad a b cw group d then trapCur t .illop
    else if d = 1 then
      issueBuf t c k q (mqAddrHandle a) 1 (mqAddrOff a) (if group then 1024 * pcN b else 128) 64 true
    else issueMq t c q

/-- QPOPC (R372). -/
def execQpopc (a b c : Reg) (k : Bool) (d : BitVec 2) (s : State) : Out :=
  .next (ctxOnly s (qpopcOp (srcS s a) (srcS s b) (srcS s c) k d.toNat))

/-! ### Status (R377, R378) -/

/-- The slot of a fabric's owner, while it is resident. -/
def mqSlot (y : Core) : Option Nat := match y.mq.owner with | some key => slotOf y key | none => none

/-- Whether the fabric may take its next step: its owner resident, neither gated nor clamped, no breakpoint (R376). -/
def mqMoves (s : State) (c : Nat) : Option Nat :=
  match mqSlot (coreOf s c) with
  | some k => if matrixMoves s c k && !(coreOf s c).mq.held then some k else none
  | none => none

/-- Whether the range scoreboard stops a command's access (R56). -/
def mqStalls (s : State) (c : Nat) (h : Half) (off n : Nat) (write : Bool) : Bool :=
  scoreStalls (coreOf s c) (bufRng h off n) write

/-- Whether the range scoreboard stops a command. -/
def mqHeadStalls (s : State) (c : Nat) (q : MqCmd) : Bool :=
  match q with
  | .tables h o _ => mqStalls s c h o 8192 false
  | .wiring h o _ => mqStalls s c h o 16384 false
  | .xpose h o b rs => mqStalls s c h o (xpExtent b rs) false
  | .xposb h o b => mqStalls s c h o (256 * field b 16 8) true
  | .popc a b _ g 1 _ => mqStalls s c (mqAddrHandle a) (mqAddrOff a) (if g then 1024 * pcN b else 128) true
  | _ => false

/-- Whether a command in progress completes though its owner is gated or clamped: every one but a run and a count to
tokens (R376). -/
def mqFinishes (q : MqCmd) : Bool :=
  match q with
  | .run _ _ _ => false
  | .popc _ _ _ _ d _ => d != 0
  | _ => true

/-- The slot for which the begun command at the head can be performed to its end. -/
def mqCompletes (s : State) (c : Nat) (q : MqCmd) : Option Nat :=
  if !(coreOf s c).mq.busy || mqHeadStalls s c q then none
  else if mqFinishes q then mqSlot (coreOf s c) else mqMoves s c

/-- Whether a command in progress has still to complete before the fabric stands at a boundary (R376). -/
def mqUnfinished (s : State) (c : Nat) : Bool :=
  match (coreOf s c).mq.queue with
  | [] => false
  | q :: _ => mqFinishes q && (mqCompletes s c q).isSome

/-- STATE of R377. -/
def mqState (s : State) (c : Nat) : Nat :=
  let y := coreOf s c
  match mqSlot y with
  | none => if y.mq.cause ≠ .none then 2 else if y.mq.owner.isSome ∧ y.mq.queue ≠ [] then 3 else 0
  | some k =>
    let x := ctxIn y k
    if x.r.state = .clamped then 4
    else if y.mq.cause ≠ .none then 2
    else if x.gates ≠ 0 then 3
    else if y.mq.queue = [] then 0 else 1

/-- OWNER, OWNED and OSAVED. -/
def mqOwnerBits (y : Core) : Word :=
  match y.mq.owner with
  | none => 0
  | some _ =>
    match mqSlot y with
    | some k => place k 36 ||| place 1 35
    | none => place y.mq.ownerSlot 36 ||| place 1 35 ||| place 1 3

/-- The status word, with OWN zero. -/
def mqWord (s : State) (c : Nat) : Word :=
  let m := (coreOf s c).mq
  place m.cause.code 56 ||| place m.xb.toNat 50 ||| place m.vt.toNat 46 ||| place m.vw.toNat 42 |||
    place m.queue.length 38 ||| mqOwnerBits (coreOf s c) ||| place m.runq.toNat 32 ||| BitVec.ofNat 64 (mqState s c)

/-- Breakpoint status. -/
def mqBrkWord (m : Mq) : Word :=
  (List.range 4).foldl (fun w q =>
    let (hit, cond, plane) := lookD m.brk q (false, 0, 0)
    w ||| place (if hit then 1 else 0) (16 * q + 15) ||| place cond (16 * q + 12) ||| place plane (16 * q)) 0

/-- QSTAT of the fabric with its selector. -/
def qstatOp (d : Reg) (sel c k : Nat) (s : State) : State :=
  let y := coreOf s c
  if sel = 3 then trapCur s .illop
  else if !ownsMq s c k then
    (if sel = 0 then retireS s d (mqOwnerBits y &&& 0x0000003800000000) 1 else trapCur s .illop)
  else if sel = 2 then retireS s d (mqBrkWord y.mq) 1
  else if sel = 1 ∧ y.mq.queue ≠ [] then s
  else retireS s d (mqWord s c ||| place 1 34) 1

/-- QSTAT of the fabric (R377). -/
def execQstatMq (c : Reg) (x : BitVec 2) (s : State) : Out := .next (ctxOnly s (qstatOp c x.toNat))

/-- A plane of a source: 0–3 a plane register, 4 the input bank; 5–7 read as zero (R370, R378). -/
def mqPlane (m : Mq) (src n : Nat) : BitVec 256 :=
  if src ≤ 3 then lookD m.planes (src * 1024 + n) 0 else if src = 4 then lookD m.input n 0 else 0

end Sys2Proof.Machine
end

