-- ==== Sys2Proof/Machine/Dispatcher.lean ====
section
/-! DEFINITION. The dispatcher (R380–R394): heads and their checks, starts, ageing and reservations, the packets that
are no LAUNCH, retirement, phases, signatures and checkpoints (R430). -/
namespace Sys2Proof.Machine

/-! ### Packets (R381) -/

/-- Word n of a packet. -/
def pw (p : List Word) (n : Nat) : Word := nth p n 0
/-- TYPE: 1 LAUNCH, 2 PHASE, 3 DETLEVEL, 4 WAITSIG, 5 SIGNAL, 6 MARK. -/
def pkType (p : List Word) : Nat := field (pw p 0) 56 8
def pkDep (p : List Word) : Bool := (pw p 0).getLsbD 55
def pkTier (p : List Word) : Nat := field (pw p 0) 52 3
def pkQuota (p : List Word) : Nat := 4 * field (pw p 0) 47 5
def pkWidth (p : List Word) : Nat := field (pw p 0) 41 6
def pkInst (p : List Word) : Nat := field (pw p 0) 33 8
/-- The base of member m's area. -/
def pkArea (p : List Word) (m : Nat) : Nat := (field (pw p 3) 20 32 + m) * 1048576

/-- Whether every word from the n-th on is zero. -/
def wordsZero (p : List Word) (n : Nat) : Bool := (p.drop n).all (· == 0)

/-- The packet at the head of a queue. -/
def headOf (q : Queue) : Option (List Word) := match q.packets with | p :: _ => some p | [] => none
/-- The head, once it has passed R382. -/
def readyHead (q : Queue) : Option (List Word) := if q.checked && q.qcfg.getLsbD 41 then headOf q else none

def qAsid (q : Queue) : Nat := field q.qcfg 52 12
def qFunc (q : Queue) : Nat := field q.qcfg 47 5
def qPrio (q : Queue) : Nat := field q.qcfg 44 3

/-- The level a job's later packets run under (R392). -/
def Job.want (j : Job) : Nat := match j.levelNext with | some l => l.toNat | none => j.level.toNat

/-- The check of a LAUNCH (R382). -/
def checkLaunch (s : State) (n : Nat) (q : Queue) (p : List Word) : Nat :=
  let members := (tierCores (pkTier p) 0).length
  let last := pkArea p 0 + members * 1048576 - 1
  let j := jobOf s (qAsid q)
  if 4 < pkTier p ∨ field (pw p 0) 0 33 ≠ 0 ∨ field (pw p 1) 48 16 ≠ 0 ∨ field (pw p 3) 52 12 ≠ 0 ∨
      field (pw p 3) 2 18 ≠ 0 ∨ field (pw p 3) 0 2 = 3 ∨ field (pw p 6) 48 16 ≠ 0 ∨ field (pw p 7) 32 32 ≠ 0 then 1
  else if pkQuota p = 0 ∨ 64 < pkQuota p ∨ pkWidth p = 0 ∨ 32 < pkWidth p ∨
      (pkInst p ≠ 255 ∧ tierInsts (pkTier p) ≤ pkInst p) then 2
  else if field (pw p 2) 52 12 ≠ qAsid q ∨ (pw p 2).getLsbD 0 = false then 3
  else if !isHbm (pkArea p 0) || !isHbm last then 4
  else if field (pw p 1) 0 2 ≠ 0 ∨ field (pw p 6) 0 3 ≠ 0 then 5
  else if 1 ≤ j.want ∧ j.pq.toNat ≠ n then 6
  else 0

/-- The reason a head packet is refused for, 0 for none (R382). DEP is a field of LAUNCH. -/
def checkPacket (s : State) (n : Nat) (q : Queue) (p : List Word) : Nat :=
  let low := field (pw p 0) 0 56
  match pkType p with
  | 1 => checkLaunch s n q p
  | 2 => if low ≠ 0 ∨ !wordsZero p 1 then 1 else 0
  | 3 => if 2 < low ∨ !wordsZero p 1 then 1 else 0
  | 4 => if low ≠ 0 ∨ field (pw p 1) 48 16 ≠ 0 ∨ !wordsZero p 3 then 1 else if field (pw p 1) 0 3 ≠ 0 then 5 else 0
  | 5 => if low ≠ 0 ∨ field (pw p 1) 48 16 ≠ 0 ∨ !wordsZero p 3 then 1 else if field (pw p 1) 0 3 ≠ 0 then 5 else 0
  | 6 => if low ≠ 0 ∨ !wordsZero p 2 then 1 else 0
  | _ => 1

/-- A packet is appended to a queue; whether there was room. -/
def appendPacket (s : State) (n : Nat) (p : List Word) : State × Bool :=
  let q := queueOf s n
  if 64 ≤ q.packets.length then (s, false)
  else (modQueue s n fun x => { x with packets := x.packets ++ [p] }, true)

/-- The head leaves its queue: what was counted for it starts anew. -/
def popHead (s : State) (n : Nat) : State :=
  modQueue s n fun x => { x with packets := x.packets.drop 1, checked := false, eprio := qPrio x, skips := 0, fails := 0,
                                 resv := none, early := [] }

/-- A performed packet of a job is logged while a checkpoint is in force (R430). -/
def logPacket (s : State) (n : Nat) (p : List Word) : State :=
  let a := qAsid (queueOf s n)
  if (jobOf s a).ckValid then modJob s a fun j => { j with packets := j.packets ++ [(n, p)] } else s

/-- The head has been performed. -/
def donePacket (s : State) (n : Nat) (p : List Word) : State := popHead (logPacket s n p) n

/-- Whether nothing starts for a job: it is clamped (R411), or a phase conflict is on its way to its arbiter (R393). -/
def jobHeld (s : State) (asid : Nat) : Bool :=
  let j := jobOf s asid
  j.clamped || (j.raised ++ j.waiting).any fun r => r.cause == .phaseconf

/-! ### Signal words (R384) -/

/-- The tables of a job (R5): its latest LAUNCH's ROOT, before its first one that of its first queued LAUNCH. -/
def jobRoot (s : State) (asid : Nat) : Option Word :=
  match (jobOf s asid).root with
  | some r => some r
  | none =>
    s.queues.findSome? fun q => if qAsid q.2 = asid then
        q.2.packets.findSome? fun p => if pkType p = 1 ∧ field (pw p 2) 52 12 = asid ∧ (pw p 2).getLsbD 0 then some (pw p 2) else none
      else none

/-- Translates a signal word for the dispatcher, by a walk of its own. -/
def signalAt (s : State) (root : Option Word) (va : Nat) (write : Bool) : State × Option Phys :=
  match root with
  | none => (s, none)
  | some r =>
    match walk s r va with
    | .error _ => (s, none)
    | .ok l =>
      let pa := l.base + va % (4096 * 2 ^ l.span)
      match leafCheck (if write then needStore else needLoad) l.entry pa with
      | some _ => (s, none)
      | none => let (t, e) := setAD s l write; (t, some { pa := pa, leaf := e })

/-- Whether a signal word's update must wait: a lock holds its walk, or its line does not answer yet (R97). -/
def signalHeld (s : State) (root : Option Word) (va : Nat) : Bool :=
  match root with
  | none => false
  | some r =>
    match walk s r va with
    | .error f => f.cause == .none
    | .ok l => heldAt s { pa := l.base + va % (4096 * 2 ^ l.span), leaf := l.entry } 8

/-- A WAITSIG at a head reads its word; the packet leaves when the word is high enough. -/
def pollSignal (s : State) (n : Nat) : State :=
  let q := queueOf s n
  match readyHead q with
  | none => s
  | some p =>
    if pkType p ≠ 4 ∨ signalHeld s (jobRoot s (qAsid q)) (field (pw p 1) 0 48) then s
    else
      match signalAt s (jobRoot s (qAsid q)) (field (pw p 1) 0 48) false with
      | (t, none) => modQueue t n fun x => { x with polled := t.cycle }
      | (t, some a) =>
        if (pw p 2).toNat ≤ leNat (physRead t a 8).1 then donePacket t n p
        else modQueue t n fun x => { x with polled := t.cycle }

/-- Whether a queue's head waits on a signal word at a physical address. -/
def waitsOn (s : State) (n : Nat) (pa : Nat) : Bool :=
  let q := queueOf s n
  match readyHead q with
  | some p => pkType p == 4 &&
      (match (signalAt s (jobRoot s (qAsid q)) (field (pw p 1) 0 48) false).2 with | some a => a.pa == pa | none => false)
  | none => false

/-- AADD.D.REL on a signal word, and the rereads that follow it; nothing is performed on a word that does not translate. -/
def bumpSignal (s : State) (root : Option Word) (asid va : Nat) (add : Word) : State :=
  match signalAt s root va true with
  | (t, none) => t
  | (t, some a) =>
    let u := (performOp t asid a (.atomic 0 8 add 0)).1
    (List.range 128).foldl (fun v n => if waitsOn v n a.pa then pollSignal v n else v) u

/-! ### Retirement (R388) -/

/-- Whether every member of a task has ended. -/
def Task.over (t : Task) : Bool := !t.retired && t.cores.length ≤ t.ended.length

/-- A task retires: DONE is incremented unless a member was lost or the job was killed; at levels 1 and 2 its signatures
stay until the end of its phase. -/
def retireTask (s : State) (t : Task) : State :=
  let s1 := modQueue s t.queue fun q => { q with started := q.started.filter (· != t.id) }
  let s2 : State := if t.level = 0 then { s1 with tasks := s1.tasks.filter fun x => x.id != t.id }
    else modTask s1 t.id fun x => { x with retired := true }
  if t.done = 0 ∨ t.lost then s2 else bumpSignal s2 (some t.root) t.asid.toNat t.done 1

/-- Retires the tasks that are over, but for those whose DONE must wait. -/
def sweepTasks (s : State) : State :=
  (s.tasks.filter fun t => t.over && (t.done == 0 || t.lost || !signalHeld s (some t.root) t.done)).foldl retireTask s

/-- Whether a task is still to retire. -/
def taskOpen (s : State) (id : Nat) : Bool := s.tasks.any fun t => t.id == id && !t.retired

/-! ### Heads -/

/-- A MARK: QMARK and a trace mark record of the hub die (R384). -/
def performMark (s : State) (n : Nat) (p : List Word) : State :=
  let a := qAsid (queueOf s n)
  let t := modQueue s n fun x => { x with qmark := pw p 1 }
  match ringFor t 2 a with
  | some i => ringPut t (128 + i) { w0 := place 11 60 ||| place a 48, w1 := traceTime t, w2 := 0, w3 := pw p 1 }
  | none => t

/-- PACKET_AT_HEAD (R382): the head is checked, and refused with its reason and an MSI-X message, or taken into
service; a MARK is performed and a WAITSIG reads its word at once. -/
def execPacketAtHead (n : Nat) (s : State) : Out :=
  .next (
    let q := queueOf s n
    match headOf q with
    | none => s
    | some p =>
      if q.checked || !q.qcfg.getLsbD 41 then s
      else
        match checkPacket s n q p with
        | 0 =>
          let t := modQueue s n fun x => { x with checked := true, eprio := qPrio x
                                                  early := (s.tasks.filter fun y => y.asid.toNat == qAsid x && !y.retired).map (·.id) }
          if pkType p = 6 then donePacket (performMark t n p) n p
          else if pkType p = 4 then pollSignal t n
          else t
        | r => popHead (emit (modQueue s n fun x => { x with refuse := BitVec.ofNat 8 r }) (.msix (qFunc q) 0)) n)

/-- WAITSIG_POLL (R384): the word is read again after 1,024 cycles. -/
def execWaitsigPoll (n : Nat) (s : State) : Out :=
  .next (if s.cycle < (queueOf s n).polled + 1024 then s else pollSignal s n)

/-- SIGNAL_PERFORM (R384): once every earlier task of the queue has retired. -/
def execSignalPerform (n : Nat) (s : State) : Out :=
  .next (
    let t := sweepTasks s
    let q := queueOf t n
    match readyHead q with
    | some p =>
      if pkType p ≠ 5 ∨ q.started ≠ [] ∨ jobHeld t (qAsid q) ∨ signalHeld t (jobRoot t (qAsid q)) (field (pw p 1) 0 48) then t
      else bumpSignal (donePacket t n p) (jobRoot t (qAsid q)) (qAsid q) (field (pw p 1) 0 48) (pw p 2)
    | none => t)

/-! ### Phases and levels (R390–R393) -/

/-- Whether two tasks of a phase conflict (R393). -/
def conflict (a b : Task) : Bool := (a.wsig &&& (b.rsig ||| b.wsig)) != 0 || (b.wsig &&& (a.rsig ||| a.wsig)) != 0

/-- The lower-numbered task of the first conflicting pair. -/
def firstConflict : List Task → Option Task
  | [] => none
  | t :: r => if r.any (conflict t) then some t else firstConflict r

/-- PHASECONF is raised for the job, with a task as origin. -/
def raisePhaseConf (s : State) (t : Task) : State :=
  let c := match t.cores with | c :: _ => c | [] => 0
  requestClamp s t.asid.toNat
    { unit := 7, cause := .phaseconf, dev := s.exid.toNat, core := c, ctx := 0, siteA := 0, siteB := 0, iter := 0,
      colour := 0, tick := tickNow s }

/-- A checkpoint is taken at a boundary whose new phase number is a multiple of N (R430). -/
def takeCheckpoint (j : Job) : Job :=
  if j.ckctl ≠ 0 ∧ j.phase.toNat % j.ckctl.toNat = 0 then
    { j with ckValid := true, ckLapsed := false, ckPhase := j.phase, ckUsed := 0, undo := [], packets := [], fires := [] }
  else j

/-- PHASE_END (R391): once every task of the phase has retired. At level 0 it only waits. -/
def execPhaseEnd (n : Nat) (s : State) : Out :=
  .next (
    let t := sweepTasks s
    let q := queueOf t n
    let a := qAsid q
    match readyHead q with
    | some p =>
      if pkType p ≠ 2 ∨ jobHeld t a ∨ (t.tasks.any fun x => x.asid.toNat == a && !x.retired) then t
      else
        let mine := t.tasks.filter fun x => x.asid.toNat == a
        let u := donePacket { t with tasks := t.tasks.filter fun x => x.asid.toNat != a } n p
        if (jobOf u a).want = 0 then u
        else
          let v := match firstConflict mine with | some x => raisePhaseConf u x | none => u
          modJob v a fun j => takeCheckpoint { j with phase := j.phase + 1 }
    | none => t)

/-- DETLEVEL_APPLY (R392): once every earlier task of the job has retired; level 2 waits for the next tick boundary. -/
def execDetlevelApply (n : Nat) (s : State) : Out :=
  .next (
    let t := sweepTasks s
    let q := queueOf t n
    match readyHead q with
    | some p =>
      if pkType p ≠ 3 ∨ q.early.any (taskOpen t) then t
      else
        let l := field (pw p 0) 0 2
        modJob (donePacket t n p) (qAsid q) fun j =>
          if l = 2 then { j with levelNext := some 2 } else { j with level := BitVec.ofNat 2 l, levelNext := none }
    | none => t)

/-! ### Starts (R384–R387) -/

/-- The instance of a tier a queue's head has reserved, as cores. -/
def reservedCores (q : Queue) : List Nat :=
  match q.resv, headOf q with | some i, some p => tierCores (pkTier p) i | _, _ => []
/-- Whether a core is reserved for a head of another queue. -/
def reservedElse (s : State) (n c : Nat) : Bool := s.queues.any fun q => q.1 != n && (reservedCores q.2).contains c

/-- The lowest free slot of a core. -/
def freeSlot (x : Core) : Option Nat := (List.range 4).find? fun k => !(ctxIn x k).r.state.resident
/-- The quotas of a core's resident contexts. -/
def quotaSum (x : Core) : Nat := x.ctxs.foldl (fun n p => if p.2.r.state.resident then n + p.2.quota else n) 0
/-- Whether a core has room for a member: a slot, quota, and a colour for colour 0 (R149, R151). -/
def coreFits (x : Core) (quota : Nat) : Bool :=
  (freeSlot x).isSome && quotaSum x + quota ≤ 64 && coreColours x < 64

/-- The instances a head may take. -/
def headInsts (q : Queue) (p : List Word) : List Nat :=
  match q.resv with
  | some i => [i]
  | none => if pkInst p = 255 then List.range (tierInsts (pkTier p)) else [pkInst p]

/-- The instance a head LAUNCH fits in (R385). -/
def fitsIn (s : State) (n : Nat) (p : List Word) : Option Nat :=
  (headInsts (queueOf s n) p).find? fun i => (tierCores (pkTier p) i).all fun c =>
    !reservedElse s n c && coreFits (coreOf s c) (pkQuota p)

/-- The heads that may start but for room: LAUNCHes not waiting under DEP, of jobs that are not held. -/
def startable (s : State) (n : Nat) : Option (List Word) :=
  let q := queueOf s n
  match readyHead q with
  | some p => if pkType p = 1 ∧ !(pkDep p && taskOpen s q.prev) ∧ !jobHeld s (qAsid q) then some p else none
  | none => none

/-- Whether a queue is served before another (R386): the higher effective priority, then round-robin. -/
def servedBefore (s : State) (a b : Nat) : Bool :=
  let x := (queueOf s a).eprio
  let y := (queueOf s b).eprio
  let turn (n p : Nat) : Nat := (n + 128 - lookD s.served p 127 - 1) % 128
  decide (y < x) || (x == y && decide (turn a x < turn b x))

/-- Puts a queue among others by R386. -/
def insertQueue (s : State) (n : Nat) : List Nat → List Nat
  | [] => [n]
  | m :: r => if servedBefore s n m then n :: m :: r else m :: insertQueue s n r

/-- A head chosen that does not fit counts a failure; at 16 it reserves an instance no core of which is reserved. -/
def countFailure (s : State) (n : Nat) : State :=
  let q := queueOf s n
  match headOf q with
  | none => s
  | some p =>
    let t := modQueue s n fun x => { x with fails := min 255 (x.fails + 1) }
    if q.fails + 1 < 16 ∨ q.resv.isSome then t
    else
      match (headInsts q p).find? fun i => (tierCores (pkTier p) i).all fun c => !reservedElse t n c with
      | some i => modQueue t n fun x => { x with resv := some i }
      | none => t

/-- A ready head passed over counts a skip; at 64 its effective priority rises (R387). -/
def countSkip (s : State) (n : Nat) : State :=
  modQueue s n fun x =>
    if 64 ≤ x.skips + 1 then { x with skips := 0, eprio := min 7 (x.eprio + 1) } else { x with skips := x.skips + 1 }

/-- The next context key of a core that no context of it holds (R406). -/
def freshKey (x : Core) : Nat → Half → Half
  | 0, k => k
  | n + 1, k =>
    if (x.ctxs.any fun p => p.2.r.key == k && p.2.r.state != .free && p.2.r.state != .lost) ||
        x.saved.any (fun y => y.key == k) then freshKey x n (k + 1) else k

/-- A member's context (R383): its registers, colour 0, and its first instruction. -/
def startCtx (p : List Word) (func m task cycle : Nat) (key : Half) : Ctx :=
  let area := pkArea p m
  { Ctx.reset with
    r := { CtxRegs.reset with
      xlroot := pw p 2, tenant := BitVec.ofNat 5 func, ovfbase := BitVec.ofNat 64 (area + 0x40000 + 1)
      fqctl := BitVec.ofNat 64 (area + 0x50000 + 2 * field (pw p 3) 0 2 + 1), state := .running, key := key }
    seq := { Seq.reset with pc := BitVec.ofNat 64 (field (pw p 1) 0 48), s := [(1, pw p 5)] }
    task := task, member := m, area := area, quota := pkQuota p, progress := cycle
    colours := [(0, (min (pkWidth p) (4 * pkQuota p), false))] }

/-- The generator state a seed gives (R206). -/
def seedOf (v : Word) : Word := if v = 0 then 0x5A173C9E0B4DE621 else v

/-- Starts member m of a task on a core. -/
def startMember (p : List Word) (func task : Nat) (s : State) (m c : Nat) : State :=
  modCore s c fun x =>
    match freeSlot x with
    | none => x
    | some k =>
      let key := freshKey x 65536 x.nextKey
      { x with
        nextKey := key + 1
        ctxs := put x.ctxs k (startCtx p func m task s.cycle key)
        elems := (List.range 64).foldl (fun l e =>
          let y := lookD l e Elem.reset
          put l e { y with ways := del y.ways k, gen := put y.gen k (seedOf (pw p 4)), acc := without y.acc (32 * k) (32 * k + 32) }) x.elems
        boxes := x.boxes.filter fun b => b.1 % 4 != k }

/-- A task starts in an instance (R383). -/
def startTask (s : State) (n i : Nat) (p : List Word) : State :=
  let q := queueOf s n
  let cores := tierCores (pkTier p) i
  let id := s.nextTask
  let t : Task := { id := id, queue := n, asid := BitVec.ofNat 12 (qAsid q), tier := pkTier p, inst := i,
                    tag := (pw p 7).setWidth 32, done := field (pw p 6) 0 48, root := pw p 2, cores := cores,
                    ended := [], lost := false, level := (jobOf s (qAsid q)).want, bars := [], rsig := 0, wsig := 0,
                    retired := false }
  let s1 := (cores.zip (List.range cores.length)).foldl (fun u c => startMember p (qFunc q) id u c.2 c.1) s
  let s2 := donePacket { s1 with tasks := s1.tasks ++ [t], nextTask := id + 1 } n p
  modJob (modQueue s2 n fun x => { x with started := x.started ++ [id], prev := id }) (qAsid q) fun j =>
    { j with root := some (pw p 2) }

/-- DISPATCH_DECISION (R384–R387): at most one start every 16 cycles. The heads ranked before the one that starts were
chosen and did not fit. -/
def execDispatchDecision (s : State) : Out :=
  .next (
    let t := sweepTasks s
    if t.cycle < t.lastStart then t
    else
      let order := (List.range 128).foldl (fun l n => if (startable t n).isSome then insertQueue t n l else l) []
      let fit (n : Nat) : Option (Nat × List Word) :=
        match startable t n with | some p => (fitsIn t n p).map fun i => (i, p) | none => none
      let early := order.takeWhile fun n => (fit n).isNone
      let failed := early.foldl countFailure t
      match order.find? fun n => (fit n).isSome with
      | none => failed
      | some n =>
        match fit n with
        | none => failed
        | some (i, p) =>
          let others := order.filter fun m => m != n && (fit m).isSome
          let u := others.foldl countSkip failed
          startTask { u with lastStart := u.cycle + 16, served := put u.served (queueOf u n).eprio n } n i p)

end Sys2Proof.Machine
end

