-- ==== Sys2Proof/Machine/Network.lean ====
section
/-! DEFINITION. The network (R69–R79): hops and buffers, read combining, acceptance at the destination, reservation
mode, and the refill of the bandwidth meter (R105). -/
namespace Sys2Proof.Machine

/-- The packet with a number. -/
def packetOf (s : State) (i : Nat) : Option Packet := s.packets.find? fun p => p.id == i
def modPacket (s : State) (i : Nat) (f : Packet → Packet) : State :=
  { s with packets := updFirst s.packets (fun p => p.id == i) f }
def dropPacket (s : State) (i : Nat) : State := { s with packets := s.packets.filter fun p => p.id != i }

/-- The input port of a router that a link from a node ends at; 0 is injection. -/
def linkPort (from_ : Nat) : Nat := from_ + 1

/-- The buffer a packet's head finds at the next router: whether it is an escape buffer; none when it waits (R73). -/
def bufferFor (s : State) (p : Packet) (next : Nat) : Option Bool :=
  let l := s.packets.filter fun q => q.node == next && q.dir == linkPort p.node && !q.reserved
  let pool := l.filter fun q => !q.esc
  if pool.length < 27 ∧ (pool.filter fun q => q.core == p.core && q.slot == p.slot).length < 8 then some false
  else if l.any fun q => q.esc && q.cls == p.cls then none else some true

/-- Whether the job of a packet's context is clamped (R411). -/
def packetClamped (s : State) (p : Packet) : Bool :=
  p.core < Config.cores && (ctxOf s p.core p.slot).r.state == .clamped

/-! ### Read combining (R78) -/

/-- The request a packet carries, if it is one. -/
def Packet.req (p : Packet) : Option Nat := match p.load with | .req i => some i | _ => none
/-- The entries in use: those whose reply has not left. -/
def liveEntries (s : State) : List (Nat × Nat × Nat) := s.combine.filter fun e => reqOpen s e.2.1

/-- A read that reaches a router opens an entry when one of the eight is free. -/
def openEntry (s : State) (node req : Nat) : State :=
  let l := liveEntries s
  if (l.filter fun e => e.1 == node).length < 8 then { s with combine := l ++ [(node, req, 1)] } else { s with combine := l }

/-- The first request of an entry at a router that can absorb a read of a line. -/
def absorber (s : State) (p : Packet) (node : Nat) (line : Nat) : Option Nat :=
  (s.packets.findSome? fun q =>
    match q.req with
    | some i =>
      if q.node == node && q.id != p.id && q.line == some line &&
          (liveEntries s).any (fun e => e.1 == node && e.2.1 == i && decide (e.2.2 < 4)) then some i else none
    | none => none)

/-- A read enters a router: it is absorbed, or it opens an entry. Nothing of its own party must precede it any more, so that
no read misses its own earlier stores (R79). -/
def enterRouter (s : State) (p : Packet) (node : Nat) : State :=
  match p.line, p.req with
  | some line, some i =>
    match absorber s p node line, s.reqs.find? fun r => r.id == i && r.answer.isNone with
    | some f, some _ =>
      { dropPacket s p.id with
        reqs := s.reqs.map fun x => if x.id = i ∨ x.within = some i then { x with within := some f } else x
        combine := updFirst (liveEntries s) (fun e => e.1 == node && e.2.1 == f) fun e => (e.1, e.2.1, e.2.2 + 1) }
    | none, some _ => openEntry s node i
    | _, none => s
  | _, _ => s

/-- Flits of the reply to a request (R71): its data, or an acknowledgement. -/
def replyFlits (op : ReqOp) : Nat := flitsOf (if op.reads then op.bytes else 16)

/-- Whether a packet is still with the unit that made it. -/
def Packet.unsent (p : Packet) : Bool := p.dir == 0

/-- Flits of replies that a core's sent requests have reserved at its ingress (R74). -/
def replyReserved (s : State) (c : Nat) : Nat :=
  s.reqs.foldl (fun n r =>
    match r.who with
    | .unit d _ _ =>
      if d == c && r.answer.isNone && !(s.packets.any fun p => p.req == some r.id && p.unsent) then n + replyFlits r.op else n
    | _ => n) 0

/-- Whether a packet may leave its unit: a request once its party's order allows it (R112–R116), with room for its reply in the
512 flits of its core's ingress (R74); any other at once. -/
def maySend (s : State) (p : Packet) : Bool :=
  !p.unsent ||
  match p.req with
  | none => true
  | some i =>
    match s.reqs.find? fun r => r.id == i && r.answer.isNone with
    | none => true
    | some r => groupReady s r && (match r.who with | .unit c _ _ => replyReserved s c + replyFlits r.op ≤ 512 | _ => true)

/-- Whether the first flit of a packet in reservation mode passes its router in this cycle: the first it has reserved
there (R77). -/
def slotNow (s : State) (p : Packet) (next : Nat) : Bool :=
  s.slotsResv.contains (p.node, linkPort next, s.cycle, p.id) &&
    !(s.slotsResv.any fun x => x.1 == p.node && x.2.1 == linkPort next && x.2.2.2 == p.id && decide (x.2.2.1 < s.cycle))

/-- PACKET_HOP (R73): the packet's head takes a buffer at the next router of its route (R70). A packet in reservation
mode passes in the slots its header has reserved and takes none (R77). A pool packet of a clamped job advances one buffer
and stops (R411). -/
def execPacketHop (i : Nat) (s : State) : Out :=
  .next (
    match packetOf s i with
    | none => s
    | some p =>
      let next := nextNode p.node p.dst
      if p.node = p.dst || !maySend s p then s
      else if p.reserved then
        if slotNow s p next then modPacket s i fun q => { q with node := next, dir := linkPort p.node, since := s.cycle } else s
      else if p.esc = false ∧ p.dir ≠ 0 ∧ packetClamped s p then s
      else
        match bufferFor s p next with
        | some e =>
          enterRouter (modPacket s i fun q => { q with node := next, dir := linkPort p.node, esc := e, since := s.cycle })
            { p with node := next } next
        | none => s)

/-! ### Acceptance (R74) -/

/-- The slot of a core that holds the context of a task. -/
def taskSlot (s : State) (c task : Nat) : Option Nat :=
  match (coreOf s c).ctxs.find? fun p => p.2.task == task && p.2.r.state.resident with
  | some p => some p.1
  | none => none

/-- A token for a context that is saved joins its image: the tokens that return to their marked places at the restore. -/
def acceptSaved (s : State) (c task : Nat) (f : Flight) : State :=
  modCore s c fun y => { y with saved := updFirst y.saved (fun v => v.ctx.task == task) fun v =>
    { v with ctx := { v.ctx with ckpt := v.ctx.ckpt ++ [f] } } }

/-- A token reaches its core (R181), which always accepts it (R74): it goes to its element's door, or, where the context's
tokens have been captured, into the checkpoint buffer. One whose context has ended goes. -/
def acceptToken (s : State) (i c task : Nat) (f : Flight) : State :=
  match taskSlot s c task with
  | none => acceptSaved (dropPacket s i) c task f
  | some k =>
    if (ctxOf s c k).gates = 3 then modCtx (dropPacket s i) c k fun x => { x with ckpt := x.ckpt ++ [f] }
    else modCore (dropPacket s i) c fun y => { y with door := y.door ++ [(k, f)] }

/-- Bytes of host memory a request asks for. -/
def hostBytes : ReqOp → Nat
  | .load n => n
  | .atomic _ n _ _ => n
  | op => op.bytes

/-- The hub die accepts a request with HOST = 1 (R67): a write is issued and performed, a read waits for the host's
completion. -/
def hubAccept (s : State) (i : Nat) (r : Req) : State :=
  match r.op with
  | .store _ _ => performReq (dropPacket s i) r
  | op =>
    let t := dropPacket s i
    { t with
      reqs := updFirst t.reqs (fun x => x.id == r.id) fun x => { x with accepted := some t.nextId }
      nextId := t.nextId + 1
      hostReads := t.hostReads ++ [{ id := r.id, addr := r.pa, n := hostBytes op, who := r.who }] }

/-- A slice accepts a request: from here on requests for one line are performed in this order (R66). -/
def sliceAccept (s : State) (i : Nat) (r : Req) : State :=
  let t := dropPacket s i
  { t with reqs := updFirst t.reqs (fun x => x.id == r.id) fun x => { x with accepted := some t.nextId }
           nextId := t.nextId + 1 }

/-- PACKET_ACCEPT (R74). Remote typed-buffer requests and pokes are taken by events of their own (R50, R254). -/
def execPacketAccept (i : Nat) (s : State) : Out :=
  .next (
    match packetOf s i with
    | none => s
    | some p =>
      if p.node ≠ p.dst || !maySend s p then s
      else
        match p.load with
        | .req n =>
          match s.reqs.find? fun r => r.id == n && r.answer.isNone with
          | none => dropPacket s i
          | some r => if r.host then hubAccept s i r else sliceAccept s i r
        | .tok task f => acceptToken s i p.dstUnit task f
        | .buf _ => s
        | .poke _ _ => s
        | .ctl => dropPacket s i)

/-! ### Reservation mode (R76, R77) -/

/-- The cycles in which a packet's flits pass a router whose header is granted now: they leave 3 cycles after it. -/
def flitSlots (s : State) (p : Packet) (node next : Nat) : List (Nat × Nat × Nat × Nat) :=
  (List.range p.flits).map fun j => (node, linkPort next, s.cycle + 3 + j, p.id)

/-- RESERVATION_HEADER (R77): the header of a reserved flow reserves the output link at its router and moves on, or
waits where the slot is taken. -/
def execReservationHeader (i : Nat) (s : State) : Out :=
  .next (
    match packetOf s i with
    | none => s
    | some p =>
      let h := match p.header with | some h => h | none => p.node
      if !p.reserved || h == p.dst then s
      else
        let next := nextNode h p.dst
        let want := flitSlots s p h next
        let held := s.slotsResv.filter fun x => s.cycle ≤ x.2.2.1
        if !maySend s p || want.any fun x => held.any fun z => (z.1, z.2.1, z.2.2.1) == (x.1, x.2.1, x.2.2.1) then s
        else modPacket { s with slotsResv := held ++ want } i fun q => { q with header := some next })

/-- Whether an escape buffer on the route ahead of a packet has been occupied for more than 4,096 cycles. -/
def escapeStuck (s : State) (p : Packet) : Bool :=
  (p.node :: route p.node p.dst).any fun a =>
    s.packets.any fun q => q.esc && q.id != p.id && q.node == nextNode a p.dst && q.dir == linkPort a && a != p.dst &&
      decide (q.since + 4096 < s.cycle)

/-- A flow enters reservation mode, its waiting packets with it. -/
def reserveFlow (s : State) (core slot dst cls : Nat) (permanent : Bool) : State :=
  let f : Flow := { core := core, slot := slot, dst := dst, cls := cls, permanent := permanent, lastSent := s.cycle }
  { s with
    flows := if flowReserved s core slot dst cls then s.flows else s.flows ++ [f]
    packets := s.packets.map fun q =>
      if q.core = core ∧ q.slot = slot ∧ q.dstUnit = dst ∧ q.cls = cls then { q with reserved := true } else q }

/-- ESCAPE_OCCUPANCY_TIMEOUT (R76): the flow of a packet that waits behind such a buffer is reserved. -/
def execEscapeOccupancyTimeout (i : Nat) (s : State) : Out :=
  .next (
    match packetOf s i with
    | none => s
    | some p =>
      if !p.reserved && p.node != p.dst && escapeStuck s p then reserveFlow s p.core p.slot p.dstUnit p.cls false else s)

/-- FLOW_IDLE_TIMEOUT (R76): the i-th reserved flow returns to normal mode after 1,024 cycles without a packet. -/
def execFlowIdleTimeout (i : Nat) (s : State) : Out :=
  .next (
    match s.flows[i]? with
    | some f => if f.permanent || s.cycle < f.lastSent + 1024 then s else { s with flows := dropNth s.flows i }
    | none => s)

/-! ### The bandwidth meter (R105) -/

/-- A tenant's share. -/
def shareOf (m : NMap Nat) (t : Nat) : Nat := lookD m t 0

/-- The sum of the shares of the tenants that a test picks. -/
def shareSum (m : NMap Nat) (p : Nat → Bool) : Nat :=
  (List.range 17).foldl (fun n t => if p t then n + shareOf m t else n) 0

/-- A tenant's bucket for the next window. -/
def refilled (m : NMap Nat) (active : List Nat) (old : NMap Int) (t : Nat) : Int :=
  let sact := shareSum m fun u => active.contains u
  let spare := 4096 * shareSum m fun u => !active.contains u
  if active.contains t then
    let b := lookD old t 0
    shareOf m t * 4096 + (if 0 < sact then (spare * shareOf m t / sact : Nat) else 0) + (if b < 0 then b else 0)
  else 0

/-- BW_WINDOW_REFILL (R105): accepted shares take effect, and every bucket is set anew. -/
def execBwWindowRefill (c : Nat) (s : State) : Out :=
  .next (
    let x := coreOf s c
    if !x.bwEn || s.cycle < x.bwStart + 1024 then s
    else
      setCore s c { x with
        bwStart := x.bwStart + 1024, share := x.shareNext, active := []
        bucket := (List.range 17).map fun t => (t, refilled x.shareNext x.active x.bucket t) })

end Sys2Proof.Machine
end

