-- ==== Sys2Proof/Machine/Sync.lean ====
section
/-! DEFINITION. Fences, barriers, pokes and dozes (R121, R122, R254, R323–R325). -/
namespace Sys2Proof.Machine

/-! ### Fences (R121, R323) -/

/-- A fence that releases: the party's earlier accesses are performed before it retires, as R120 gives for its scope. -/
def fenceOp (sc : Scope) (s : State) : State :=
  let (t, ok) := releaseNow s (seqWho s) sc
  if ok then retire t 1 else waitIn t .none

/-- An acquire fence: the party's earlier loads and atomics are performed before it retires, and its earlier accesses to UO
pages, so that they precede later ones (R114); its other stores may still be under way. -/
def fenceAcqOp (s : State) : State :=
  if (partyReqs s (seqWho s)).any fun r => r.op.reads || r.ord == 2 then
    match drainParty s (seqWho s) with | (t, true) => retire t 1 | (t, false) => waitIn t .none
  else retire s 1

/-- FENCE (R323). -/
def execFence (g : Guard) (z : Scope) (s : State) : Out := .next (guarded g s (fenceOp z))
/-- FENCE.ACQ (R323). -/
def execFenceAcq (g : Guard) (_z : Scope) (s : State) : Out := .next (guarded g s fenceAcqOp)
/-- FENCE.REL (R323). -/
def execFenceRel (g : Guard) (z : Scope) (s : State) : Out := .next (guarded g s (fenceOp z))

/-! ### Barriers (R324, R325) -/

/-- The key of a barrier in its task: scope, number, scope instance. -/
def barKey (z : Scope) (c n : Nat) : Nat := (z.code.toNat * 8 + n) * 256 + scopeInst z c

/-- The devices of a job: this one, and the others on which it has contexts (R146). -/
def jobDevices (exid asid : Nat) : Nat :=
  1 + ((List.range 4096).filter fun d => d != exid && Config.jobDevice asid d).length

/-- The members of a barrier's group, of a device with this exchange id: at POD scope those of every device of the job
(R147). -/
def barMembers (exid : Nat) (t : Task) (z : Scope) (c : Nat) : Nat :=
  let here := (t.cores.filter fun d => scopeInst z d == scopeInst z c).length
  if z = .pod then here * jobDevices exid t.asid.toNat else here

/-- Whether a scope is wider than a task's tier. -/
def tierTooNarrow (t : Task) (z : Scope) : Bool := decide (t.tier < scopeRank z)

/-- Whether generation g is complete when `done` generations are (R324). -/
def genComplete (done g : Half) : Bool := 1 ≤ (done - g).toNat && (done - g).toNat ≤ 32767

/-- Counts an arrival; the last of a generation completes it. -/
def countArrival (exid : Nat) (t : Task) (z : Scope) (c n : Nat) : Task :=
  let (m, done) := lookD t.bars (barKey z c n) (0, 0)
  { t with bars := put t.bars (barKey z c n) (if barMembers exid t z c ≤ m + 1 then (0, done + 1) else (m + 1, done)) }

/-- The generations a barrier has completed. -/
def barDone (t : Task) (z : Scope) (c n : Nat) : Half := (lookD t.bars (barKey z c n) (0, 0)).2

/-- Arrives at a barrier: none while the member's last arrival there belongs to a generation not yet complete. -/
def arrive (s : State) (c k : Nat) (t : Task) (z : Scope) (n : Nat) : Option (State × Half) :=
  let x := ctxOf s c k
  let b := z.code.toNat * 8 + n
  let done := barDone t z c n
  let busy := match look x.arrived b with | some g => !genComplete done g | none => false
  if busy then none
  else
    let s1 := modCtx s c k fun y => { y with arrived := put y.arrived b done }
    if s.deferred then some (modCtx s1 c k fun y => { y with arriving := y.arriving ++ [b] }, done)
    else some (modTask s1 t.id fun u => countArrival s.exid.toNat u z c n, done)

/-- The barrier operations' checks, and the release of an arrival at its scope (R122). -/
def barArrive (z : Scope) (v : Word) (fin : State → Nat → Nat → Nat → Half → State) (c k : Nat) (s : State) : State :=
  match taskOf s (ctxOf s c k).task with
  | none => trapCur s .illop
  | some t =>
    if above v 3 || tierTooNarrow t z then trapCur s .illop
    else
      match releaseNow s (.unit c k 0) z with
      | (u, false) => waitIn u .none
      | (u, true) =>
        match arrive u c k t z (field v 0 3) with
        | none => u
        | some (w, g) => fin w c k (field v 0 3) g

/-- BARA (R325). -/
def execBara (g : Guard) (d a : Reg) (z : Scope) (s : State) : Out :=
  .next (guarded g s fun t => ctxOnly t (barArrive z (srcS t a) fun u _ _ _ n => retireS u d (n.setWidth 64) 1))

/-- Waits for a generation: the completed wait is an acquire (R122). -/
def barWait (z : Scope) (n : Nat) (g : Half) (c k : Nat) (s : State) : State :=
  match taskOf s (ctxOf s c k).task with
  | none => trapCur s .illop
  | some t =>
    if tierTooNarrow t z then trapCur s .illop
    else if genComplete (barDone t z c n) g then retire s 1 else s

/-- BARW (R325). -/
def execBarw (g : Guard) (a b : Reg) (z : Scope) (s : State) : Out :=
  .next (guarded g s fun t => ctxOnly t fun c k u =>
    let v := srcS u a
    let w := srcS u b
    if above v 3 || above w 16 then trapCur u .illop else barWait z (field v 0 3) (w.setWidth 16) c k u)

/-- BAR (R325). -/
def execBar (g : Guard) (a : Reg) (z : Scope) (s : State) : Out :=
  .next (guarded g s fun t => ctxOnly t fun c k u =>
    match curWait u with
    | .generation n => barWait z (field (srcS u a) 0 3) n c k u
    | _ => barArrive z (srcS u a) (fun w c k n g => barWait z n g c k (waitIn w (.generation g))) c k u)

/-- The scope with a code. -/
def scopeOf (n : Nat) : Scope := match n with | 0 => .core | 1 => .bay | 2 => .stack | 3 => .dev | _ => .pod

/-- BARRIER_ARRIVAL (R324): the oldest arrival under way of a context, `c` its core and `k` its slot, is counted. From
`c` = 256 on it is an arrival that another device's member of the POD task `c` − 256 made at barrier `k` (log 66). -/
def execBarrierArrival (c k : Nat) (s : State) : Out :=
  .next (
    if 256 ≤ c then
      modTask s (c - 256) fun t => if t.tier = 4 then countArrival s.exid.toNat t .pod 0 k else t
    else
    let x := ctxOf s c k
    match x.arriving with
    | [] => s
    | b :: r =>
      modTask (modCtx s c k fun y => { y with arriving := r }) x.task fun t => countArrival s.exid.toNat t (scopeOf (b / 8)) c (b % 8))

/-! ### Pokes and dozes (R254) -/

/-- A poke adds to an event count, which stays at its largest value. -/
def pokeSeq (q : Seq) : Seq := { q with evcnt := if q.evcnt = 0xFFFF then q.evcnt else q.evcnt + 1 }

/-- A poke for the context of a task on a core: it is sent, or counted at once. A context that does not hold a slot
keeps it under way. -/
def pokeCore (s : State) (c k task d : Nat) : State :=
  match taskSlot s d task with
  | some j =>
    if s.deferred && d != c then sendPacket s 4 c k 1 (coreNode c) (coreNode d) d (.poke d task) none
    else modCtx s d j fun x => { x with seq := pokeSeq x.seq }
  | none =>
    if (coreOf s d).saved.any fun y => y.ctx.task == task then
      sendPacket s 4 c k 1 (coreNode c) (coreNode d) d (.poke d task) none
    else s

/-- POKE with its operand read: a release at DEV scope. -/
def pokeOp (v : Word) (c k : Nat) (s : State) : State :=
  let x := ctxOf s c k
  let cores := match taskOf s x.task with | some t => t.cores | none => [c]
  if v ≠ BitVec.allOnes 64 ∧ !cores.contains v.toNat then trapCur s .illop
  else
    match releaseNow s (.unit c k 0) .dev with
    | (t, false) => waitIn t .none
    | (t, true) =>
      retire ((if v = BitVec.allOnes 64 then cores else [v.toNat]).foldl (fun u d => pokeCore u c k x.task d) t) 1

/-- POKE (R254). -/
def execPoke (g : Guard) (a : Reg) (s : State) : Out := .next (guarded g s fun t => ctxOnly t (pokeOp (srcS t a)))

/-- POKE_DELIVER (R254): a poke that has reached its core is counted for the context in a slot. -/
def execPokeDeliver (c k : Nat) (s : State) : Out :=
  .next (
    match s.packets.find? fun p => p.load == .poke c (ctxOf s c k).task && p.node == p.dst with
    | some p =>
      if (ctxOf s c k).r.state.resident then
        modCtx (dropPacket s p.id) c k fun x => { x with seq := pokeSeq x.seq }
      else s
    | none => s)

/-- DOZE with its operand read: an acquire when it takes from the count. -/
def dozeOp (d : Reg) (v : Word) (c k : Nat) (s : State) : State :=
  let q := (ctxOf s c k).seq
  if q.evcnt ≠ 0 then
    retireS (modCtx s c k fun x => { x with seq := { x.seq with evcnt := x.seq.evcnt - 1 } }) d (q.evcnt.setWidth 64) 1
  else
    match q.wait with
    | .since t => if v ≠ 0 ∧ t + v.toNat ≤ s.cycle then retireS s d 0 1 else s
    | _ => waitIn s (.since s.cycle)

/-- DOZE (R254). -/
def execDoze (g : Guard) (d a : Reg) (s : State) : Out := .next (guarded g s fun t => ctxOnly t (dozeOp d (srcS t a)))

/-- The instruction a waiting sequencer stands at. -/
def waitingInstr (s : State) (c k : Nat) : State × Option Instr :=
  if seqRuns s c k then
    match (ctxOf s c k).seq.wait with
    | .since _ => fetchInstr { s with cur := .seq c k }
    | _ => (s, none)
  else (s, none)

/-- DOZE_TIMEOUT (R254): a DOZE whose cycles have passed returns 0. -/
def execDozeTimeout (c k : Nat) (s : State) : Out :=
  .next (
    match waitingInstr s c k with
    | (t, some (.doze _ d a)) =>
      if (ctxOf t c k).seq.evcnt ≠ 0 then s else { dozeOp d (srcS t a) c k t with cur := s.cur }
    | _ => s)

end Sys2Proof.Machine
end

