-- ==== Sys2Proof/Machine/QueueOps.lean ====
section
/-! DEFINITION. The queue instructions of a job (R253, R389). -/
namespace Sys2Proof.Machine

/-- Whether a queue is open to the executing job for pushing or popping. -/
def queueOpen (s : State) (c k n : Nat) (push : Bool) : Bool :=
  let q := queueOf s n
  qAsid q == asidOf (ctxOf s c k) && q.qcfg.getLsbD (if push then 43 else 42)

/-- A queue access refused (R253, R43): PERM, and an entry that gives the queue number as the address. -/
def queuePerm (s : State) (c k n : Nat) (push : Bool) : State :=
  trapCur (logViol s (coreDie c) { asid := asidOf (ctxOf s c k), addr := n, cause := Cause.perm.code, reqid := c, kind := 0,
                                   akind := 1, acc := if push then 1 else 0 }) .perm

/-- The operand checks, and the packet read for a push, which is a release at DEV scope. -/
def withPacket (v va : Word) (c k : Nat) (s : State) (fin : State → Nat → List Word → State) : State :=
  let n := field v 0 7
  if above v 7 then trapCur s .illop
  else if va.toNat % 64 ≠ 0 then faultGlobal s va 0 (bareFault .align)
  else if !queueOpen s c k n true then queuePerm s c k n true
  else
    match releaseNow s (.unit c k 0) .dev with
    | (t, false) => waitIn t .none
    | (t, true) => readRecord t c k va 64 64 fun u p => fin u n p

/-- QPUSH with its operands read. -/
def qpushOp (d : Reg) (v va : Word) (c k : Nat) (s : State) : State :=
  withPacket v va c k s fun t n p =>
    match appendPacket t n p with | (u, ok) => retireS u d (if ok then 0 else 1) 1

/-- QPUSH (R253). -/
def execQpush (g : Guard) (d a b : Reg) (s : State) : Out :=
  .next (guarded g s fun t => ctxOnly t (qpushOp d (srcS t a) (srcS t b)))

/-- QPUSHW with its operands read: while the queue is full it waits, and after QTMO cycles of waiting it raises QFULLTMO. -/
def qpushwOp (v va : Word) (c k : Nat) (s : State) : State :=
  let q := (ctxOf s c k).seq
  let full := !above v 7 && decide (64 ≤ (queueOf s (field v 0 7)).packets.length)
  match q.wait, full with
  | .since t, true => if q.qtmo ≠ 0 ∧ t + q.qtmo.toNat ≤ s.cycle then trapCur s .qfulltmo else s
  | _, _ =>
    withPacket v va c k s fun t n p =>
      match appendPacket t n p with | (u, true) => retire u 1 | (_, false) => waitIn t (.since t.cycle)

/-- QPUSHW (R253, R389). -/
def execQpushw (g : Guard) (a b : Reg) (s : State) : Out :=
  .next (guarded g s fun t => ctxOnly t (qpushwOp (srcS t a) (srcS t b)))

/-- QPUSHW_TIMEOUT (R389): a QPUSHW whose wait has reached QTMO raises QFULLTMO. -/
def execQpushwTimeout (c k : Nat) (s : State) : Out :=
  .next (
    match waitingInstr s c k with
    | (t, some (.qpushw _ a b)) => { qpushwOp (srcS t a) (srcS t b) c k t with cur := s.cur }
    | _ => s)

/-- QPOP with its operands read: the head packet is written as one 64-byte store and removed. -/
def qpopOp (d : Reg) (v va : Word) (c k : Nat) (s : State) : State :=
  let n := field v 0 7
  let x := ctxOf s c k
  if above v 7 then trapCur s .illop
  else if va.toNat % 64 ≠ 0 then faultGlobal s va 1 (bareFault .align)
  else if !queueOpen s c k n false then queuePerm s c k n false
  else
    match headOf (queueOf s n) with
    | none => retireS s d 0 1
    | some p =>
      match translate s c x.r.xlroot va needStore with
      | (t, .error f) => faultGlobal t va 1 f
      | (t, .ok a) =>
        if scoreStalls (coreOf t c) (globalRng (asidOf x) va.toNat 64) true then waitIn t .none
        else
          match admitted t c k 64 (atSeq k) with
          | (u, false) => waitIn u .none
          | (u, true) =>
            let w := signAccess u c k va.toNat 64 true
            retireS (popHead (storeOrSend w (.unit c k 0) (asidOf x) va.toNat a (wordsBytes p) false) n) d 1 1

/-- QPOP (R253). -/
def execQpop (g : Guard) (d a b : Reg) (s : State) : Out :=
  .next (guarded g s fun t => ctxOnly t (qpopOp d (srcS t a) (srcS t b)))

/-- QSTAT's word (R253). -/
def qstatWord (s : State) (c k n : Nat) : Word :=
  let q := queueOf s n
  let m := q.packets.length
  BitVec.ofNat 64 m ||| place (if m = 64 then 1 else 0) 7 ||| place (if queueOpen s c k n true then 1 else 0) 8 |||
    place (if queueOpen s c k n false then 1 else 0) 9 ||| place (qPrio q) 10

/-- QSTAT (R253). -/
def execQstat (g : Guard) (d a : Reg) (s : State) : Out :=
  .next (guarded g s fun t => ctxOnly t fun c k u =>
    let v := srcS u a
    if above v 7 then trapCur u .illop else retireS u d (qstatWord u c k (field v 0 7)) 1)

end Sys2Proof.Machine
end

