-- ==== Sys2Proof/Machine/Links.lean ====
section
/-! DEFINITION. The exchange's links (R436–R438): ports, credits, replay, routing, and what their flits carry. -/
namespace Sys2Proof.Machine

/-! ### Ports and flits -/

def portX (s : State) (p : Nat) : XPort := lookD s.xports p XPort.reset
def modPortX (s : State) (p : Nat) (f : XPort → XPort) : State := { s with xports := put s.xports p (f (portX s p)) }

/-- The header of a flit above its CRC (R436), as a number. -/
def flitHead (f : Flit) : Nat :=
  f.ty * 2 ^ 92 + f.dst * 2 ^ 80 + f.src * 2 ^ 68 + f.vc * 2 ^ 66 + f.seq * 2 ^ 50 + f.data.length * 2 ^ 42 + f.mid

/-- The CRC a flit must carry (R436, log 9). -/
def flitCrc (f : Flit) : W32 := Config.crc32c (natLE 12 (flitHead f) ++ f.data)

/-- The virtual channel of a flit type (R436). -/
def vcOf (ty : Nat) : Nat := match ty with | 0 => 3 | 1 => 2 | 2 => 1 | _ => 0

/-- Whether a flit may go: CREDIT and IDLE need no credit, another needs one of its channel (R437). -/
def mayGo (x : XPort) (f : Flit) : Bool := f.ty == 5 || f.ty == 6 || lookD x.used f.vc 0 < Config.linkCredits f.vc

/-- The oldest flit of a channel that waits, when it may go. -/
def readyFlit (x : XPort) (vc : Nat) : Option Flit :=
  match x.out.find? fun f => f.vc == vc with | some f => if mayGo x f then some f else none | none => none

/-- The next flit to transmit: channel 0 first, then channels 1–3 in turn (R437). -/
def nextFlit (x : XPort) : Option Flit :=
  match readyFlit x 0 with
  | some f => some f
  | none => ([1, 2, 3].map fun i => (x.rr + i - 1) % 3 + 1).findSome? (readyFlit x)

/-- Transmits a flit: it takes its sequence number and CRC, uses a credit, and stays in the replay buffer of 64 (R437). -/
def transmit (s : State) (p : Nat) (f : Flit) : State :=
  let x := portX s p
  let g0 := { f with seq := x.nextTx }
  let g := { g0 with crc := flitCrc g0 }
  let free := f.ty == 5 || f.ty == 6
  emit (modPortX s p fun y =>
    { y with
      out := y.out.erase f, nextTx := (y.nextTx + 1) % 65536
      used := if free then y.used else put y.used f.vc (lookD y.used f.vc 0 + 1)
      rr := if f.vc = 0 then y.rr else f.vc
      replay := (y.replay ++ [g]).drop (y.replay.length + 1 - 64) }) (.flit p g)

/-- Transmits what may go; flits routed to a port that is DOWN wait. -/
def pump (s : State) (p : Nat) : Nat → State
  | 0 => s
  | n + 1 =>
    if (portX s p).down then s
    else match nextFlit (portX s p) with | some f => pump (transmit s p f) p n | none => s

/-- Gives flits to a port. -/
def toPort (s : State) (p : Nat) (l : List Flit) : State :=
  pump (modPortX s p fun x => { x with out := x.out ++ l }) p ((portX s p).out.length + l.length)

/-- The output port of a destination, none for the internal one (R438). -/
def routeOf (s : State) (dst : Nat) : Option Nat :=
  if dst = s.exid.toNat then none
  else if Config.bootRoute dst < 16 then some (Config.bootRoute dst) else none

/-! ### What flits carry (the layout of a payload is the model's: log 23) -/

/-- A payload cut into flitPieces of at most 240 bytes. -/
def flitPieces : Nat → List Byte → List (List Byte)
  | 0, _ => []
  | n + 1, l => if l = [] then [] else l.take 240 :: flitPieces n (l.drop 240)

/-- The flits of a body; the first four bytes give its length. -/
def bodyFlits (src ty dst mid : Nat) (body : List Byte) : List Flit :=
  let all := natLE 4 body.length ++ body
  (flitPieces all.length all).map fun d =>
    { ty := ty, dst := dst, src := src, vc := vcOf ty, seq := 0, mid := mid, crc := 0, data := d }

/-- The bit of MID that marks news of a message. -/
def noteMid : Nat := 2 ^ 41

def msgBody (m : Message) : List Byte :=
  wordsBytes [place m.asid.toNat 52 ||| place m.core 44 ||| place m.dcore 36 ||| place m.chan 32 ||| m.tag.setWidth 64,
             place (if m.tell then 1 else 0) 63] ++ m.data

def msgOf (src mid : Nat) (b : List Byte) : Message :=
  let w0 : Word := BitVec.ofNat 64 (leNat (b.take 8))
  let w1 : Word := BitVec.ofNat 64 (leNat ((b.drop 8).take 8))
  { dev := src, core := field w0 44 8, asid := w0.extractLsb' 52 12, task := none, tag := w0.setWidth 32
    dcore := field w0 36 8, chan := field w0 32 4, mid := mid, tell := w1.getLsbD 63, data := b.drop 16 }

def redBody (x : Contribution) : List Byte :=
  wordsBytes ([place x.op 56 ||| place x.fmt 52 ||| place x.lanes 46 ||| place x.root 32 ||| place x.key.toNat 16 ||| x.round.setWidth 64,
              place (x.nrank % 4096) 52 ||| place x.rank 40 ||| BitVec.ofNat 64 x.tmo,
              place x.asid.toNat 52 ||| place x.core 44 ||| place (if x.poison then 1 else 0) 32 ||| x.who.setWidth 64] ++ x.vals)

/-- NRANK as a number: 0 means 4,096 (R330). -/
def rankCount (n : Nat) : Nat := if n = 0 then 4096 else n

def redOf (src : Nat) (l : List Word) : Contribution :=
  let w0 := nth l 0 0
  let w1 := nth l 1 0
  let w2 := nth l 2 0
  { asid := w2.extractLsb' 52 12, op := field w0 56 8, fmt := field w0 52 4, lanes := field w0 46 6, root := field w0 32 12
    key := w0.extractLsb' 16 16, round := w0.setWidth 16, nrank := rankCount (field w1 52 12), rank := field w1 40 12
    tmo := field w1 0 16, dev := src, core := field w2 44 8, who := w2.setWidth 16, vals := l.drop 3, poison := w2.getLsbD 32 }

def resBody (x : RedResult) : List Byte :=
  wordsBytes ([x.w0, x.w1, place x.asid.toNat 52 ||| place x.core 44 ||| x.who.setWidth 64,
              place x.key.toNat 16 ||| x.round.setWidth 64] ++ x.lanes)

def resOf (l : List Word) : RedResult :=
  let w2 := nth l 2 0
  let w3 := nth l 3 0
  { asid := w2.extractLsb' 52 12, core := field w2 44 8, who := w2.setWidth 16, key := w3.extractLsb' 16 16
    round := w3.setWidth 16, w0 := nth l 0 0, w1 := nth l 1 0, lanes := l.drop 4 }

/-! ### Leaving and landing -/

/-- News of a message: it lies in its receive buffer, or has been delivered, which increments CMPL (R120, R328). -/
def takeNote (s : State) (mid : Nat) (done : Bool) : State :=
  match s.sends.find? fun m => m.mid == mid with
  | none => s
  | some m =>
    match done, m.cmpl with
    | true, some (pa, leaf) =>
      let (t, _, _) := performOp s m.asid.toNat { pa := pa, leaf := leaf } (.atomic 0 8 1 0)
      { t with sends := t.sends.filter fun y => y.mid != mid }
    | true, none => { s with sends := s.sends.filter fun y => y.mid != mid }
    | false, some _ => { s with sends := updFirst s.sends (fun y => y.mid == mid) fun y => { y with landed := true } }
    | false, none => { s with sends := s.sends.filter fun y => y.mid != mid }

/-- The flits of what leaves. -/
def outFlits (s : State) : XOut → List Flit
  | .msg d m => bodyFlits s.exid.toNat 0 d m.mid (msgBody m)
  | .red d x => bodyFlits s.exid.toNat 1 d (s.nextId % 2 ^ 41) (redBody x)
  | .res d x => bodyFlits s.exid.toNat 2 d (s.nextId % 2 ^ 41) (resBody x)
  | .note d mid done => bodyFlits s.exid.toNat 0 d (noteMid + mid) [if done then 1 else 0]

def XOut.dst : XOut → Nat | .msg d _ => d | .red d _ => d | .res d _ => d | .note d _ _ => d

/-- News goes to a device at once. -/
def sendNote (s : State) (dst mid : Nat) (done : Bool) : State :=
  match routeOf s dst with
  | none => takeNote s mid done
  | some p => toPort s p (outFlits s (.note dst mid done))

/-- A message lies in its receive buffer, and its sender's device learns of it. -/
def landMessage (s : State) (m : Message) : State := sendNote { s with messages := s.messages ++ [m] } m.dev m.mid false

/-- Something arrives at the internal port. -/
def landHere (s : State) : XOut → State
  | .msg _ m => landMessage s m
  | .red _ x => { s with redIn := s.redIn ++ [(tickNow s, x)] }
  | .res _ x => { s with resIn := s.resIn ++ [x] }
  | .note _ mid done => takeNote s mid done

/-- Something leaves for its destination. -/
def leave (s : State) (o : XOut) : State :=
  match routeOf s o.dst with
  | none => landHere s o
  | some p => { toPort s p (outFlits s o) with nextId := s.nextId + 1 }

/-- A job's exchange traffic leaves: at level 2 it waits for a tick boundary (R390, R331). -/
def sendOut (s : State) (level : Nat) (o : XOut) : State :=
  if level = 2 then { s with tickOut := s.tickOut ++ [o] } else leave s o

/-- What waits for a tick boundary leaves. -/
def leaveAtTick (s : State) : State := s.tickOut.foldl leave { s with tickOut := [] }

/-- A whole body has arrived. -/
def landBody (s : State) (src mid ty : Nat) (b : List Byte) : State :=
  match ty with
  | 0 => if noteMid ≤ mid then takeNote s (mid - noteMid) (b == [1]) else landMessage s (msgOf src mid b)
  | 1 => landHere s (.red 0 (redOf src (wordsOf (b.length / 8) b)))
  | _ => landHere s (.res 0 (resOf (wordsOf (b.length / 8) b)))

/-- A flit's payload joins what has arrived of its body. -/
def takePiece (s : State) (f : Flit) : State :=
  let mine (x : XFrame) : Bool := x.src == f.src && x.mid == f.mid && x.ty == f.ty
  let got := (match s.frames.find? mine with | some x => x.got | none => []) ++ f.data
  let rest := s.frames.filter fun x => !mine x
  let n := leNat (got.take 4)
  if 4 ≤ got.length && n + 4 ≤ got.length then landBody { s with frames := rest } f.src f.mid f.ty ((got.drop 4).take n)
  else { s with frames := rest ++ [{ src := f.src, mid := f.mid, ty := f.ty, got := got }] }

end Sys2Proof.Machine
end

