-- ==== Sys2Proof/Machine/Reduce.lean ====
section
/-! DEFINITION. The reduction slots of the exchange unit (R330–R333, R456). -/
namespace Sys2Proof.Machine

/-! ### Values -/

/-- Bytes of a value of a reduction format (R330). -/
def redSize (fmt : Nat) : Nat := if fmt = 0 then 4 else if fmt = 1 then 2 else if fmt = 2 then 4 else 8

/-- The operator and the kind of values of a contribution. -/
def xKind (x : Contribution) : OpKind := { op := xredOp x.op, float := decide (x.fmt ≤ 1), bits := if x.fmt = 3 then 64 else 32 }

/-- The floating format of a reduction. -/
def xFmt (fmt : Nat) : Fmt := if fmt = 1 then bf16 else fp32

/-- Whether a value is a NaN of its format. -/
def xNan (fmt : Nat) (v : Word) : Bool := fmt ≤ 1 && (xFmt fmt).read v.toNat == .nan

/-- The lane record of one contribution's value. -/
def xRec (x : Contribution) (v : Word) : Rec :=
  let k := xKind x
  if k.float then floatRec k ((xFmt x.fmt).read v.toNat) 0 0x7F else intRec k (intVal k.bits false v.toNat) 0 0x7F

/-- The values of a contribution: zeros when one was read from a poisoned sector (R332). -/
def xVals (x : Contribution) : List Word := (List.range x.lanes).map fun i => if x.poison then 0 else nth x.vals i 0

/-! ### Results (R332–R334) -/

/-- The lanes of a slot read, with the bits the readings raised. -/
def slotRead (q : RedSlot) : List Word × Xb :=
  let l := q.lanes.map (readRec (xKind q.first) (xFmt q.first.fmt))
  (l.map fun p => BitVec.ofNat 64 p.1, l.foldl (fun b p => b ||| p.2) q.xb)

/-- The ranks that have not contributed. -/
def slotMissing (q : RedSlot) : List Nat := (List.range q.first.nrank).filter fun r => !(q.ranks.any fun p => p.1 == r)

/-- Words 0 and 1 of a slot's record under a RES code. -/
def slotWords (q : RedSlot) (res : Nat) (miss : List Nat) : Word × Word :=
  let (seen, rank) := match q.nanrank with | some r => (1, r) | none => (0, 0)
  (place res 60 ||| place seen 59 ||| place (slotRead q).2.toNat 53 ||| place rank 41 ||| place miss.length 28,
   miss.foldl (fun w r => if r < 64 then w ||| place 1 r else w) 0)

/-- A result for a contributor. -/
def slotResult (q : RedSlot) (res : Nat) (miss : List Nat) (core : Nat) (who : Half) : RedResult :=
  let (w0, w1) := slotWords q res miss
  { asid := q.asid, core := core, who := who, key := q.first.key, round := q.first.round, w0 := w0, w1 := w1, lanes := (slotRead q).1 }

/-- A result goes to every contributor of a slot. -/
def answerAll (s : State) (q : RedSlot) (res : Nat) (miss : List Nat) : State :=
  q.ranks.foldl (fun t p => sendOut t (jobOf s q.asid.toNat).level.toNat (.res p.2.1 (slotResult q res miss p.2.2.1 p.2.2.2))) s

/-- A contribution is refused: code 1 a duplicate, 2 a mismatch (R331). -/
def refuseRed (s : State) (x : Contribution) (code : Nat) : State :=
  sendOut s (jobOf s x.asid.toNat).level.toNat (.res x.dev
    { asid := x.asid, core := x.core, who := x.who, key := x.key, round := x.round, w0 := place 4 60 ||| place code 26, w1 := 0, lanes := [] })

/-- A late contributor receives the lingering result marked LATE (R333, R456). -/
def answerLate (s : State) (x : Contribution) (r : RedResult) : State :=
  let w0 := r.w0 &&& ~~~(place 15 60) ||| place 3 60
  sendOut s (jobOf s x.asid.toNat).level.toNat (.res x.dev { r with core := x.core, who := x.who, w0 := w0 })

/-! ### Slots -/

/-- The slot of a reduction. -/
def findRedSlot (s : State) (x : Contribution) : Option (Nat × RedSlot) :=
  s.redSlots.find? fun p => p.2.asid == x.asid && p.2.first.key == x.key && p.2.first.round == x.round

/-- The lowest free slot of the 64. -/
def freeRedSlot (s : State) : Option Nat := (List.range 64).find? fun i => (look s.redSlots i).isNone

/-- A slot for a first contribution. -/
def newRedSlot (s : State) (x : Contribution) : RedSlot :=
  { asid := x.asid, first := x, ranks := [], lanes := List.replicate x.lanes emptyRec, xb := 0, nanrank := none
    start := s.time.ptime.toNat, lingering := none, missing := [] }

/-- Whether a contribution agrees with the slot's first one (R331). -/
def sameRed (a b : Contribution) : Bool :=
  a.op == b.op && a.fmt == b.fmt && a.lanes == b.lanes && a.nrank == b.nrank && a.tmo == b.tmo

/-- A contribution combined into a slot (R331, R332). -/
def combineRed (q : RedSlot) (x : Contribution) : RedSlot :=
  let vs := xVals x
  { q with
    ranks := q.ranks ++ [(x.rank, x.dev, x.core, x.who)]
    lanes := (q.lanes.zip vs).map fun p => combineRec (xKind x) p.1 (xRec x p.2)
    xb := if x.poison then q.xb ||| xPS else q.xb
    nanrank := if vs.any (xNan x.fmt) then some (match q.nanrank with | some r => min r x.rank | none => x.rank) else q.nanrank }

/-- A contribution at a slot: refused, answered late, or combined; a complete slot delivers its result and frees (R331,
R333). -/
def atSlot (s : State) (i : Nat) (q : RedSlot) (x : Contribution) : State :=
  if (q.ranks.any fun p => p.1 == x.rank) || (q.lingering.isSome && x.rank < q.first.nrank && !q.missing.contains x.rank) then refuseRed s x 1
  else if !sameRed q.first x then refuseRed s x 2
  else
    match q.lingering with
    | some r =>
      let left := q.missing.filter (· != x.rank)
      let t := answerLate s x r
      if left = [] then { t with redSlots := del t.redSlots i } else { t with redSlots := put t.redSlots i { q with missing := left } }
    | none =>
      let c := combineRed q x
      if c.ranks.length = c.first.nrank then answerAll { s with redSlots := del s.redSlots i } c 1 []
      else { s with redSlots := put s.redSlots i c }

/-- A contribution reaches the slots: its own, a free one, or it waits in arrival order (R331). -/
def reachSlots (s : State) (x : Contribution) : State :=
  match findRedSlot s x with
  | some (i, q) => atSlot s i q x
  | none =>
    match freeRedSlot s with
    | some i => atSlot s i (newRedSlot s x) x
    | none => { s with redWait := s.redWait ++ [x] }

/-- Waiting contributions take slots that have become free, in arrival order. -/
def takeFreed (s : State) : Nat → State
  | 0 => s
  | n + 1 =>
    if s.redWait = [] || (freeRedSlot s).isNone then s
    else takeFreed (s.redWait.foldl reachSlots { s with redWait := [] }) n

/-- A contribution arrives. -/
def arriveRed (s : State) (x : Contribution) : State :=
  let t := reachSlots s x
  takeFreed t (t.redWait.length + 1)

/-- What the exchange unit holds of a job goes when the job ends (R333). -/
def dropExchange (s : State) (asid : Nat) : State :=
  let keep (a : BitVec 12) : Bool := a.toNat != asid
  let t := { s with
    redSlots := s.redSlots.filter fun p => keep p.2.asid
    redWait := s.redWait.filter fun x => keep x.asid
    redIn := s.redIn.filter fun x => keep x.2.asid
    resIn := s.resIn.filter fun x => keep x.asid
    messages := s.messages.filter fun m => keep m.asid
    sends := s.sends.filter fun m => keep m.asid
    tickOut := s.tickOut.filter fun o => match o with | .msg _ m => keep m.asid | .red _ x => keep x.asid | .res _ x => keep x.asid | .note _ _ _ => true }
  takeFreed t (t.redWait.length + 1)

/-- The slot timers of a job stop, keeping the time passed, or go on from it (R411). -/
def flipTimers (s : State) (asid : Nat) : State :=
  { s with redSlots := s.redSlots.map fun p => (p.1, if p.2.asid.toNat = asid then { p.2 with start := s.time.ptime.toNat - p.2.start } else p.2) }

end Sys2Proof.Machine
end

