-- ==== Sys2Proof/Machine/Stream.lean ====
section
/-! DEFINITION. Streams (R265–R269): the stream instructions of the sequencer and the edge ports' events. -/
namespace Sys2Proof.Machine

/-- Whether a stream descriptor has a reserved field set or a zero count (R265, R266). -/
def streamIllegal (ws : List Word) : Bool :=
  let w0 := dw ws 0
  field w0 60 2 == 3 || field w0 48 8 != 0 || (field w0 62 2 != 0 && field w0 20 12 != 0) || field (dw ws 1) 0 40 != 0 ||
    dw ws 6 != 0 || dw ws 7 != 0 || (List.range 4).any fun k => field (dw ws (2 + k)) 32 32 == 0

/-- The command a descriptor describes. -/
def streamOf (ws : List Word) (width : Nat) (key : Half) (code number : Nat) : StreamCmd :=
  let w0 := dw ws 0
  let sp := field w0 62 2
  { space := sp, sz := field w0 60 2, write := w0.getLsbD 59, resv := w0.getLsbD 58, lastdim := field w0 56 2,
    base := if sp = 0 then field w0 0 48 else field w0 0 20, handle := w0.extractLsb' 32 16,
    colour := (dw ws 1).extractLsb' 56 8, width := width, next := (dw ws 1).extractLsb' 40 16,
    dims := (List.range 4).map fun k => (field (dw ws (2 + k)) 32 32, signed32 (field (dw ws (2 + k)) 0 32)),
    done := 0, part := [], key := key, code := code, stop := none, fault := none, number := number }

/-- STRM with its descriptor read. -/
def queueStream (c k p : Nat) (ws : List Word) (s : State) : State :=
  let y := coreOf s c
  let x := ctxIn y k
  let col : Byte := (dw ws 1).extractLsb' 56 8
  if streamIllegal ws || !colourActive x col || !x.hportv.getLsbD p then trapCur s .illop
  else
    releasing s c k fun t =>
      retire (modCore t c fun z =>
        { z with
          ports := put z.ports p (lookD z.ports p [] ++ [streamOf ws (colourWidth x col) x.r.key x.seq.pc.toNat z.portNo])
          portNo := z.portNo + 1 }) 1

/-- STRM with its operand read: it stalls at a full port and while the sources are gated. -/
def strmOp (va : Word) (p c k : Nat) (s : State) : State :=
  if va.toNat % 64 ≠ 0 then faultGlobal s va 0 (bareFault .align)
  else if (ctxOf s c k).gates ≠ 0 || 4 ≤ (lookD (coreOf s c).ports p []).length then s
  else readRecord s c k va 64 64 fun t ws => queueStream c k p ws t

/-- STRM (R266). -/
def execStrm (a : Reg) (p : BitVec 4) (s : State) : Out := .next (ctxOnly s (strmOp (srcS s a) p.toNat))

/-- The commands a barrier waits for: those queued on the ports of its mask. -/
def barredBy (y : Core) (mask : Nat) : List (Nat × Nat) :=
  y.ports.flatMap fun p => if mask = 0 ∨ mask / 2 ^ p.1 % 2 = 1 then p.2.map fun q => (p.1, q.number) else []

/-- Whether one of a list of commands is still queued. -/
def stillQueued (y : Core) (l : List (Nat × Nat)) : Bool :=
  l.any fun x => (lookD y.ports x.1 []).any fun q => q.number == x.2

/-- SBAR (R268): it waits for the commands queued before it. -/
def execSbar (a : Reg) (s : State) : Out :=
  .next (ctxOnly s fun c _ t =>
    let y := coreOf t c
    let l := match curWait t with | .ports l => l | _ => barredBy y (field (srcS t a) 0 16)
    if stillQueued y l then waitIn t (.ports l) else retire t 1)

/-- SPOS (R268). -/
def execSpos (d : Reg) (p : BitVec 4) (s : State) : Out :=
  .next (ctxOnly s fun c _ t =>
    let l := lookD (coreOf t c).ports p.toNat []
    let n := match l with | q :: _ => (q.done + q.part.length) % 2 ^ 32 | [] => 0
    retireS t d (BitVec.ofNat 64 n ||| place l.length 32) 1)

/-! ### Runs -/

/-- Elements of a command, and of one sweep of dimensions 0 to LASTDIM. -/
def StreamCmd.total (q : StreamCmd) : Nat := q.dims.foldl (fun n d => n * d.1) 1
def StreamCmd.sweep (q : StreamCmd) : Nat := (q.dims.take (q.lastdim + 1)).foldl (fun n d => n * d.1) 1

/-- The displacement of the n-th element: dimension 0 varies fastest (R265). -/
def elemOffset : List (Nat × Int) → Nat → Int
  | [], _ => 0
  | (c, st) :: r, n => (n % c : Nat) * st + elemOffset r (n / c)

/-- Elements of the next run. -/
def StreamCmd.run (q : StreamCmd) : Nat := min q.width (q.sweep - q.done % q.sweep)
/-- Whether the next run is the last of its sweep. -/
def StreamCmd.lastRun (q : StreamCmd) : Bool := q.done % q.sweep + q.run == q.sweep

/-- The place of an element of the run in its space. -/
def StreamCmd.at_ (q : StreamCmd) (i : Nat) : Int := (q.base : Int) + elemOffset q.dims (q.done + i)
/-- Its address, as R37 and R86 record it. -/
def StreamCmd.addr (q : StreamCmd) (i : Nat) : Nat :=
  if q.space = 0 then (BitVec.ofInt 48 (q.at_ i)).toNat else bufAddr q.handle (BitVec.ofInt 20 (q.at_ i)).toNat

/-- Finds an element of a stream: natural alignment first. -/
def streamSpot (s : State) (c k : Nat) (q : StreamCmd) (i : Nat) : State × Except EFault (List (Spot × Nat)) :=
  let n : Nat := 2 ^ q.sz
  if q.space = 0 ∧ q.at_ i % (n : Int) ≠ 0 then (s, .error ((bareFault .align).engine (q.addr i) false))
  else findRange false s c k 1 q.space q.handle (q.at_ i) n q.write

/-- Finds the elements of a run in order up to the first that faults: their places, and the fault. -/
def findRun (s : State) (c k : Nat) (q : StreamCmd) : List Nat → State × List (Nat × List (Spot × Nat)) × Option EFault
  | [] => (s, [], none)
  | i :: r =>
    match streamSpot s c k q i with
    | (t, .error f) => (t, [], some f)
    | (t, .ok l) => let (u, ls, f) := findRun t c k q r; (u, (i, l) :: ls, f)

/-- Changes a command of a port. -/
def modStream (s : State) (c p : Nat) (q : StreamCmd) (f : StreamCmd → StreamCmd) : State :=
  modCore s c fun y => { y with ports := put y.ports p (updFirst (lookD y.ports p []) (fun z => z.number == q.number) f) }

/-- A stream stops at an element that faults (R269): a record of UNIT 0 that names the STRM. A locked page-table entry only
holds it. -/
def stopStream (s : State) (c k p : Nat) (q : StreamCmd) (f : EFault) : State :=
  let kind := if q.write then 1 else 0
  let info := { seqFault f.cause kind f.space f.addr q.code f.entry f.level with straddle := f.straddle }
  if f.cause = .none then s
  else
    match takeFault (violEngine s c (asidOf (ctxOf s c k)) kind f) c k info with
    | (t, some m) => modStream t c p q fun z => { z with stop := some m, fault := some info }
    | (t, none) => t

/-- Reads an element: its lane, and whether it is poisoned. -/
def readElem (s : State) (c k : Nat) (q : StreamCmd) (i : Nat) (l : List (Spot × Nat)) : State × W32 × Bool :=
  let t := fetchSpots s l
  let bs := readSpots t l
  let bad := bs.any (·.2)
  let t1 := if bad then latchFlow t c k q.space (q.addr i) else t
  (if q.space = 0 then signAccess t1 c k (q.addr i) (2 ^ q.sz) false else t1,
   if bad then 0 else BitVec.ofNat 32 (leNat (bs.map (·.1))), bad)

/-- Writes an element from a token's lanes; a lane the token does not have is a value the spec does not give (log 2,
log 18). -/
def writeElem (s : State) (c k : Nat) (q : StreamCmd) (lanes : List W32) (i : Nat) (l : List (Spot × Nat)) : State :=
  let (v, t) := match lanes[i]? with | some v => (v.toNat, s) | none => let (w, u) := drawFree s; (w.toNat % 2 ^ 32, u)
  let t1 := if q.space = 0 then signAccess t c k (q.addr i) (2 ^ q.sz) true else t
  writeSpots t1 (asidOf (ctxOf t1 c k)) l ((natLE (2 ^ q.sz) v).map fun b => (b, false))

/-- Makes the accesses of elements in order up to one that something holds: their lanes. -/
def makeRun (c k : Nat) (q : StreamCmd) (lanes : List W32) :
    State → List (Nat × List (Spot × Nat)) → State × List (W32 × Bool)
  | s, [] => (s, [])
  | s, (i, l) :: r =>
    if spotsHeld s l then (s, [])
    else if q.write then
      let (u, vs) := makeRun c k q lanes (writeElem s c k q lanes i l) r
      (u, (0, false) :: vs)
    else
      let (t, v, bad) := readElem s c k q i l
      let (u, vs) := makeRun c k q lanes t r
      (u, (v, bad) :: vs)

/-- A stream's run goes on from the element it stands at: under the grant of its buffer's port and the meter (R49, R104); what
it has made stays made, and it stops at an element that faults (R269). Whether the run is whole, with its lanes. -/
def goRun (s : State) (c k p : Nat) (q : StreamCmd) (lanes : List W32) : State × Option (List (W32 × Bool)) :=
  let left := rangeFrom q.part.length (q.run - q.part.length)
  let (t, ls, f) := findRun s c k q left
  match (if q.space = 0 then admitted t c k (left.length * 2 ^ q.sz) (atPort k p) else (t, true)),
        grantSpots t portEdge (ls.flatMap (·.2)) with
  | (u, false), _ => (u, none)
  | _, none => (t, none)
  | (u, true), some g =>
    let (v, new) := makeRun c k q lanes (if q.space = 0 then u else g) ls
    let part := q.part ++ new
    let w := modStream v c p q fun z => { z with part := part, stop := none, fault := none }
    match f with
    | some e => (if new.length = ls.length then stopStream w c k p q e else w, none)
    | none => (w, if part.length = q.run then some part else none)

/-- A run has been made. -/
def ranStream (s : State) (c k p : Nat) (q : StreamCmd) : State :=
  markProgress (modStream s c p q fun z => { z with done := z.done + q.run, part := [], next := z.next + 1 }) c k

/-- A read stream's run: one token (R266). -/
def readStream (s : State) (c k p : Nat) (q : StreamCmd) : State :=
  let x := ctxOf s c k
  if !colourActive x q.colour then takeTrap s c k (plainTrap .illop 0) false
  else if !tagOpen s c k q.colour q.next || 2 ≤ (lookD (coreOf s c).hpOut (p * 4 + k) []).length then s
  else
    match goRun s c k p q [] with
    | (t, none) => t
    | (t, some l) =>
      let tok : Token := { colour := q.colour, iter := q.next, src := 0, last := q.lastRun,
                           lanes := (List.range q.width).map fun i => (nth l i (0, false)).1,
                           xb := if l.any (·.2) then xPS else 0 }
      ranStream (hpEmit t c k p tok none) c k p q

/-- A write stream's run: the next token at the port. -/
def writeStream (s : State) (c k p : Nat) (q : StreamCmd) : State :=
  match lookD (coreOf s c).hport (p * 4 + k) [] with
  | [] => s
  | f :: r =>
    match goRun s c k p q f.tok.lanes with
    | (t, none) => t
    | (t, some _) => ranStream (modCore t c fun y => { y with hport := put y.hport (p * 4 + k) r }) c k p q

/-- Whether a stream's sources are open and it is not stopped. -/
def streamMoves (s : State) (c k : Nat) (q : StreamCmd) : Bool :=
  let x := ctxOf s c k
  engineMoves s c k && x.gates == 0 && (match q.stop with | some n => isReleased x.r n | none => true)

/-- STREAM_RUN (R266): the oldest command of a port makes its next run. -/
def execStreamRun (c p : Nat) (s : State) : Out :=
  .next (
    let y := coreOf s c
    match lookD y.ports p [] with
    | [] => s
    | q :: _ =>
      match slotOf y q.key with
      | none => s
      | some k =>
        if !streamMoves s c k q || q.total ≤ q.done then s
        else if q.write then writeStream s c k p q else readStream s c k p q)

/-- STREAM_COMPLETE (R267). -/
def execStreamComplete (c p : Nat) (s : State) : Out :=
  .next (
    let y := coreOf s c
    match lookD y.ports p [] with
    | [] => s
    | q :: r =>
      match slotOf y q.key with
      | none => s
      | some k =>
        if q.done < q.total || (!q.write && lookD y.hpOut (p * 4 + k) [] != []) then s
        else markProgress (modCore s c fun z => { z with ports := put z.ports p r }) c k)

end Sys2Proof.Machine
end

