-- ==== Sys2Proof/Machine/Translation.lean ====
section
/-! DEFINITION. Walks that were left in flight (R30, R31, R34), and units stopped at a fault (R41). -/
namespace Sys2Proof.Machine

/-! ### Walks -/

/-- Starts queued walks of a domain, in arrival order, while its pool has room (R31). -/
def startQueued (domain : Nat) : List Walk → List Walk → List Walk
  | done, [] => done
  | done, w :: r =>
    let busy := walksBusy done domain ++ walksBusy r domain
    let ok := w.started || (coreStack w.core == domain && (busy.contains (w.asid.toNat, w.va / 4096) || busy.eraseDups.length < 64))
    startQueued domain (done ++ [{ w with started := ok }]) r

/-- The contexts of a core whose sequencer waits for a walk. -/
def walkWaiters (s : State) (c id : Nat) : List Nat :=
  (List.range 4).filter fun k => (ctxOf s c k).seq.wait == .walk id

/-- A walk that ends in a fault: its requester's access faults (R30, R35). -/
def walkFaults (s : State) (w : Walk) (f : XFault) : State :=
  (walkWaiters s w.core w.id).foldl (fun t k =>
    { faultSpan { t with cur := .seq w.core k } (BitVec.ofNat 64 w.va) 1 w.kind w.acc f with cur := t.cur }) s

/-- What the access of a walk needs of its page: SC operations, KIND 7, admit no host page (R14). -/
def Walk.need (w : Walk) : Need := { needLoad with write := w.write, host := w.kind != 7 }

/-- A walk answered: its requester goes on. -/
def walkAnswered (s : State) (w : Walk) : State :=
  (walkWaiters s w.core w.id).foldl (fun t k => modCtx t w.core k fun x => { x with seq := { x.seq with wait := .none } }) s

/-- One request of a walk that found a leaf: its access faults in the leaf's check, or the bay TLB and its micro-TLB are
filled and it goes on. -/
def walkFinds (x : TlbEntry) (l : Leaf) (s : State) (v : Walk) : State :=
  match leafFault v.need l.entry (l.base + v.va % (4096 * 2 ^ l.span)) l.entry l.level with
  | some f => walkFaults s v f
  | none => walkAnswered (tlbFill s v.core x) v

/-- WALK_COMPLETE (R30, R31): the walk reads its entries, sets A and D, and fills the bay TLB and the micro-TLBs of the
requests it answers: those of its ASID in the same pool whose page lies in the page found. A walk that a range lock holds
goes on waiting (R97). -/
def execWalkComplete (i : Nat) (s : State) : Out :=
  .next (
    match s.walks.find? fun w => w.id == i && w.started with
    | none => s
    | some w =>
      let same (v : Walk) : Bool := v.asid == w.asid && coreStack v.core == coreStack w.core && v.root == w.root
      let drop (t : State) (p : Walk → Bool) : State :=
        { t with walks := startQueued (coreStack w.core) [] (t.walks.filter fun v => !p v) }
      match walk s w.root w.va with
      | .error f =>
        let p (v : Walk) : Bool := same v && v.va / 4096 == w.va / 4096
        if f.cause = .none then s
        else (s.walks.filter p).foldl (fun t v => walkFaults t v f) (drop s p)
      | .ok l =>
        let p (v : Walk) : Bool := same v && v.va / 4096 / 2 ^ l.span == w.va / 4096 / 2 ^ l.span &&
          (!v.write || w.write || !l.entry.getLsbD 2)
        let clean := (leafFault w.need l.entry (l.base + w.va % (4096 * 2 ^ l.span)) l.entry l.level).isNone
        let (t, e) := setAD s l (w.write && clean)
        let x := leafEntry t w.asid.toNat w.va l e
        (s.walks.filter p).foldl (walkFinds x l) (drop t p))

/-! ### Units stopped at a fault -/

/-- Whether a stop has been released. -/
def stopReleased (x : Ctx) (n : Option Nat) : Bool := match n with | some m => isReleased x.r m | none => false

/-- Whether a TLBINV of a job's translations is still to retire (R33): the servicing of a fault may have issued it. -/
def invPending (s : State) (asid : Nat) : Bool :=
  let of (w : Wait) : Bool := match w with | .inval none => true | .inval (some a) => a == asid | _ => false
  (s.svcs.any fun p => of p.2.seq.wait) || s.cores.any fun p => p.2.ctxs.any fun q => of q.2.seq.wait

/-- Instances whose records are released wait for them no longer. -/
def releaseInsts (x : Ctx) : Ctx :=
  { x with insts := x.insts.map fun i => if stopReleased x i.waitSeq then { i with waitSeq := none, fault := none } else i }

/-- FAULTED_UNIT_RESTART (R41): once its record is released, a unit of a context goes on from its stop point: 0 the
sequencer, 1 block instances, 2 the copy engine, 3 the block front end, 4 the configuration cache, 5 streams, 6 the
ordered accesses behind a faulted atomic (R401). -/
def execFaultedUnitRestart (c k i : Nat) (s : State) : Out :=
  .next (
    let x := ctxOf s c k
    match i with
    | 0 => if stopReleased x x.seqStop then modCtx s c k fun y => { y with seqStop := none } else s
    | 1 => if regionMoves s c k && x.gates < 2 && !invPending s (asidOf x) then presentReady (modCtx s c k releaseInsts) c k else s
    | 2 => modCore s c fun y => { y with copies := y.copies.map fun z =>
        if z.key = x.r.key ∧ stopReleased x z.stop then { z with stop := none } else z }
    | 3 => if stopReleased x x.feStop then modCtx s c k fun y => { y with feStop := none } else s
    | 4 => modCtx s c k fun y => { y with cfgStop := y.cfgStop.filter fun p => !isReleased y.r p.2 }
    | 5 => modCore s c fun y => { y with ports := y.ports.map fun p => (p.1, p.2.map fun z =>
        if z.key = x.r.key ∧ stopReleased x z.stop then { z with stop := none } else z) }
    | _ => if regionMoves s c k then performLate s c k 64 else s)

end Sys2Proof.Machine
end

