-- ==== Sys2Proof/Machine/Members.lean ====
section
/-! DEFINITION. The end of members and of jobs (R388, R400), the watchdog (R399), quiescence (R402), save and restore
(R196, R403–R407). -/
namespace Sys2Proof.Machine

/-! ### Ends (R388, R400) -/

/-- Whether a context's engines have finished: copies retired, near-memory commands completed, bindings drained, fabric
queue empty. -/
def enginesDone (s : State) (c k : Nat) : Bool :=
  let y := coreOf s c
  let x := ctxIn y k
  !(y.copies.any fun z => z.key == x.r.key) && x.nmOut == 0 &&
    (x.binds.all fun b => b.2.plane.isNone && b.2.state != .firing && b.2.state != .draining) &&
    !(y.mq.owner == some x.r.key && (y.mq.queue != [] || y.mq.busy))

/-- Whether every block instance of a context has committed and no chain of it goes on. -/
def instancesDone (x : Ctx) : Bool :=
  x.insts.isEmpty && x.late.isEmpty && (match x.chain with | some h => !h.active | none => true)

/-- The firings of a context that goes stay counted while a checkpoint is in force (R431). -/
def countEnded (s : State) (c k : Nat) : State :=
  let x := ctxOf s c k
  modJob s (asidOf x) fun j => if j.ckValid then { j with fires := put j.fires c (lookD j.fires c 0 + x.fires) } else j

/-- The tokens and placements of a member are discarded, its handles released, its slot and quota freed. -/
def closeSlot (s : State) (c k : Nat) : State :=
  let t := countEnded (releaseHandles (abandon s c k) c k) c k
  modCtx (modCore t c fun y => clearWays y k) c k fun x => endedSlot x .free

/-- MEMBER_END (R388): once its HALT has retired and everything it began has ended. -/
def execMemberEnd (c k : Nat) (s : State) : Out :=
  .next (
    let x := ctxOf s c k
    if !x.seq.stopped || !ctxMoves s c k || x.trap.isSome || !instancesDone x || !enginesDone s c k then sweepTasks s
    else
      match drainContext s c k with
      | (t, false) => t
      | (t, true) => sweepTasks (taskEnded (closeSlot t c k) x.task x.member false))

/-- A context of a killed job ends without a save. -/
def killContext (s : State) (c k : Nat) : State :=
  let x := ctxOf s c k
  taskEnded (closeSlot s c k) x.task x.member true

/-- A saved context of a killed job is dropped: it stands in a place of its own while its handles return. -/
def killSaved (s : State) (c : Nat) (y : Saved) : State :=
  let t := modCore s c fun z => { z with ctxs := put z.ctxs 4 y.ctx, saved := z.saved.filter fun w => w.key != y.key }
  let u := killContext t c 4
  modCore u c fun z => { z with ctxs := del z.ctxs 4 }

/-- KILL (R400): every context of the job ends, its tasks retire without DONE, its queues keep their packets. -/
def killJob (s : State) (asid : Nat) : State :=
  let s1 := s.cores.foldl (fun t p =>
    let t1 := (p.2.ctxs.filter fun q => q.2.r.state.resident && asidOf q.2 == asid).foldl (fun u q => killContext u p.1 q.1) t
    (p.2.saved.filter fun y => asidOf y.ctx == asid).foldl (fun u y => killSaved u p.1 y) t1) s
  sweepTasks (dropExchange { s1 with
    tasks := s1.tasks.map fun t => if t.asid.toNat = asid ∧ !t.retired then { t with lost := true, ended := List.range t.cores.length } else t } asid)

/-! ### The watchdog (R399) -/

/-- WATCHDOG_EXPIRE (R399): a context that is neither gated, clamped nor saved has made no progress for LIMIT cycles. -/
def execWatchdogExpire (c k : Nat) (s : State) : Out :=
  .next (
    let x := ctxOf s c k
    if x.r.state ≠ .running ∨ x.trap.isSome ∨ x.r.wdlim = 0 ∨ s.cycle < x.progress + x.r.wdlim.toNat then s
    else takeTrap s c k (plainTrap .watchdog 7) false)

/-! ### Quiescence (R402) -/

/-- Whether a matched set of a way exists. -/
def wayMatched (y : Core) (k : Nat) : Bool := y.elems.any fun p => p.2.ready.any fun r => r.way == k
/-- Whether a firing of a way is in flight. -/
def wayFiring (y : Core) (k : Nat) : Bool :=
  (y.elems.any fun p => match p.2.issuing with | some r => r.way == k | none => false) ||
    (y.results.any fun r => r.way == k) || (y.loads.any fun r => r.firing.way == k) || y.hold.any fun h => h.2.1.way == k

/-- QUIESCENCE_DRAIN_END (R402): after 1,024 cycles, or when nothing is matched and no firing is in flight. -/
def execQuiescenceDrainEnd (c k : Nat) (s : State) : Out :=
  .next (
    let x := ctxOf s c k
    if x.gates ≠ 1 ∨ x.r.state ≠ .gated then s
    else if x.gateAt + 1024 ≤ s.cycle || !(wayMatched (coreOf s c) k || wayFiring (coreOf s c) k) then
      modCtx s c k fun z => { z with gates := 2, gateAt := s.cycle }
    else s)

/-- Issued firings that are still to deliver, those that wait on memory in an instance apart. -/
def deliveryPending (y : Core) (k : Nat) : Bool :=
  (y.elems.any fun p => match p.2.issuing with | some r => r.way == k && r.inst == 0 | none => false) ||
    (y.results.any fun r => r.way == k && r.even.src == 0) ||
    (y.loads.any fun r => r.firing.way == k && r.firing.even.src == 0) || y.hold.any fun h => h.2.1.way == k && h.2.1.inst == 0

/-- Aborts the uncommitted instances from the oldest that is not COMPLETE on. -/
def stopInsts (s : State) (c k : Nat) : State :=
  match (ctxOf s c k).insts.find? fun i => i.state == .live with
  | some i => abortFrom s c k i.age
  | none => s

/-- A token's place in a matching store. -/
def seatFlight (e slot opnd : Nat) (t : Token) : Flight :=
  { tok := t, dest := { elem := e, slot := slot, opnd := opnd }, entry := 0, origin := (64, 0), hops := 0 }

/-- The tokens of a set, each at its operand. -/
def setFlights (e : Nat) (r : RSet) : List Flight :=
  (r.toks.zip (List.range r.toks.length)).map fun p => seatFlight e r.slot p.2 p.1

/-- The stranded tokens of a branch that has not accepted, and the hard port it is bound for. -/
def portFlights (y : Core) (e key : Nat) (r : PortReg) : List (Option Nat × Flight) :=
  ((branches (wayOf y e (key / 4)) (key % 4)).filter fun q => !r.done.getLsbD q).map fun q =>
    let w := swtOf (wayOf y e (key / 4)) (key % 4) q
    (if swtKind w = 0 then none else some (if swtKind w = 2 then 28 else swtId w),
     { tok := portTok r q, dest := entryDest w, entry := w, origin := (e, r.slot), hops := 0 })

/-- Where a token in a channel is bound: a hard port, or an element. -/
def boundFor (f : Flight) : Option Nat := if swtUsed f.entry && swtKind f.entry == 1 then some (swtId f.entry) else none

/-- Every stranded token of a way (R402): in matching stores, ready queues, skid buffers and channels. -/
def stranded (y : Core) (k : Nat) : List (Option Nat × Flight) :=
  let chan (l : List Flight) : List (Option Nat × Flight) := l.map fun f => (boundFor f, f)
  (y.elems.flatMap fun p =>
    (p.2.store.filter fun m => m.way == k).flatMap (fun m => m.opnds.map fun o => (none, seatFlight p.1 m.slot o.1 o.2)) ++
    (p.2.ready.filter fun r => r.way == k).flatMap (fun r => (setFlights p.1 r).map fun f => (none, f)) ++
    (between p.2.ports (4 * k) (4 * k + 4)).flatMap fun q => portFlights y p.1 q.1 q.2) ++
  (y.skid.filter fun p => p.1 / 40 % 4 == k).flatMap (fun p => chan p.2) ++
  (y.hport.filter fun p => p.1 % 4 == k).flatMap (fun p => p.2.map fun f => (some (p.1 / 4), f)) ++
  (y.hpOut.filter fun p => p.1 % 4 == k).flatMap (fun p => chan p.2) ++
  (y.door.filter fun p => p.1 == k).map fun p => (none, p.2)

/-- The region of a way without the tokens that have been captured. -/
def emptyWay (y : Core) (k : Nat) : Core :=
  { y with
    elems := y.elems.map fun p => (p.1, { p.2 with
      store := p.2.store.filter fun m => m.way != k
      ready := p.2.ready.filter fun r => r.way != k
      ports := without p.2.ports (4 * k) (4 * k + 4) })
    skid := y.skid.filter fun p => p.1 / 40 % 4 != k
    hport := y.hport.filter fun p => p.1 % 4 != k
    hpOut := y.hpOut.filter fun p => p.1 % 4 != k
    door := y.door.filter fun p => p.1 != k }

/-- Bytes of the checkpoint buffer a token takes: a mark of 16 bytes and its lanes. -/
def ckptBytes (t : Token) : Nat := 16 + 16 * ((t.lanes.length + 3) / 4)
/-- Bytes in use. -/
def ckptUsed (x : Ctx) : Nat := (flightToks x.ckpt ++ x.ckptPort.map (·.2.tok)).foldl (fun n t => n + ckptBytes t) 0

/-- A token that no room is left for goes back to its channel. -/
def strandBack (y : Core) (k : Nat) (p : Option Nat × Flight) : Core :=
  match p.1 with
  | some h => { y with hport := put y.hport (h * 4 + k) (lookD y.hport (h * 4 + k) [] ++ [p.2]) }
  | none => { y with door := y.door ++ [(k, p.2)] }

/-- Captures a stranded token: in the checkpoint buffer's 16 KiB, else as an overflow record, else where it waits. -/
def captureToken (c k : Nat) (s : State) (p : Option Nat × Flight) : State :=
  let x := ctxOf s c k
  if ckptUsed x + ckptBytes p.2.tok ≤ 16384 then
    modCtx s c k fun z =>
      match p.1 with
      | some h => { z with ckptPort := z.ckptPort ++ [(h, p.2)] }
      | none => { z with ckpt := z.ckpt ++ [p.2] }
  else if p.1.isNone && x.r.ovfbase.getLsbD 0 && (freeRecord x).isSome then (divert s c k none p.2.dest p.2.tok).1
  else modCore s c fun y => strandBack y k p

/-- QUIESCENCE_STOP_END (R402): once issued firings have delivered and the COMPLETE instances have committed, or after
544 cycles, every other uncommitted instance is aborted and the stranded tokens are captured. -/
def execQuiescenceStopEnd (c k : Nat) (s : State) : Out :=
  .next (
    let x := ctxOf s c k
    let late : Bool := x.gateAt + 544 ≤ s.cycle
    let committing : Bool := match x.insts with | i :: _ => i.state == .complete | [] => false
    if x.gates ≠ 2 ∨ x.r.state ≠ .gated ∨ deliveryPending (coreOf s c) k || (committing && !late) then s
    else
      let t := stopInsts s c k
      let l := stranded (coreOf t c) k
      let u := l.foldl (captureToken c k) (modCore t c fun y => emptyWay y k)
      modCtx u c k fun z => { z with gates := 3, gateAt := u.cycle })

/-- Whether a context's engines stand at a stop boundary (R99, R353, R376). -/
def enginesQuiet (s : State) (c k : Nat) : Bool :=
  let y := coreOf s c
  let key := (ctxIn y k).r.key
  (match y.mmBusy with | some (j, _) => j != k | none => true) && !(y.mq.owner == some key && mqUnfinished s c)

/-- The engine's boundary: a firing in progress is between its k-groups, a fabric command between its contexts. -/
def parkEngines (s : State) (c k : Nat) : State :=
  let key := (ctxOf s c k).r.key
  modCtx (modCore s c fun y => { y with
    mmBusy := (match y.mmBusy with | some (j, b) => if j = k then none else some (j, b) | none => none) }) c k fun x =>
    if x.r.key = key then { x with binds := x.binds.map fun b => (b.1, { b.2 with rows := none }) } else x

/-- QUIESCENCE_REPORT (R402): the tree reports the context quiescent after the capture; a gather in progress is
abandoned (R353). -/
def execQuiescenceReport (c k : Nat) (s : State) : Out :=
  .next (
    let x := ctxOf s c k
    if x.gates ≠ 3 ∨ x.r.state ≠ .gated then s
    else modRegs (parkEngines s c k) c k fun r => { r with state := .quiescent })

/-! ### Save (R403–R405) -/

/-- The bytes of a placement record (R196). -/
def placeRecord (p : Placement) : List Byte :=
  let (pinned, pin) := match p.pin with | some (n, _) => (1, n) | none => (0, 0)
  let h : Word := place 1 63 ||| place pinned 62 ||| place pin 58 ||| place p.count 51 ||| BitVec.ofNat 64 (p.va % 2 ^ 48)
  let l := natLE 8 h.toNat ++ p.map.flatMap (fun w => natLE 4 w.toNat) ++
    p.routes.flatMap fun r => BitVec.ofNat 8 r.length :: r.map fun o => BitVec.ofNat 8 o
  l ++ natLE ((8 - l.length % 8) % 8) 0

/-- The lane records of a context's laminated registers, in register order, then its ACC runs, then its held planes. -/
def thirdSection (y : Core) (k : Nat) : List Byte :=
  let x := ctxIn y k
  (x.lam.flatMap fun p => p.2.home.flatMap fun r => natLE 48 r.toNat) ++
  (y.elems.flatMap fun e => (between e.2.acc (32 * k) (32 * k + 32)).flatMap fun a => a.2.flatMap fun r =>
    r.lanes.flatMap fun l => natLE 48 l.toNat) ++
  (x.binds.flatMap fun b => match b.2.plane with | some m => m.flatMap fun r => r.flatMap fun w => natLE 4 w.toNat | none => [])

/-- The sections of a save: offset in the member area, and bytes. The layout of the rest of the first section and of the
second is not given: the saved context holds them (log 11). -/
def saveParts (s : State) (c k : Nat) : List (Nat × List Byte) :=
  let y := coreOf s c
  let x := ctxIn y k
  [(0, (List.range 32).flatMap fun i => natLE 8 (imageReg x i).toNat),
   (0x8000, thirdSection y k),
   (0x60000, x.places.flatMap placeRecord ++ natLE 8 0)]

/-- Settles every laminated register, pushes in transit included. -/
def settleAll (s : State) (c k : Nat) : State :=
  ((ctxOf s c k).lam.map (·.1)).foldl (fun t n => settleLam (modCtx t c k fun x => landPush x n) c k n) s

/-- The side registers go into the image when the pair is the context's (R353). -/
def takeSide (s : State) (c k : Nat) : State :=
  let y := coreOf s c
  if y.smPair = some (ctxIn y k).r.key then
    modCore (modCtx s c k fun x => { x with side := some (y.m, y.l) }) c fun z => { z with smPair := none }
  else s

/-- The context leaves its slot for the saved contexts of its core. -/
def leaveSlot (s : State) (c k kb : Nat) : State :=
  let t := takeSide s c k
  modCore t c fun y =>
    let x := ctxIn y k
    let ctx : Ctx := { x with r := { x.r with state := .saved, imgkb := BitVec.ofNat 16 kb }
                              binds := x.binds.map fun b => (b.1, { b.2 with out := b.2.out || b.2.plane.isSome }) }
    let v : Saved :=
      { key := x.r.key, ctx := ctx
        gens := y.elems.filterMap fun e => (look e.2.gen k).map fun g => (e.1, g)
        accs := y.elems.flatMap fun e => (between e.2.acc (32 * k) (32 * k + 32)).map fun a => (e.1 * 32 + a.1 % 32, a.2) }
    let z := clearWays (emptyWay y k) k
    { z with ctxs := put z.ctxs k (endedSlot x .free), saved := z.saved ++ [v] }

/-- Whether a save write meets an address outside HBM4, or a sector with an uncorrectable error that it covers in part
(R404, R85). -/
def saveMeets (s : State) (a n : Nat) : Bool :=
  !isHbm a || !isHbm (a + n) || (unitsOf 64 a n).any fun q => s.poison.contains q && coverMask 64 a n q != 2 ^ 64 - 1

/-- Performs what a save must wait for (R145): the committed effects, unless a fault holds the first of them (R401), the
accesses in flight, and the near-memory commands on their way; whether all is done. -/
def saveRelease (s : State) (c k : Nat) : State × Bool :=
  let (t, ok) := drainContext (performLate s c k 64) c k
  let x := ctxOf t c k
  (t, ok && !nmOnWay t c x.r.key && (match x.late with | [] => true | l :: _ => l.stop.isSome))

/-- CONTEXT_SAVED (R403–R405): the save releases at DEV scope, settles the laminated registers, writes its sections by
physical address, and frees the slot; a write that meets an uncorrectable error or leaves HBM4 is the SAVEAREA machine
check. -/
def execContextSaved (c k : Nat) (s : State) : Out :=
  .next (
    let x := ctxOf s c k
    if x.r.state ≠ .saving ∨ !enginesQuiet s c k then s
    else
      match saveRelease s c k with
      | (t, false) => t
      | (t, true) =>
        let u := settleAll t c k
        let parts := saveParts u c k
        if parts.any fun p => saveMeets u (x.area + p.1) p.2.length then
          sweepTasks (loseContext u c k 0 0)
        else
          let bytes := parts.foldl (fun n p => n + p.2.length) 0
          leaveSlot (parts.foldl (fun v p => hbmWrite v (x.area + p.1) p.2 false) u) c k ((bytes + 1023) / 1024))

/-! ### Freezing (R407, R411) -/

/-- Whether a CTXSAVE of a resident context is under way, which a clamp lets finish. -/
def saveUnderWay (s : State) (c : Nat) (key : Half) : Bool := s.svcs.any fun p => p.2.seq.wait == .saving c key

/-- A waiting instruction's timeout stops counting: it keeps the cycles that have passed. -/
def stopTimer (cycle : Nat) (w : Wait) : Wait := match w with | .since t => .since (cycle - t) | _ => w

/-- The clamp freezes a resident context. -/
def freezeCtx (s : State) (c k : Nat) : State :=
  let x := ctxOf s c k
  if !ctxMoves s c k || saveUnderWay s c x.r.key then s
  else
    let t := modCtx (parkEngines s c k) c k fun y =>
      { y with r := { y.r with state := .clamped, prev := x.r.state }
               seq := { y.seq with wait := stopTimer s.cycle y.seq.wait } }
    trace t c k 8 0 0 0

/-! ### Restore (R196, R406) -/

/-- Puts a saved context into a slot, RESTORING; its FQPTR takes the TAIL of the image when that is in order (R42). -/
def enterSlot (s : State) (c k : Nat) (v : Saved) : State :=
  let img : Word := BitVec.ofNat 64 (readLE s.hbm (v.ctx.area + 0x10) 8)
  let t : BitVec 6 := img.extractLsb' 8 6
  let s1 := modCore s c fun y => { y with
    saved := y.saved.filter fun z => z.key != v.key
    elems := v.gens.foldl (fun l g => put l g.1 { lookD l g.1 Elem.reset with gen := put (lookD l g.1 Elem.reset).gen k g.2 })
      (v.accs.foldl (fun l a =>
        let e := lookD l (a.1 / 32) Elem.reset
        put l (a.1 / 32) { e with acc := put e.acc (32 * k + a.1 % 32) a.2 }) y.elems)
    ctxs := put y.ctxs k { v.ctx with r := { v.ctx.r with state := .restoring } } }
  if tailOk v.ctx.r t then releaseTo s1 c k t else s1

/-- The routes of a record, `n` of them from an address on: a length and the outputs; and where they end. -/
def recordRoutes (m : List Host.Cell) : Nat → Nat → List (List Nat) × Nat
  | 0, a => ([], a)
  | n + 1, a =>
    let h := (readByte m a).toNat
    let (l, z) := recordRoutes m n (a + 1 + h)
    ((readBytes m (a + 1) h).map (·.toNat) :: l, z)

/-- The placement that a record at an address describes, for the block it names, and where the next record stands. What the
record does not hold, the number by which instances name the placement and a pin's colour, the saved context keeps. -/
def recordPlacement (m : List Host.Cell) (a : Nat) (b : Blk) (kept : Option Placement) (id : Nat) : Placement × Nat :=
  let h : Word := BitVec.ofNat 64 (readLE m a 8)
  let n := field h 51 7
  let map := (List.range n).map fun i => BitVec.ofNat 32 (readLE m (a + 8 + 4 * i) 4)
  let (routes, z) := recordRoutes m (routesOf b (map.map seatOf)).length (a + 8 + 4 * n)
  ({ id := match kept with | some p => p.id | none => id
     va := field h 0 48
     pin := if h.getLsbD 62 then some (field h 58 4, match kept with | some p => (match p.pin with | some q => q.2 | none => 0xFF) | none => 0xFF)
            else none
     unpinning := match kept with | some p => p.unpinning | none => false
     count := n, exits := b.exits, scount := b.scount, lcount := b.lcount, nopred := b.nopred, map := map, routes := routes },
   z + (8 - (z - a) % 8) % 8)

/-- Writes the recorded placements back in order, from a record on; the first that cannot be ends the write-back (R196). A
lock that holds a fetch holds the write-back. -/
def writeAll (s : State) (c k : Nat) (kept : List Placement) : Nat → Nat → State × CfgEnd Unit
  | 0, _ => (s, .got ())
  | fuel + 1, a =>
    let h : Word := BitVec.ofNat 64 (readLE s.hbm a 8)
    let maps := (List.range (field h 51 7)).map fun i => BitVec.ofNat 32 (readLE s.hbm (a + 8 + 4 * i) 4)
    if !h.getLsbD 63 then (s, .got ())
    else
      match readBlock s c k (field h 0 48) with
      | (t, .got b) =>
        if blockBad (ctxOf t c k).hportv b || b.count != field h 51 7 then (t, .bad)
        else
          match fetchAll t c k ((maps.map mapElem).eraseDups) with
          | (u, .got _) =>
            let x := ctxOf u c k
            let (p, next) := recordPlacement u.hbm a b (kept.find? fun q => q.va == field h 0 48) x.nextPlace
            (match writeBack (coreOf u c) k b p with
             | some y =>
               writeAll (modCtx (setCore u c y) c k fun z => { z with places := z.places ++ [p], nextPlace := z.nextPlace + 1 })
                 c k kept fuel next
             | none => (u, .bad))
          | (u, f) => (u, f)
      | (t, .fault f va z) => (t, .fault f va z)
      | (t, .poison va) => (t, .poison va)
      | (t, .bad) => (t, .bad)

/-- Rebuilds a restored context's way: the box records of its image, then its placements from their records. -/
def rebuildWay (s : State) (c k : Nat) : State × CfgEnd Unit :=
  let x := ctxOf s c k
  let t := modCtx s c k fun z => { z with places := [] }
  let back (u : State) : State × CfgEnd Unit := writeAll u c k x.places 2048 (x.area + 0x60000)
  if !x.image.getLsbD 63 then back t
  else match loadImage t c k (field x.image 0 48) with
    | (u, .got _) => back u
    | r => r

/-- The side registers come back when the context's pair is active (R353). -/
def giveSide (s : State) (c k : Nat) : State :=
  match (ctxOf s c k).side with
  | none => s
  | some (m, l) =>
    let key := (ctxOf s c k).r.key
    modCtx (modCore s c fun y => { y with m := m, l := l, smPair := some key, smKey := some key }) c k fun x => { x with side := none }

/-- RESTORE_COMPLETE (R196, R407): the way is rebuilt and the context goes on in the state it held before the save,
gated or running; a record that cannot be written back raises JIGFAIL before the first firing. -/
def execRestoreComplete (c k : Nat) (s : State) : Out :=
  .next (
    let x := ctxOf s c k
    if x.r.state ≠ .restoring ∨ (x.side.isSome ∧ (coreOf s c).smPair.isSome) then s
    else
      let (t, end_) := rebuildWay (giveSide s c k) c k
      let ok : Bool := match end_ with | .got _ => true | _ => false
      let held : Bool := match end_ with | .fault f _ _ => f.cause == Cause.none | _ => false
      if held then s
      else
      let gone := (ctxOf t c k).places.map (·.id)
      let u := modCtx t c k fun z => { z with
        r := { z.r with state := .gated, jigstat := if ok then z.r.jigstat else (z.r.jigstat &&& 0x00FFFFFFFFFFFFFF) ||| place 4 56 }
        insts := z.insts.filter fun i => gone.contains i.place
        progress := t.cycle }
      let v := if x.r.prev = .running then openSources u c k else u
      let w := if ok then v else takeTrap v c k (plainTrap .jigfail 3) false
      if (jobOf w (asidOf x)).clamped then freezeCtx w c k else w)

/-! ### CTXSAVE and CTXREST (R257, R405–R407) -/

/-- The slot of a core whose resident context has a key. -/
def keySlot (s : State) (c : Nat) (key : Half) : Option Nat := slotOf (coreOf s c) key

/-- One step of a save of the context in a slot: it is gated, and once quiescent it is saved. -/
def advanceSave (s : State) (c k : Nat) : State :=
  let x := ctxOf s c k
  match x.r.state with
  | .running => modRegs (closeSources s c k) c k fun r => { r with prev := .running }
  | .quiescent => modRegs s c k fun r => { r with state := .saving }
  | _ => s

/-- CTXSAVE with its operands read, on a service core. -/
def ctxsaveOp (d : Reg) (a b : Word) (s : State) : State :=
  let c := a.toNat
  match curWait s with
  | .saving _ key =>
    match keySlot s c key with
    | some k => advanceSave s c k
    | none => if (coreOf s c).saved.any fun v => v.key == key then retireS s d (key.setWidth 64) 1 else trapCur s .illop
  | _ =>
    let k := b.toNat
    if Config.cores ≤ c ∨ 4 ≤ k then trapCur s .illop
    else
      let x := ctxOf s c k
      match x.r.state with
      | .free => trapCur s .illop
      | .lost => trapCur s .illop
      | .ending => trapCur s .illop
      | .saving => s
      | .restoring => s
      | .running => advanceSave (waitIn s (.saving c x.r.key)) c k
      | _ => advanceSave (waitIn (modRegs s c k fun r => if r.state = .clamped then r else { r with prev := .gated }) (.saving c x.r.key)) c k

/-- A meaning that only service cores may execute: PRIV in a job context (R257). -/
def svcOnly (s : State) (body : State → State) : State := if onService s then body s else privCur s 1

/-- CTXSAVE (R257). -/
def execCtxsave (g : Guard) (d a b : Reg) (s : State) : Out :=
  .next (guarded g s fun t => svcOnly t (ctxsaveOp d (srcS t a) (srcS t b)))

/-- CTXREST with its operands read, on a service core. -/
def ctxrestOp (d : Reg) (a b : Word) (s : State) : State :=
  let c := a.toNat
  match curWait s with
  | .restoring key =>
    match keySlot s c key with
    | some k => if (ctxOf s c k).r.state = .restoring then s else retireS s d (BitVec.ofNat 64 k) 1
    | none => trapCur s .illop
  | _ =>
    if Config.cores ≤ c ∨ above b 16 then trapCur s .illop
    else
      match (coreOf s c).saved.find? fun v => v.key == b.setWidth 16 with
      | none => trapCur s .illop
      | some v =>
        match freeSlot (coreOf s c) with
        | some k =>
          if (jobOf s (asidOf v.ctx)).clamped || decide (64 < quotaSum (coreOf s c) + v.ctx.quota) then s
          else waitIn (enterSlot s c k v) (.restoring v.key)
        | none => s

/-- CTXREST (R257). -/
def execCtxrest (g : Guard) (d a b : Reg) (s : State) : Out :=
  .next (guarded g s fun t => svcOnly t (ctxrestOp d (srcS t a) (srcS t b)))

end Sys2Proof.Machine
end

