-- ==== Sys2Proof/Machine/RegBase.lean ====
section
/-! DEFINITION. Answers to accesses of the device's own spaces (R10, R20, R43): completions, error responses and their
violation log entries. -/
namespace Sys2Proof.Machine

/-- REQKIND of a requester (R43). -/
def srcKind (r : Src) : Nat := match r with | .host 0 => 3 | .host _ => 4 | .svc _ => 5
/-- REQID of a requester: the virtual function's number, or the service core's. -/
def srcId (r : Src) : Nat := match r with | .host 0 => 0 | .host f => f - 1 | .svc n => n

/-- A refused access: an error response and a violation log entry on the hub die. -/
def refuse (s : State) (r : Src) (akind addr acc : Nat) : State :=
  { logViol s 2 { asid := 0, addr := addr, cause := 0, reqid := srcId r, kind := srcKind r, akind := akind, acc := acc } with
    reply := none }

/-- A refused register access (R20, R21). -/
def refuseReg (s : State) (r : Src) (pa : Nat) : State := refuse s r 1 pa 5

/-- An access that completes with data, or with none. -/
def answer (s : State) (bs : List Byte) : State := { s with reply := some bs }

/-- Whether a requester reaches the register, configuration and trace spaces: service cores and the physical function. -/
def privileged (r : Src) : Bool := match r with | .host f => f == 0 | .svc _ => true

end Sys2Proof.Machine
end

