-- ==== Sys2Proof/Machine/ClampWave.lean ====
section
/-! DEFINITION. The clamp wave (R408–R415), stepping and resume (R416–R420), and reverse stepping (R431). -/
namespace Sys2Proof.Machine

/-! ### Freezing and going on -/

/-- The resident contexts of a job, as cores and slots (R408). -/
def jobContexts (s : State) (a : Nat) : List (Nat × Nat) :=
  s.cores.flatMap fun p => ((p.2.ctxs.filter fun q => q.2.r.state.resident && asidOf q.2 == a).map fun q => (p.1, q.1))

/-- Freezes a job on the device. -/
def freezeJob (s : State) (a : Nat) : State := (jobContexts s a).foldl (fun t p => freezeCtx t p.1 p.2) (flipTimers s a)

/-- A stopped timer counts on from the cycles it keeps. -/
def startTimer (cycle : Nat) (w : Wait) : Wait := match w with | .since e => .since (cycle - e) | _ => w

/-- The sequencer after the trap at which it stopped is over: a DSTOP is passed, another instruction is executed again
(R249, R396). -/
def passStop (q : Seq) (t : Option TrapInfo) : Seq :=
  match t with
  | some i => if i.unit = 0 ∧ i.cause = .brkpt then seqRetired q 1 else q
  | none => q

/-- A frozen context goes on from where it stopped (R420); held instances are executed again. -/
def resumeCtx (s : State) (c k : Nat) : State :=
  let x := ctxOf s c k
  if x.r.state ≠ .clamped then s
  else
    let t := modCtx s c k fun y =>
      { y with
        r := { y.r with state := x.r.prev }
        seq := passStop { y.seq with wait := startTimer s.cycle y.seq.wait } x.trap
        trap := none
        insts := y.insts.map fun i => { i with trap := none }
        progress := s.cycle }
    let u := modCore t c fun y => if y.mq.owner = some x.r.key then { y with mq := { y.mq with held := false } } else y
    trace (if x.gates < 2 then presentReady u c k else u) c k 9 0 0 0

/-- A job goes on on the device. -/
def resumeJob (s : State) (a : Nat) : State := (jobContexts s a).foldl (fun t p => resumeCtx t p.1 p.2) (flipTimers s a)

/-- Every context of a job records an event. -/
def traceJob (s : State) (a ev : Nat) : State := (jobContexts s a).foldl (fun t p => trace t p.1 p.2 ev 0 0 0) s

/-! ### Requests (R408, R415) -/

/-- A further cause of a clamped job. -/
def addCause (j : Job) (r : CauseRec) : Job :=
  if j.secs.length < 8 then { j with secs := j.secs ++ [r] } else { j with lostsec := min 511 (j.lostsec + 1) }

/-- The tick a clamp that lands now is recorded with (R412). -/
def landTick (s : State) (j : Job) : Word := if j.level = 2 then tickNow s - 1 else tickNow s

/-- A step ends with a status: a BLOCK step's job is frozen still, another clamps again. -/
def endStep (s : State) (a code : Nat) (tick : Word) : State :=
  let j := jobOf s a
  let t := modJob s a fun x => { x with stepping := false, stepCore := none, stepTo := none, stepstat := code, clamped := true
                                        clamptick := if j.clamped then x.clamptick else tick }
  traceJob (if j.clamped then t else freezeJob t a) a 10

/-- A request reaches the arbiter: against a clamped job it is a further cause and ends a step; otherwise it waits for
its landing, and LATE is set when that boundary has passed (R410). -/
def receiveRequest (s : State) (a : Nat) (r : CauseRec) : State :=
  let j := jobOf s a
  if j.clamped || (j.stepping && j.reverse.isNone) then
    let t := modJob s a fun x => addCause x r
    if j.stepping then endStep t a 4 (landTick s j) else t
  else
    let late := j.level == 2 && r.tick + j.lag.setWidth 64 + 1 ≤ tickNow s
    modJob s a fun x => { x with waiting := x.waiting ++ [r], late := x.late || late }

/-- CLAMP_REQUEST (R408): the oldest request under way for a job reaches the arbiter, and goes to the job's other devices. -/
def execClampRequest (i : Nat) (s : State) : Out :=
  .next (
    match (jobOf s i).raised with
    | [] => s
    | r :: rest => emit (receiveRequest (modJob s i fun j => { j with raised := rest }) i r) (.clamp i r))

/-! ### Landing (R410, R415) -/

/-- Whether a request comes before another: the earlier tick, then the lower device. -/
def causeBefore (a b : CauseRec) : Bool := a.tick < b.tick || (a.tick == b.tick && a.dev < b.dev)

/-- The origin among waiting requests. -/
def chooseOrigin (level : BitVec 2) (r : CauseRec) (l : List CauseRec) : CauseRec :=
  if level = 2 then l.foldl (fun b x => if causeBefore x b then x else b) r else r

/-- Whether a waiting request lands now. -/
def landsNow (s : State) (j : Job) (r : CauseRec) (l : List CauseRec) : Bool :=
  j.level != 2 || (r :: l).any fun x => x.tick + j.lag.setWidth 64 + 1 ≤ tickNow s

/-- Whether a clamp was requested by a trap (R396): only CLAMP, the debugger and a breakpoint raise BRKPT without one. -/
def byTrap (s : State) (a : Nat) (l : List CauseRec) : Bool :=
  (l.any fun r => r.cause != .brkpt) ||
    (jobContexts s a).any fun p => match (ctxOf s p.1 p.2).trap with | some t => t.cause != .none | none => false

/-- The debugger's cause. -/
def debuggerCause (s : State) : CauseRec :=
  { unit := 8, cause := .brkpt, dev := s.exid.toNat, core := 0, ctx := 0, siteA := 0, siteB := 0, iter := 0, colour := 0,
    tick := tickNow s }

/-- The clamp of a job lands with an origin and further causes. -/
def landClamp (s : State) (a : Nat) (o : CauseRec) (others : List CauseRec) (tick : Word) : State :=
  let t := modJob s a fun x =>
    others.foldl addCause { x with clamped := true, origin := some o, waiting := [], clamptick := tick, stepping := false
                                   reverse := none, stepstat := if x.stepping then 4 else x.stepstat }
  freezeJob t a

/-- Whether a reverse step has come to its last firing (R431). -/
def reverseDone (s : State) (a : Nat) : Bool :=
  match (jobOf s a).reverse with
  | some (c, n, ph) => (jobOf s a).phase == ph && n ≤ firesOn s c a
  | none => false

/-- CLAMP_LAND (R410): the waiting requests land, and a trap with TACT = 1 ends the job; or a reverse step ends. -/
def execClampLand (a : Nat) (s : State) : Out :=
  .next (
    let j := jobOf s a
    if j.clamped then s
    else
      match j.waiting with
      | r :: l =>
        if !landsNow s j r l then s
        else
          let o := chooseOrigin j.level r l
          let t := landClamp s a o ((r :: l).erase o)
            (if j.level = 2 ∧ j.late = false then o.tick + j.lag.setWidth 64 else landTick s j)
          if j.tact && byTrap t a (r :: l) then killJob t a else t
      | [] =>
        if reverseDone s a then
          modJob (landClamp s a (debuggerCause s) [] (landTick s j)) a fun x => { x with stepstat := 1 }
        else s)

/-! ### Commands (R416–R419, R431) -/

/-- OP and CORE of a command. -/
def cmdOp (v : Word) : Nat := field v 0 4
def cmdCore (v : Word) : Nat := field v 4 8

/-- The address of CLAMPCMD of a job (R412). -/
def clampcmdPa (a : Nat) : Nat := Config.regBase + 0x40000 + a * 0x200 + 0x18

/-- Whether a command is refused (R416). -/
def cmdRefused (s : State) (r : Src) (a : Nat) (v : Word) : Bool :=
  let j := jobOf s a
  let op := cmdOp v
  !privileged r || above v 12 || op == 0 || decide (6 < op) || j.stepping || (op != 1 && !j.clamped) ||
    ((op == 2 || op == 3 || op == 6) && (decide (Config.cores ≤ cmdCore v) || (jobSlot s (cmdCore v) a).isNone))

/-- FIRE: while the step runs, the context's region may fire; then it freezes again. -/
def fireStep (s : State) (a c k : Nat) : State :=
  let d := s.deferred
  let t := modJob s a fun j => { j with stepping := true, stepCore := some (c, 1, s.cycle) }
  let (u, ok) := fireNext t c k
  let v := modJob { u with deferred := d } a fun j =>
    { j with stepping := false, stepCore := none, stepstat := if ok then 1 else 2 }
  if ok then trace v c k 10 0 0 0 else v

/-- BLOCK: the context's region runs until its oldest instance commits. -/
def blockStep (s : State) (a c : Nat) : State :=
  modJob s a fun j => { j with stepping := true, stepCore := some (c, 1, s.cycle) }

/-- TICK and UNCLAMP: too late once the boundary has passed. -/
def timedCmd (s : State) (a : Nat) (step : Bool) : State :=
  let j := jobOf s a
  let m := j.cmdtick
  modJob s a fun x =>
    if m ≤ tickNow s then { x with late := true, stepstat := 5 }
    else if step then { x with stepTo := some m, resumeAt := none } else { x with resumeAt := some m, stepTo := none }

/-- Puts back the bytes of the undo log, newest entry first. -/
def restoreLog (s : State) (l : List (Nat × List Byte)) : State := l.foldl (fun t e => hbmWrite t e.1 e.2 false) s

/-- The logged packets go back to the heads of their queues, in their order. -/
def replayPackets (s : State) (l : List (Nat × List Word)) : State :=
  l.reverse.foldl (fun t p => modQueue t p.1 fun q =>
    { q with packets := p.2 :: q.packets, checked := false, eprio := qPrio q, skips := 0, fails := 0, resv := none, early := [] }) s

/-- Discards every context of a job without a save, and its tasks without their retiring (R431). -/
def discardJob (s : State) (a : Nat) : State :=
  let s1 := (jobContexts s a).foldl (fun t p => closeSlot t p.1 p.2) s
  let s2 := s1.cores.foldl (fun t p => (p.2.saved.filter fun v => asidOf v.ctx == a).foldl (fun u v => killSaved u p.1 v) t) s1
  let gone := (s2.tasks.filter fun t => t.asid.toNat == a).map (·.id)
  { s2 with
    tasks := s2.tasks.filter fun t => t.asid.toNat != a
    queues := s2.queues.map fun q => (q.1, { q.2 with started := q.2.started.filter fun i => !gone.contains i }) }

/-- REVERSE (R431): the checkpoint is restored, and the job runs again up to one firing before the present cut. -/
def reverseStep (s : State) (r : Src) (a c : Nat) : State :=
  let j := jobOf s a
  let n := firesOn s c a
  if j.level = 0 ∨ j.ckValid = false ∨ j.ckLapsed then refuseReg s r (clampcmdPa a)
  else if n = 0 then modJob (refuseReg s r (clampcmdPa a)) a fun x => { x with stepstat := 2 }
  else
    let t := replayPackets (restoreLog (discardJob (flipTimers s a) a) j.undo) j.packets
    modJob t a fun x =>
      { x with phase := j.ckPhase, undo := [], packets := [], ckUsed := 0, fires := [], clamped := false, origin := none
               secs := [], lostsec := 0, resumeAt := none, stepTo := none, stepping := true
               reverse := some (c, n - 1, j.phase) }

/-- A write of CLAMPCMD. -/
def clampCmd (s : State) (r : Src) (a : Nat) (v : Word) : State :=
  if cmdRefused s r a v then refuseReg s r (clampcmdPa a)
  else
    let c := cmdCore v
    let t := answer s []
    let k := match jobSlot s c a with | some k => k | none => 0
    match cmdOp v with
    | 1 => requestClamp t a (debuggerCause s)
    | 2 => fireStep t a c k
    | 3 => blockStep t a c
    | 4 => timedCmd t a true
    | 5 => timedCmd t a false
    | _ => reverseStep t r a c

/-- A write of CLAMPCMD that names an operation; a write that names another is no event of it. -/
def clampCmdOf (op : Nat) (r : Src) (a : Nat) (v : Word) (s : State) : State :=
  if cmdOp v = op then clampCmd s r a v else s

/-- CLAMPCMD_CLAMP (R408). -/
def execClampcmdClamp (r : Src) (a : Nat) (v : Word) (s : State) : Out := .next (clampCmdOf 1 r a v s)
/-- CLAMPCMD_FIRE (R417). -/
def execClampcmdFire (r : Src) (a : Nat) (v : Word) (s : State) : Out := .next (clampCmdOf 2 r a v s)
/-- CLAMPCMD_BLOCK (R418). -/
def execClampcmdBlock (r : Src) (a : Nat) (v : Word) (s : State) : Out := .next (clampCmdOf 3 r a v s)
/-- CLAMPCMD_TICK (R419). -/
def execClampcmdTick (r : Src) (a : Nat) (v : Word) (s : State) : Out := .next (clampCmdOf 4 r a v s)
/-- CLAMPCMD_UNCLAMP (R419). -/
def execClampcmdUnclamp (r : Src) (a : Nat) (v : Word) (s : State) : Out := .next (clampCmdOf 5 r a v s)
/-- CLAMPCMD_REVERSE (R431). -/
def execClampcmdReverse (r : Src) (a : Nat) (v : Word) (s : State) : Out := .next (clampCmdOf 6 r a v s)

/-- CLAMP_RESUME (R419, R420): at the boundary that starts the named tick, UNCLAMP clears the records and the job goes on;
TICK lets it go on for one tick. -/
def execClampResume (a : Nat) (s : State) : Out :=
  .next (
    let j := jobOf s a
    if !j.clamped || j.stepping then s
    else
      match j.resumeAt, j.stepTo with
      | some m, _ =>
        if tickNow s < m then s
        else resumeJob (modJob s a fun x => { x with clamped := false, origin := none, secs := [], lostsec := 0, resumeAt := none }) a
      | none, some m =>
        if tickNow s < m then s
        else resumeJob (modJob s a fun x => { x with clamped := false, stepping := true }) a
      | none, none => s)

/-- BLOCK_STEP_TIMEOUT (R418): after 65,536 cycles without the commit. -/
def execBlockStepTimeout (a : Nat) (s : State) : Out :=
  .next (
    let j := jobOf s a
    match j.stepCore with
    | some (_, _, t) => if j.stepping && t + 65536 ≤ s.cycle then endStep s a 3 0 else s
    | none => s)

/-- TICK_STEP_END (R419): at the boundary that ends the tick the job clamps again. -/
def execTickStepEnd (a : Nat) (s : State) : Out :=
  .next (
    let j := jobOf s a
    match j.stepTo with
    | some m => if j.stepping && !j.clamped && m < tickNow s then endStep s a 1 m else s
    | none => s)

end Sys2Proof.Machine
end

