-- ==== Sys2Proof/Machine/Laminated.lean ====
section
/-! DEFINITION. The laminated instructions of the sequencer (R299), and the events of the home file (R63, R64). -/
namespace Sys2Proof.Machine

/-- A laminated instruction with nothing to write but the context: it retires. -/
def lamRetire (s : State) : State := retire s 2

/-- LDECL with its word read (R294, R299): it waits for the transit bit; a word over the save budget is ILLOP (R403). -/
def ldeclOp (v : Word) (n c k : Nat) (s : State) : State :=
  let x := ctxOf s c k
  let d : W32 := v.setWidth 32
  let more := declWidth d * 48 - declWidth (lamOf x n).decl * 48
  if inTransit x n then waitIn s .none
  else if above v 32 || !declOk d || !budgetOk s c k more then trapCur s .illop
  else lamRetire (declareLam s c k n d)

/-- LDECL (R299). -/
def execLdecl (a : Reg) (l : LReg) (s : State) : Out := .next (ctxOnly s (ldeclOp (srcS s a) l.toNat))

/-- A sequencer's type code suits a register's format (R299). -/
def plySuits (ty fmt : Nat) : Bool :=
  if ty ≤ 2 then fmt ≤ 1 else if ty = 3 then fmt == 3 else 5 ≤ ty && 2 ≤ fmt

/-- The value PLY reads, as a number and as an integer. -/
def plyValue (ty : Nat) (v : Word) : Num × Int :=
  let f := if ty = 1 then bf16 else if ty = 2 then fp16 else fp32
  let w := if ty = 3 then 64 else if ty = 5 then 32 else if ty = 6 then 16 else 8
  (f.read (field v 0 (if ty = 0 then 32 else 16)), intVal w false v.toNat)

/-- PLY with its operand read (R299): one lane, with no exception bit. -/
def plyOp (v : Word) (n lane ty c k : Nat) (s : State) : State :=
  let d := (lamOf (ctxOf s c k) n).decl
  if !declared d || !plySuits ty (declFmt d) || declWidth d ≤ lane then trapCur s .illop
  else
    let r := lamRec d (plyValue ty v).1 (plyValue ty v).2 0 0x7F
    lamRetire (contribute s c k unitSeq n (oneLane (declWidth d) lane r))

/-- PLY (R299). -/
def execPly (a : Reg) (l : LReg) (n : BitVec 5) (y : BitVec 3) (s : State) : Out :=
  .next (ctxOnly s (plyOp (srcS s a) l.toNat n.toNat y.toNat))

/-- What RDL gives of gathered lanes. -/
def rdlValue (d : W32) (m : RdlMode) (lane : Nat) (l : List Rec) : Word :=
  if declWidth d ≤ lane then 0 else lamScalar d m (nth l lane emptyRec)

/-- RDL of the sequencer (R64, R299): it waits for the transit bit, then gathers. -/
def rdlOp (d : Reg) (n lane : Nat) (m : RdlMode) (c k : Nat) (s : State) : State :=
  let x := ctxOf s c k
  let w := (lamOf x n).decl
  match curWait s with
  | .gathered l => retireS s d (rdlValue w m lane l) 2
  | _ =>
    if !declared w || (lamHi m && declFmt w != 3) then trapCur s .illop
    else if inTransit x n then waitIn s (.gather n)
    else retireS s d (rdlValue w m lane (gatherLanes x n)) 2

/-- RDL (R299). -/
def execRdl (d : Reg) (l : LReg) (n : BitVec 5) (m : RdlMode) (s : State) : Out :=
  .next (ctxOnly s (rdlOp d l.toNat n.toNat m))

/-- SETTLE of the sequencer (R297, R299). -/
def settleOp (n c k : Nat) (s : State) : State :=
  let x := ctxOf s c k
  if !declared (lamOf x n).decl then trapCur s .illop
  else if inTransit x n then waitIn s .none
  else lamRetire (settleLam s c k n)

/-- SETTLE (R299). -/
def execSettle (l : LReg) (s : State) : Out := .next (ctxOnly s (settleOp l.toNat))

/-- PLY_PUSH_ARRIVE (R63): a push in transit reaches the home ply. -/
def execPlyPushArrive (c k : Nat) (l : LReg) (s : State) : Out :=
  .next (if inTransit (ctxOf s c k) l.toNat then modCtx s c k fun x => landPush x l.toNat else s)

/-- LAMINATED_GATHER (R64): the gather of a waiting RDL takes its copies. -/
def execLaminatedGather (c k : Nat) (l : LReg) (s : State) : Out :=
  .next (
    let x := ctxOf s c k
    if x.seq.wait = .gather l.toNat ∧ !inTransit x l.toNat then
      modCtx s c k fun z => { z with seq := { z.seq with wait := .gathered (gatherLanes x l.toNat) } }
    else s)

end Sys2Proof.Machine
end

