-- ==== Sys2Proof/Machine/Debug.lean ====
section
/-! DEFINITION. The debug registers of a context (R421, R422). -/
namespace Sys2Proof.Machine

/-- What DBGSEL selects. -/
inductive Selected where
  | s (r : Reg)
  | p (r : Pred)
  | lc (n : Nat)
  | h (r : HReg)
  | pc
  | lane (n lane : Nat)
  deriving DecidableEq, Repr

/-- The selected register of a clamped context; none where DBGDATA is refused. -/
def selected (x : Ctx) : Option Selected :=
  let sp := field x.r.dbgsel 12 4
  let i := field x.r.dbgsel 0 12
  if x.r.state ≠ .clamped then none
  else if sp = 0 then (if i < 32 then some (.s (BitVec.ofNat 5 i)) else none)
  else if sp = 1 then (if i < 8 then some (.p (BitVec.ofNat 3 i)) else none)
  else if sp = 2 then (if i < 3 then some (.lc i) else none)
  else if sp = 3 then (if i < 16 then some (.h (BitVec.ofNat 4 i)) else none)
  else if sp = 4 then (if i = 0 then some .pc else none)
  else if sp = 5 then
    let d := (lamOf x (i / 32)).decl
    if i / 32 < 64 ∧ declared d ∧ i % 32 < declWidth d then some (.lane (i / 32) (i % 32)) else none
  else none

/-- What a DBGDATA read gives: for a lane what RDL would, a push in transit included. -/
def selectedValue (x : Ctx) (t : Selected) : Word :=
  match t with
  | .s r => readS x.seq r
  | .p r => if readP x.seq r then 1 else 0
  | .lc n => (readLC x.seq n).setWidth 64
  | .h r => (readH x.seq r).setWidth 64
  | .pc => x.seq.pc
  | .lane n l => rdlValue (lamOf x n).decl .value l (gatherLanes (landPush x n) n)

/-- DBGDATA as it reads. -/
def dbgData (x : Ctx) : Option Word := (selected x).map (selectedValue x)

/-- The destination and the words of a load whose data may still be under way. -/
def loadDest (i : Instr) : Option (Reg × Nat) :=
  match i with
  | .lds d _ _ _ _ => some (d, 1)
  | .ldsc d _ _ _ => some (d, 1)
  | .ldsSx d _ _ _ _ => some (d, 2)
  | .aadd _ d _ _ _ _ => some (d, 1)
  | .aand _ d _ _ _ _ => some (d, 1)
  | .aor _ d _ _ _ _ => some (d, 1)
  | .axor _ d _ _ _ _ => some (d, 1)
  | .amin _ d _ _ _ _ => some (d, 1)
  | .amax _ d _ _ _ _ => some (d, 1)
  | .aminu _ d _ _ _ _ => some (d, 1)
  | .amaxu _ d _ _ _ _ => some (d, 1)
  | .aswp _ d _ _ _ _ => some (d, 1)
  | .acas _ d _ _ _ _ => some (d, 1)
  | .afmin _ d _ _ _ => some (d, 1)
  | .afmax _ d _ _ _ => some (d, 1)
  | .axrd _ d _ _ => some (d, 1)
  | .bld _ d _ _ _ => some (d, 1)
  | .bldSx d _ _ _ => some (d, 2)
  | _ => none

/-- The load of a context whose data is under way: its access, destination and words. -/
def pendingLoad (s : State) (c k : Nat) : Option (Nat × Reg × Nat) :=
  match (ctxOf s c k).seq.wait with
  | .request id =>
    match (fetchInstr { s with cur := .seq c k }).2 with
    | some i => (loadDest i).map fun p => (id, p.1, p.2)
    | none => none
  | _ => none

/-- Writes a scalar of a clamped context: it wins over the data of a load under way, which is dropped. -/
def dbgWriteS (s : State) (c k : Nat) (r : Reg) (v : Word) : State :=
  match pendingLoad s c k with
  | some (id, d, n) =>
    if d = r ∧ r ≠ 0 then
      modRegs (modCtx { s with reqs := s.reqs.filter (fun x => x.id != id),
                                      bufreqs := s.bufreqs.filter fun x => x.id != id } c k fun x =>
        { x with seq := seqRetired (writeS x.seq r v) n }) c k fun q => { q with lddrop := true }
    else modCtx s c k fun x => { x with seq := writeS x.seq r v }
  | none => modCtx s c k fun x => { x with seq := writeS x.seq r v }

/-- Whether an effect contributes to a register. -/
def Effect.pliesTo (n : Nat) (f : Effect) : Bool := match f with | .ply r _ _ => r == n | _ => false

/-- The number and the integer a value holds in a declared format. -/
def declValue (d : W32) (v : Word) : Num × Int :=
  match declFmt d with
  | 0 => (fp32.read (field v 0 32), 0)
  | 1 => (bf16.read (field v 0 16), 0)
  | 2 => (.fin false 0 0, intVal 32 false v.toNat)
  | _ => (.fin false 0 0, intVal 64 false v.toNat)

/-- R422: the committed plies go home, the lane takes the value, contributions in transit or pending are stale and
dropped. -/
def dbgWriteLane (x : Ctx) (n lane : Nat) (v : Word) : Ctx :=
  let d := (lamOf x n).decl
  let g := gatherLanes x n
  let r := lamRec d (declValue d v).1 (declValue d v).2 0 0x7F
  let stale := inTransit x n || (x.insts.any fun i => i.effects.any (Effect.pliesTo n)) || x.late.any fun l => l.eff.pliesTo n
  let y := modLam (dropPlies x n) n fun m => { m with home := g.set lane r, transit := none }
  { y with
    insts := y.insts.map fun i => { i with effects := i.effects.filter fun f => !f.pliesTo n }
    late := y.late.filter fun l => !l.eff.pliesTo n
    r := { y.r with plystale := y.r.plystale || stale } }

/-- A write of the selected register; writes to S0 and P0 are ignored. A new PC leaves the instruction that waited. -/
def dbgWrite (s : State) (c k : Nat) (t : Selected) (v : Word) : State :=
  match t with
  | .s r => dbgWriteS s c k r v
  | .p r => modCtx s c k fun x => { x with seq := writeP x.seq r (v.getLsbD 0) }
  | .lc n => modCtx s c k fun x => { x with seq := writeLC x.seq n (v.setWidth 32) }
  | .h r => modCtx s c k fun x => { x with seq := writeH x.seq r (v.setWidth 16) }
  | .pc => modCtx s c k fun x => { x with seq := { x.seq with pc := v, wait := .none } }
  | .lane n l => modCtx s c k fun x => dbgWriteLane x n l v

end Sys2Proof.Machine
end

