-- ==== Sys2Proof/Machine/Resets.lean ====
section
/-! DEFINITION. The four reset levels (R445) and the end of a queue's trace (R426). -/
namespace Sys2Proof.Machine

/-! ### Queue -/

/-- A task ends as R400: its contexts end without a save, and it retires without DONE. -/
def endTask (s : State) (t : Task) : State :=
  let s1 := s.cores.foldl (fun u p =>
    let u1 := (p.2.ctxs.filter fun q => q.2.r.state.resident && q.2.task == t.id).foldl (fun v q => killContext v p.1 q.1) u
    (p.2.saved.filter fun y => y.ctx.task == t.id).foldl (fun v y => killSaved v p.1 y) u1) s
  modTask s1 t.id fun x => { x with lost := true, ended := List.range x.cores.length }

/-- The records of a job in a core's trace buffer are discarded. -/
def discardTrace (s : State) (asid : Nat) : State :=
  { s with cores := s.cores.map fun p => (p.1, { p.2 with trbuf := p.2.trbuf.filter fun r => field r.w0 48 12 != asid }) }

/-- Records of a job still in the trace buffers of a die's cores. -/
def bufferedTrace (s : State) (die asid : Nat) : Nat :=
  s.cores.foldl (fun n p => if coreDie p.1 = die then n + (p.2.trbuf.filter fun r => field r.w0 48 12 == asid).length else n) 0

/-- A TRUNC record for a ring, with the reset's cause and the records lost; LOST returns to zero. -/
def truncRing (s : State) (asid cause discarded j : Nat) : State :=
  let r := lookD s.rings j Ring.reset
  let lost := min 0xFFFFFFFF (r.lost + discarded)
  let t := ringPut s j { w0 := place 12 60 ||| place asid 48, w1 := traceTime s, w2 := 0
                         w3 := place cause 56 ||| BitVec.ofNat 64 lost }
  { t with rings := put t.rings j { lookD t.rings j Ring.reset with lost := 0 } }

/-- The rings of a job on a die. -/
def jobRings (s : State) (die asid : Nat) : List Nat :=
  ((List.range 64).map (die * 64 + ·)).filter fun j =>
    let r := lookD s.rings j Ring.reset
    r.trctl.getLsbD 0 && field r.trctl 52 12 == asid

/-- R426 for a job: the lowest ring of a die counts the records that its cores' buffers held. -/
def truncJob (s : State) (cause asid : Nat) : State :=
  let t := [0, 1, 2].foldl (fun u die =>
    let n := bufferedTrace s die asid
    let first := (jobRings s die asid).head?
    (jobRings s die asid).foldl (fun v j => truncRing v asid cause (if first = some j then n else 0) j) u) s
  discardTrace t asid

/-- A queue-level reset: the queue's packets go, each task started from it ends, their trace ends with the cause; QCFG,
QMARK and the staging slot stay. -/
def queueReset (s : State) (q cause : Nat) : State :=
  let mine := s.tasks.filter fun t => t.queue == q && !t.retired
  let s1 := mine.foldl endTask s
  let s2 := ((mine.map fun t => t.asid.toNat).eraseDups).foldl (fun u a => truncJob u cause a) s1
  sweepTasks (modQueue s2 q fun x => { x with packets := [], checked := false, eprio := qPrio x, skips := 0, fails := 0, resv := none,
                                                prev := 0, early := [] })

/-! ### Core and die -/

/-- The jobs with a context on a core, resident or saved. -/
def coreJobs (x : Core) : List Nat :=
  (((x.ctxs.filter fun p => p.2.r.state.resident).map fun p => asidOf p.2) ++ x.saved.map fun y => asidOf y.ctx).eraseDups

/-- Jobs end as R400. -/
def killJobs (s : State) (l : List Nat) : State := l.foldl killJob s

/-- A core at its reset values; its health monitor goes on. -/
def clearCore (s : State) (c : Nat) : State := setCore s c { Core.reset with health := (coreOf s c).health }

/-- A core-level reset: every job with a context on the core ends; buffers, home file and caches are zeroed. -/
def coreReset (s : State) (c : Nat) : State := clearCore (killJobs s (coreJobs (coreOf s c))) c

/-- The cores of a die. -/
def dieCores (s : State) (d : Nat) : List Nat := (s.cores.map (·.1)).filter fun c => coreDie c == d

/-- A die-level reset: the slices' dirty lines are in HBM4, which holds their bytes; cores, slices and the die's
violation log are reset. -/
def dieReset (s : State) (d : Nat) : State :=
  let t := killJobs s (((dieCores s d).flatMap fun c => coreJobs (coreOf s c)).eraseDups)
  let u := (dieCores t d).foldl clearCore t
  { u with
    lines := u.lines.filter fun p => homeSlice (p.1 * 128) / 16 != d
    plru := u.plru.filter fun p => p.1 / 4096 / 16 != d
    btlb := u.btlb.filter fun p => p.1 / 512 / 16 != d
    walks := u.walks.filter fun w => coreDie w.core != d
    vlogs := del u.vlogs d }

/-! ### Device -/

/-- A device reset: everything but the fuses and the monotonic counter. The agenda, the free values used, what has left
the device and host memory are no part of the device. -/
def deviceReset (s : State) : State :=
  { State.reset with
    agenda := s.agenda, free := s.free, events := s.events, hostMem := s.hostMem
    boot := { Boot.reset with rollback := s.boot.rollback, leaf := s.boot.leaf } }

/-- DEVICE_RESET (R445): PERST#, power-on or DEVRST. -/
def execDeviceReset (s : State) : Out := .next (deviceReset s)

end Sys2Proof.Machine
end

