-- ==== Sys2Proof/Machine/Regs.lean ====
section
/-! DEFINITION. The device register, configuration and trace spaces (R20–R24): what each register reads as, and what a
write does. -/
namespace Sys2Proof.Machine

/-! ### Hub registers as they read -/

/-- QSTS (R380). -/
def qstsWord (q : Queue) : Word :=
  place q.refuse.toNat 56 ||| place q.eprio 48 ||| place q.skips 40 ||| place q.fails 32 |||
    place (if q.resv.isSome then 1 else 0) 7 ||| BitVec.ofNat 64 q.packets.length

/-- JOBCTL (R394); KILL reads as zero. -/
def jobctlWord (j : Job) : Word :=
  place j.phase.toNat 48 ||| place j.pq.toNat 41 ||| place j.level.toNat 6 ||| place (if j.tact then 1 else 0) 5

/-- CLAMPSTAT (R413). -/
def clampstatWord (j : Job) : Word :=
  place (if j.clamped then 1 else 0) 63 ||| place (if j.late then 1 else 0) 62 ||| place (if j.stepping then 1 else 0) 61 |||
    place j.secs.length 57 ||| place j.lostsec 48 ||| place j.stepstat 44

/-- Word i of a cause record (R414). -/
def causeWord (r : Option CauseRec) (i : Nat) : Word :=
  match r with
  | none => 0
  | some x =>
    match i with
    | 0 => place 1 63 ||| place x.unit 59 ||| place x.cause.code 51 ||| place x.dev 39 ||| place x.core 31 |||
        place x.ctx 29 ||| (if x.unit = 1 ∨ x.unit = 6 then place x.siteA 19 ||| place x.siteB 14 else 0)
    | 1 => place x.iter.toNat 48 ||| place x.colour.toNat 40
    | 2 => x.tick
    | _ => 0

/-- CKSTAT (R429). -/
def ckstatWord (j : Job) : Word :=
  place (if j.ckValid then 1 else 0) 63 ||| place (if j.ckLapsed then 1 else 0) 62 ||| place j.ckPhase.toNat 32 |||
    BitVec.ofNat 64 ((j.ckUsed + 1023) / 1024 % 2 ^ 32)

/-- A register of a clamp block (R412); CLAMPCMD reads as zero. -/
def clampReg (j : Job) (o : Nat) : Option Word :=
  if o = 0 then some (j.lag.setWidth 64)
  else if o = 0x08 then some (clampstatWord j)
  else if o = 0x10 then some j.clamptick
  else if o = 0x18 then some 0
  else if o = 0x20 then some j.cmdtick
  else if 0x40 ≤ o ∧ o < 0x60 then some (causeWord j.origin (o % 32 / 8))
  else if 0x60 ≤ o ∧ o < 0x160 then some (causeWord j.secs[(o - 0x60) / 32]? (o % 32 / 8))
  else if o = 0x160 then some (place j.ckctl.toNat 48)
  else if o = 0x168 then some j.cklog
  else if o = 0x170 then some (ckstatWord j)
  else none

/-- TIMESTAT (R440). -/
def timestatWord (t : Time) : Word := place (if t.lock then 1 else 0) 63 ||| t.offset.setWidth 64

/-- A register of the hub die; those that are only written read as zero. -/
def hubReg (s : State) (o : Nat) : Option Word :=
  if 0x10000 ≤ o ∧ o < 0x11000 then
    let q := queueOf s ((o - 0x10000) / 32)
    match o % 32 with
    | 0 => some q.qcfg
    | 8 => some (qstsWord q)
    | 0x10 => some 0
    | _ => some q.qmark
  else if o = 0x11000 then some 0
  else if 0x20000 ≤ o ∧ o < 0x28000 then some (jobctlWord (jobOf s ((o - 0x20000) / 8)))
  else if 0x40000 ≤ o ∧ o < 0x240000 then clampReg (jobOf s ((o - 0x40000) / 0x200)) (o % 0x200)
  else if o = 0x300000 then some s.time.ptime
  else if o = 0x300008 then some s.time.epoch
  else if o = 0x300010 then some (s.time.per.setWidth 64)
  else if o = 0x300018 then some (timestatWord s.time)
  else if o = 0x310000 then some (s.exid.setWidth 64)
  else if o = 0x320000 then some s.boot.bootstat
  else if o = 0x330000 then some s.pwrlim
  else if o = 0x340000 ∨ o = 0x340008 ∨ o = 0x340010 then some 0
  else if 0x350000 ≤ o ∧ o < 0x350080 then some (lookD s.vfwin ((o - 0x350000) / 8) 0)
  else none

/-! ### Core, stack and log registers as they read -/

/-- A counter of 32 bits by its offset: the diversions of a way, or a bin of its histogram (R427). -/
def counterReg (y : Core) (o : Nat) : Option W32 :=
  if 0xB000 ≤ o ∧ o < 0xB400 then
    let i := (o - 0xB000) / 4
    some (lookD (elemIn y (i / 4)).ovfs (i % 4) 0)
  else if 0xC000 ≤ o ∧ o < 0x10000 then
    let i := (o - 0xC000) / 4
    some (lookD (elemIn y (i / 64)).hist (i % 64) 0)
  else none

/-- BWSTAT of a tenant (R106). -/
def bwstatWord (y : Core) (t : Nat) : Word :=
  place (lookD y.bucket t 0 % 2 ^ 32).toNat 32 ||| BitVec.ofNat 64 (if y.active.contains t then 1 else 0)

/-- A register of a core (R21). -/
def coreReg (s : State) (c o : Nat) : Option Word :=
  let y := coreOf s c
  if o < 0x4000 then
    let x := ctxIn y (o / 0x1000)
    if o % 0x1000 = 0x108 then dbgData x else ctxReg x (o % 0x1000)
  else if o = 0x8000 then some (if y.bwEn then 1 else 0)
  else if 0x8008 ≤ o ∧ o < 0x8090 then some (BitVec.ofNat 64 (lookD y.shareNext ((o - 0x8008) / 8) 0))
  else if 0x8100 ≤ o ∧ o < 0x8188 then some (bwstatWord y ((o - 0x8100) / 8))
  else if o = 0x9000 then some y.health
  else if o = 0x9800 then some 0
  else if o = 0xA000 then some (mqWord s c)
  else if o = 0xA008 then some y.mq.psel
  else if 0xA010 ≤ o ∧ o < 0xA030 then
    some ((mqPlane y.mq (field y.mq.psel 10 3) (field y.mq.psel 0 10)).extractLsb' ((o - 0xA010) * 8) 64)
  else if o = 0xB800 then some y.sp.1
  else if o = 0xB808 then some y.sp.2.1
  else if o = 0xB810 then some y.sp.2.2
  else
    match counterReg y o, counterReg y (o + 4) with
    | some a, some b => some (b ++ a)
    | _, _ => none

/-- NMSLOTS (R89). -/
def nmslotsWord (k : Stack) : Word := k.slots.foldl (fun w p => w ||| place 1 p.1) 0

/-- A register of a base die (R89, R444). -/
def stackReg (s : State) (k o : Nat) : Option Word :=
  let x := stackOf s k
  match o with
  | 0x00 => some (place x.ce 32 ||| BitVec.ofNat 64 x.ue)
  | 0x08 => some x.ueaddr
  | 0x10 => some (x.period.setWidth 64)
  | 0x18 => some (nmslotsWord x)
  | 0x20 => some x.health
  | _ => none

/-- A violation log as it reads (R43, R44). -/
def vlogReg (s : State) (d o : Nat) : Option Word :=
  let l := lookD s.vlogs d VLog.reset
  if o < 0x100 then
    let e := lookD l.entries (o / 16) (0, 0)
    some (if o % 16 = 0 then e.1 else e.2)
  else if o = 0x100 then some (place l.lost 32 ||| BitVec.ofNat 64 (l.entries.filter fun e => e.2.2.getLsbD 0).length)
  else none

/-- A register of the device register space, by its offset (R21). -/
def deviceReg (s : State) (o : Nat) : Option Word :=
  if o < 0x1000000 then hubReg s o
  else if o < 0x1000000 + Config.cores * 0x10000 then coreReg s ((o - 0x1000000) / 0x10000) (o % 0x10000)
  else if 0x2400000 ≤ o ∧ o < 0x2480000 then stackReg s ((o - 0x2400000) / 0x10000) (o % 0x10000)
  else if 0x2800000 ≤ o ∧ o < 0x2803000 then vlogReg s ((o - 0x2800000) / 0x1000) (o % 0x1000)
  else none

/-! ### The trace and configuration spaces as they read -/

/-- A register of the trace space (R24, R425). -/
def traceReg (s : State) (o : Nat) : Option Word :=
  if o < 0x3000000 ∧ o % 0x1000000 < 0x1000 then
    let r := lookD s.rings (o / 0x1000000 * 64 + o % 0x1000000 / 0x40) Ring.reset
    match o % 0x40 with
    | 0x00 => some r.trctl
    | 0x08 => some r.trbase
    | 0x10 => some (BitVec.ofNat 64 r.size)
    | 0x18 => some (BitVec.ofNat 64 r.head)
    | 0x20 => some (BitVec.ofNat 64 r.tail)
    | 0x28 => some (BitVec.ofNat 64 r.lost)
    | _ => none
  else none

/-- An element's way tags (R185). -/
def tagsWord (y : Core) (e : Nat) : Word :=
  (List.range 4).foldl (fun w j =>
    let x := wayOf y e j
    w ||| place (if x.v then 1 else 0) (16 * j + 15) ||| place (if x.jig then 1 else 0) (16 * j + 14)) 0

/-- A word of the configuration space (R22, R185); reserved offsets read as zero. -/
def cfgReg (s : State) (o : Nat) : Word :=
  let y := coreOf s (o / 0x100000)
  let a := o % 0x100000
  if Config.cores ≤ o / 0x100000 then 0
  else if a < 0x20000 then recWord (wayBytes (wayOf y (a / 0x800) (a / 0x200 % 4))) (a % 0x200)
  else if a < 0x20000 + 72 * 0x400 then
    recWord (boxBytes (lookD y.boxes ((a - 0x20000) / 0x100) BoxWay.reset)) (a % 0x100)
  else if 0x40000 ≤ a ∧ a < 0x40200 then tagsWord y ((a - 0x40000) / 8)
  else if 0x40200 ≤ a ∧ a < 0x40220 then (ctxIn y ((a - 0x40200) / 8)).image
  else 0

/-- What an aligned 8-byte word of the three spaces reads as; none where nothing answers. -/
def spaceReg (s : State) (pa : Nat) : Option Word :=
  if pa < Config.cfgBase then deviceReg s (pa - Config.regBase)
  else if pa < Config.trcBase then some (cfgReg s (pa - Config.cfgBase))
  else traceReg s (pa - Config.trcBase)

/-- ACCESS of a refused access of the three spaces (R43). -/
def spaceAcc (pa : Nat) (write : Bool) : Nat :=
  if Config.cfgBase ≤ pa && pa < Config.trcBase then (if write then 4 else 0) else 5

/-- Whether an access of the three spaces has a width and an alignment they take (R20). -/
def spaceForm (pa n : Nat) : Bool := (n == 4 || n == 8) && pa % n == 0

/-- The 4 or 8 bytes an access names within its word. -/
def partOf (pa n : Nat) (v : Word) : Word :=
  if n = 8 then v else if pa % 8 = 4 then v >>> 32 else v &&& 0xFFFFFFFF

/-- A read of the three spaces. -/
def spaceRead (s : State) (r : Src) (pa n : Nat) : State × Option Word :=
  if !privileged r || !spaceForm pa n || !isDevice pa then (refuse s r 1 pa (spaceAcc pa false), none)
  else
    match spaceReg s (pa / 8 * 8) with
    | some v => (answer s (natLE n (partOf pa n v).toNat), some (partOf pa n v))
    | none => (refuse s r 1 pa (spaceAcc pa false), none)

/-! ### Writes: hub -/

/-- A write that is refused, or its effect. -/
abbrev RegWrite := Option State

/-- Appends a queue's staged packet (R380). -/
def ringBell (s : State) (q : Nat) : State :=
  let x := queueOf s q
  match appendPacket s q ((List.range 8).map fun i => lookD x.staging i 0) with
  | (t, true) => t
  | (t, false) => modQueue t q fun y => { y with refuse := 0x0F }

/-- A write of a queue's registers. -/
def writeQueue (s : State) (q o : Nat) (v : Word) : RegWrite :=
  match o with
  | 0 => if 16 < field v 47 5 then none else some (modQueue s q fun x => { x with qcfg := v >>> 41 <<< 41 })
  | 0x10 => some (if v.getLsbD 0 then ringBell s q else s)
  | _ => some s

/-- A write of JOBCTL. -/
def writeJobctl (s : State) (a : Nat) (v : Word) : State :=
  let t := modJob s a fun j => { j with pq := BitVec.ofNat 7 (field v 41 7), tact := v.getLsbD 5 }
  if v.getLsbD 4 then killJob t a else t

/-- A write of a clamp block's registers but CLAMPCMD. -/
def writeClamp (s : State) (a o : Nat) (v : Word) : RegWrite :=
  if o = 0 then (if field v 0 4 = 0 then none else some (modJob s a fun j => { j with lag := v.setWidth 4 }))
  else if o = 0x20 then some (modJob s a fun j => { j with cmdtick := v })
  else if o = 0x160 then some (modJob s a fun j => { j with ckctl := BitVec.ofNat 16 (field v 48 16) })
  else if o = 0x168 then
    if 12 < field v 0 5 then none else some (modJob s a fun j => { j with cklog := v &&& 0x000FFFFFFFF0001F })
  else (clampReg (jobOf s a) o).map fun _ => s

/-- Whether a job runs at level 2 on the device. -/
def levelTwo (s : State) : Bool := s.jobs.any fun p => p.2.level == 2 && s.tasks.any fun t => t.asid.toNat == p.1 && !t.retired

/-- A change of EPOCH or PER: the boundaries passed are those of the new grid. -/
def setTick (s : State) (t : Time) : State := { s with time := { t with ticked := BitVec.ofNat 64 (tickAt t t.ptime.toNat) } }

/-- A write of VFWIN (R433). -/
def writeVfwin (s : State) (n : Nat) (v : Word) : RegWrite :=
  let base := field v 30 10
  let limit := field v 0 7
  if 64 < limit ∨ 384 < base + limit then none
  else some { s with vfwin := put s.vfwin n (place base 30 ||| BitVec.ofNat 64 limit) }

/-- A write of a hub register. -/
def writeHub (s : State) (r : Src) (o : Nat) (v : Word) : RegWrite :=
  if 0x10000 ≤ o ∧ o < 0x11000 then writeQueue s ((o - 0x10000) / 32) (o % 32) v
  else if o = 0x11000 then some (queueReset s (field v 0 7) (field v 56 8))
  else if 0x20000 ≤ o ∧ o < 0x28000 then some (writeJobctl s ((o - 0x20000) / 8) v)
  else if 0x40000 ≤ o ∧ o < 0x240000 then
    if o % 0x200 = 0x18 then some (clampCmd s r ((o - 0x40000) / 0x200) v) else writeClamp s ((o - 0x40000) / 0x200) (o % 0x200) v
  else if o = 0x300008 then (if levelTwo s then none else some (setTick s { s.time with epoch := v }))
  else if o = 0x300010 then
    if levelTwo s ∨ field v 0 6 = 0 then none else some (setTick s { s.time with per := v.setWidth 6 })
  else if o = 0x310000 then some { s with exid := v.setWidth 12 }
  else if o = 0x330000 then some { s with pwrlim := v }
  else if o = 0x340000 ∨ o = 0x340008 then some (if v.getLsbD 0 then dieReset s ((o - 0x340000) / 8) else s)
  else if o = 0x340010 then some (if v.getLsbD 0 then deviceReset s else s)
  else if 0x350000 ≤ o ∧ o < 0x350080 then writeVfwin s ((o - 0x350000) / 8) v
  else (hubReg s o).map fun _ => s

/-! ### Writes: cores -/

/-- TRAPREQ.DONE retires a TRAP that waits (R249). -/
def trapDone (s : State) (c k : Nat) : State :=
  let x := ctxOf s c k
  if x.r.trapPend then
    markProgress (modCtx s c k fun y => { y with r := { y.r with trapPend := false }, seq := seqRetired y.seq 1 }) c k
  else s

/-- Whether 2 KiB or 64 KiB from an address lie in HBM4. -/
def hbmRange (a n : Nat) : Bool := isHbm a && isHbm (a + n - 1)

/-- A write of a context register. -/
def writeCtx (s : State) (c k o : Nat) (v : Word) : RegWrite :=
  let x := ctxOf s c k
  let set (f : CtxRegs → CtxRegs) : RegWrite := some (modRegs s c k f)
  match o with
  | 0x000 => if field v 1 11 = 0 then set fun r => { r with xlroot := v } else none
  | 0x008 => if hbmRange (field v 11 41 * 2048) 2048 then set fun r => { r with fqctl := v } else none
  | 0x010 => if tailOk x.r (v.extractLsb' 8 6) then some (releaseTo s c k (v.extractLsb' 8 6)) else none
  | 0x018 => if 16 < field v 0 5 then none else set fun r => { r with tenant := v.setWidth 5 }
  | 0x020 => if hbmRange (field v 16 36 * 65536) 65536 then set fun r => { r with ovfbase := v } else none
  | 0x038 => some (if v.getLsbD 0 then trapDone s c k else s)
  | 0x050 => set fun r => if v.getLsbD 63 then { r with firstx := r.firstx &&& 0x7FFFFFFFFFFFFFFF } else r
  | 0x058 => set fun r => { r with wdlim := v.setWidth 32 }
  | 0x060 => set fun r => if v.getLsbD 63 then { r with poisaddr := r.poisaddr &&& 0x7FFFFFFFFFFFFFFF } else r
  | 0x100 => set fun r => { r with dbgsel := v &&& 0xFFFF }
  | 0x108 => (selected x).map fun t => dbgWrite s c k t v
  | 0x110 => set fun r => { r with plystale := r.plystale && !v.getLsbD 1, lddrop := r.lddrop && !v.getLsbD 0 }
  | _ => (ctxReg x o).map fun _ => s

/-- EN := 1 starts metering window 0 with every bucket full (R106). -/
def writeBwctl (s : State) (c : Nat) (v : Word) : State :=
  modCore s c fun y =>
    if v.getLsbD 0 then
      { y with bwEn := true, bwStart := s.cycle, share := y.shareNext, active := []
               bucket := (List.range 17).map fun t => (t, ((lookD y.shareNext t 0 * 4096 : Nat) : Int)) }
    else { y with bwEn := false }

/-- A tenant's share, in force at the next refill (R106). -/
def writeShare (s : State) (c t : Nat) (v : Word) : RegWrite :=
  let y := coreOf s c
  let n := field v 0 7
  let others := (List.range 17).foldl (fun a u => if u = t then a else a + lookD y.shareNext u 0) 0
  if 64 < n ∨ 64 < others + n then none else some (setCore s c { y with shareNext := put y.shareNext t n })

/-- Sets a counter of 32 bits by its offset. -/
def setCounter (y : Core) (o : Nat) (v : W32) : Core :=
  if o < 0xC000 then
    let i := (o - 0xB000) / 4
    { y with elems := put y.elems (i / 4) { elemIn y (i / 4) with ovfs := put (elemIn y (i / 4)).ovfs (i % 4) v } }
  else
    let i := (o - 0xC000) / 4
    { y with elems := put y.elems (i / 64) { elemIn y (i / 64) with hist := put (elemIn y (i / 64)).hist (i % 64) v } }

/-- A write of a core's register. -/
def writeCore (s : State) (c o : Nat) (v : Word) : RegWrite :=
  if o < 0x4000 then writeCtx s c (o / 0x1000) (o % 0x1000) v
  else if o = 0x8000 then some (writeBwctl s c v)
  else if 0x8008 ≤ o ∧ o < 0x8090 then writeShare s c ((o - 0x8008) / 8) v
  else if o = 0x9800 then some (if v.getLsbD 0 then coreReset s c else s)
  else if o = 0xA008 then some (modCore s c fun y => { y with mq := { y.mq with psel := v &&& 0x1FFF } })
  else if o = 0xB800 then some (modCore s c fun y => { y with sp := (v &&& 0x000FFFFFFFFFF001, y.sp.2) })
  else if o = 0xB808 then
    some (modCore s c fun y => { y with sp := (y.sp.1, (v &&& 0x1FF0000) ||| (y.sp.2.1 &&& 0x1FF), y.sp.2.2) })
  else if o = 0xB810 then some (modCore s c fun y => { y with sp := (y.sp.1, y.sp.2.1, v &&& 0xFFFFFFFF) })
  else if (0xB000 ≤ o ∧ o < 0xB400) ∨ 0xC000 ≤ o then
    some (modCore s c fun y => setCounter (setCounter y o (v.setWidth 32)) (o + 4) (v.extractLsb' 32 32))
  else (coreReg s c o).map fun _ => s

/-! ### Writes: hbmStacks, logs, trace, configuration -/

/-- A write of a base die's register. -/
def writeStack (s : State) (k o : Nat) (v : Word) : RegWrite :=
  match o with
  | 0x00 => some (modStack s k fun x => { x with ce := field v 32 32, ue := field v 0 32 })
  | 0x08 => some (modStack s k fun x => if v.getLsbD 63 then { x with ueaddr := x.ueaddr &&& 0x7FFFFFFFFFFFFFFF } else x)
  | 0x10 => some (modStack s k fun x => { x with period := v.setWidth 8 })
  | _ => (stackReg s k o).map fun _ => s

/-- A write of a violation log: VALID frees an entry. The spec says nothing of the other fields of a freed entry: both of its
words read zero (log 71). -/
def writeVlog (s : State) (d o : Nat) (v : Word) : RegWrite :=
  let l := lookD s.vlogs d VLog.reset
  if o < 0x100 then
    some (if o % 16 = 8 ∧ v.getLsbD 0 then { s with vlogs := put s.vlogs d { l with entries := del l.entries (o / 16) } } else s)
  else if o = 0x100 then some { s with vlogs := put s.vlogs d { l with lost := field v 32 32 } }
  else none

/-- A write of a register of the device register space. -/
def writeDevice (s : State) (r : Src) (o : Nat) (v : Word) : RegWrite :=
  if o < 0x1000000 then writeHub s r o v
  else if o < 0x1000000 + Config.cores * 0x10000 then writeCore s ((o - 0x1000000) / 0x10000) (o % 0x10000) v
  else if 0x2400000 ≤ o ∧ o < 0x2480000 then writeStack s ((o - 0x2400000) / 0x10000) (o % 0x10000) v
  else if 0x2800000 ≤ o ∧ o < 0x2803000 then writeVlog s ((o - 0x2800000) / 0x1000) (o % 0x1000) v
  else none

/-- A write of a trace ring's registers (R425). -/
def writeRing (s : State) (o : Nat) (v : Word) : RegWrite :=
  let i := o / 0x1000000 * 64 + o % 0x1000000 / 0x40
  let r := lookD s.rings i Ring.reset
  let set (x : Ring) : RegWrite := some { s with rings := put s.rings i x }
  if o < 0x3000000 ∧ o % 0x1000000 < 0x1000 then
    match o % 0x40 with
    | 0x00 => set { r with trctl := v &&& 0xFFF0000000000001 }
    | 0x08 => set { r with trbase := v &&& 0x000FFFFFFFFFF000 }
    | 0x10 => if field v 0 5 < 7 ∨ 24 < field v 0 5 then none else set { r with size := field v 0 5 }
    | 0x20 => set { r with tail := field v 0 24 }
    | _ => (traceReg s o).map fun _ => s
  else none

/-- Whether a core's way may be written (R23): free, or its context clamped or saved. -/
def wayOpen (y : Core) (j : Nat) : Bool := let t := (ctxIn y j).r.state; !t.resident || t == .clamped || t == .saved

/-- Puts a word into a record's bytes. -/
def patchWord (bs : List Byte) (o : Nat) (v : Word) : List Byte := bs.take o ++ natLE 8 v.toNat ++ bs.drop (o + 8)

/-- A write of the configuration space (R23, R185): none where the way's context runs. -/
def writeCfg (s : State) (o : Nat) (v : Word) : RegWrite :=
  let c := o / 0x100000
  let y := coreOf s c
  let a := o % 0x100000
  if Config.cores ≤ c then some s
  else if a < 0x20000 then
    let e := a / 0x800
    let j := a / 0x200 % 4
    let w := wayOf y e j
    if !wayOpen y j then none
    else
      let w' : Way := { wayOfBytes (patchWord (wayBytes w) (a % 0x200) v) with v := w.v, jig := w.jig }
      some (modElem s c e fun x => { x with ways := put x.ways j w' })
  else if a < 0x20000 + 72 * 0x400 then
    let i := (a - 0x20000) / 0x100
    if !wayOpen y (i % 4) then none
    else some (setCore s c { y with boxes := put y.boxes i (boxOfBytes (patchWord (boxBytes (lookD y.boxes i BoxWay.reset)) (a % 0x100) v)) })
  else if 0x40000 ≤ a ∧ a < 0x40200 then
    let e := (a - 0x40000) / 8
    if (List.range 4).any fun j => !wayOpen y j && field v (16 * j + 14) 2 != field (tagsWord y e) (16 * j + 14) 2 then none
    else
      some (modElem s c e fun x => { x with ways := (List.range 4).foldl (fun m j =>
        put m j { lookD m j Way.reset with v := v.getLsbD (16 * j + 15), jig := v.getLsbD (16 * j + 14) }) x.ways })
  else if 0x40200 ≤ a ∧ a < 0x40220 then
    let j := (a - 0x40200) / 8
    if !wayOpen y j then none else some (modCtx s c j fun x => { x with image := v &&& 0x8000FFFFFFFFFFFF })
  else some s

/-- A write of an aligned word of the three spaces. -/
def writeWord (s : State) (r : Src) (pa : Nat) (v : Word) : RegWrite :=
  if pa < Config.cfgBase then writeDevice s r (pa - Config.regBase) v
  else if pa < Config.trcBase then writeCfg s (pa - Config.cfgBase) v
  else writeRing s (pa - Config.trcBase) v

/-- Whether a word holds bits that a write of 1 clears: such bits take no part in a write of the other half. -/
def clearsByOne (pa : Nat) : Bool :=
  let o := pa - Config.regBase
  if o < 0x1000000 then false
  else if o < 0x2000000 then o % 0x10000 < 0x4000 && (o % 0x1000 == 0x50 || o % 0x1000 == 0x60 || o % 0x1000 == 0x110)
  else (0x2400000 ≤ o && o < 0x2480000 && o % 0x10000 == 8) || (0x2800000 ≤ o && o < 0x2803000 && o % 16 == 8)

/-- The word a write of 4 bytes makes with the half it leaves. -/
def mergeHalf (pa : Nat) (old v : Word) : Word :=
  if pa % 8 = 4 then (old &&& 0xFFFFFFFF) ||| v <<< 32 else (old &&& 0xFFFFFFFF00000000) ||| (v &&& 0xFFFFFFFF)

/-- A write of the three spaces (R20, R21, R23). -/
def spaceWrite (s : State) (r : Src) (pa n : Nat) (v : Word) : State :=
  if !privileged r || !spaceForm pa n || !isDevice pa then refuse s r 1 pa (spaceAcc pa true)
  else
    let w := pa / 8 * 8
    let old := if clearsByOne w then 0 else match spaceReg s w with | some x => x | none => 0
    match writeWord (answer s []) r w (if n = 8 then v else mergeHalf pa old v) with
    | some t => t
    | none => refuse s r 1 pa (spaceAcc pa true)

end Sys2Proof.Machine
end

