-- ==== Sys2Proof/Machine/LoadStore.lean ====
section
/-! DEFINITION. The loads and stores of the sequencer (R303, R305, R322). -/
namespace Sys2Proof.Machine

/-- A service core's read of the register, configuration or trace space (R20); an error response carries a free value. -/
def devLoad (n : Nat) (fin : State → Word → State) (s : State) (va : Word) : State :=
  match s.cur with
  | .svc i =>
    match spaceRead s (.svc i) va.toNat n with
    | (t, some v) => fin t v
    | (t, none) => let (v, u) := drawFree t; fin u v
  | _ => s

/-- A service core's write of those spaces. -/
def devStore (n : Nat) (v : Word) (fin : State → Word → State) (s : State) (va : Word) : State :=
  match s.cur with
  | .svc i => fin (spaceWrite s (.svc i) va.toNat n v) 0
  | _ => s

/-- Whether an ordering is SC. -/
def ordSc (q : MemOrd) : Bool := match q with | .sc => true | _ => false
/-- What must have been performed before a store is sent: its release's scope, DEV for SC (R120, R125). -/
def ordBefore (q : MemOrd) : Option Scope := match q with | .sync z => some z | .sc => some .dev | .plain => none
/-- R37's KIND of a load or a store with an ordering. -/
def ordKind (q : MemOrd) (kind : Nat) : Nat := if ordSc q then 7 else kind

/-- A load of the executing sequencer. -/
def loadOp (d : Reg) (va : Word) (z : Size) (q : MemOrd) (words : Nat) (s : State) : State :=
  let n := z.bytes
  let fin (t : State) (v : Word) : State := retireS t d v words
  access s { va := va, n := n, align := n, kind := ordKind q 0, need := if ordSc q then needSc false else needLoad, write := false
             sc := ordSc q, op := .load n, charge := n, rel := if ordSc q then some .dev else none } (devLoad n fin) fin

/-- A store of the executing sequencer. -/
def storeOp (d : Reg) (va : Word) (z : Size) (q : MemOrd) (words : Nat) (s : State) : State :=
  let n := z.bytes
  let v := srcS s d
  let fin (t : State) (_ : Word) : State := retire t words
  access s { va := va, n := n, align := n, kind := ordKind q 1, need := if ordSc q then needSc true else needStore, write := true
             sc := ordSc q, op := .store (natLE n v.toNat) false, charge := n, rel := ordBefore q } (devStore n v fin) fin

/-- The ordering of the one-word forms: plain, or DEV. -/
def shortOrd (q : Bool) : MemOrd := if q then .sync .dev else .plain

/-- LDS (R305). -/
def execLds (d a : Reg) (o : BitVec 12) (z : Size) (q : Bool) (s : State) : Out :=
  .next (loadOp d (addrOf (curSeq s) a o) z (shortOrd q) 1 s)
/-- LDSC (R322). -/
def execLdsc (d a : Reg) (o : BitVec 12) (z : Size) (s : State) : Out :=
  .next (loadOp d (addrOf (curSeq s) a o) z .sc 1 s)
/-- LDS with any scope or a wide offset (R305). -/
def execLdsSx (d a : Reg) (z : Size) (q : MemOrd) (o : W32) (s : State) : Out :=
  .next (loadOp d (addrOf (curSeq s) a o) z q 2 s)
/-- STS (R305). -/
def execSts (d a : Reg) (o : BitVec 12) (z : Size) (q : Bool) (s : State) : Out :=
  .next (storeOp d (addrOf (curSeq s) a o) z (shortOrd q) 1 s)
/-- STSC (R322). -/
def execStsc (d a : Reg) (o : BitVec 12) (z : Size) (s : State) : Out :=
  .next (storeOp d (addrOf (curSeq s) a o) z .sc 1 s)
/-- STS with any scope or a wide offset (R305). -/
def execStsSx (d a : Reg) (z : Size) (q : MemOrd) (o : W32) (s : State) : Out :=
  .next (storeOp d (addrOf (curSeq s) a o) z q 2 s)

end Sys2Proof.Machine
end

