-- ==== Sys2Proof/Machine/Atomic.lean ====
section
/-! DEFINITION. The atomics and the exact accumulate operations of the sequencer (R318, R319, R321). -/
namespace Sys2Proof.Machine

/-- A service core's atomic to the register, configuration or trace space has no width they take (R20): an error response,
whose value is free. -/
def devAtomic (fin : State → Word → State) (s : State) (va : Word) : State :=
  match s.cur with
  | .svc i => let (v, t) := drawFree (refuse s (.svc i) 1 va.toNat 2); fin t v
  | _ => s

/-- What must have been performed before an atomic is sent: DEV scope for REL and SC (R120, R125). -/
def atomBefore (q : AtomOrd) : Option Scope := match q with | .rel => some .dev | .sc => some .dev | _ => none
/-- Whether it is performed on the ring (R322). -/
def atomSc (q : AtomOrd) : Bool := match q with | .sc => true | _ => false

/-- An atomic of the executing sequencer: d receives the old value, and for ACAS holds the compare value (R318). -/
def atomicOp (op : Nat) (d : Reg) (va v : Word) (n : Nat) (q : AtomOrd) (s : State) : State :=
  let fin (t : State) (x : Word) : State := retireS t d x 1
  access s { va := va, n := n, align := n, kind := if atomSc q then 7 else 2, need := { needStore with host := hostAtomic op && !atomSc q }, write := true
             sc := atomSc q, op := .atomic op n v (srcS s d), charge := 16, rel := atomBefore q } (devAtomic fin) fin

/-- The size of an atomic. -/
def atomSize (z : Bool) : Nat := if z then 8 else 4

/-- An exact accumulate operation (R321), on 64 aligned bytes. -/
def axOp (va : Word) (op : ReqOp) (fin : State → Word → State) (s : State) : State :=
  access s { va := va, n := 64, align := 64, kind := 8, need := { needLoad with write := op.writes, host := false }
             write := op.writes, sc := false, op := op, charge := 16, rel := none } (devAtomic fin) fin

/-- AADD (R318, R319). -/
def execAadd (g : Guard) (d a b : Reg) (z : Bool) (q : AtomOrd) (s : State) : Out :=
  .next (guarded g s fun t => atomicOp 0 d (srcS t a) (srcS t b) (atomSize z) q t)
/-- AAND (R318, R319). -/
def execAand (g : Guard) (d a b : Reg) (z : Bool) (q : AtomOrd) (s : State) : Out :=
  .next (guarded g s fun t => atomicOp 1 d (srcS t a) (srcS t b) (atomSize z) q t)
/-- AOR (R318, R319). -/
def execAor (g : Guard) (d a b : Reg) (z : Bool) (q : AtomOrd) (s : State) : Out :=
  .next (guarded g s fun t => atomicOp 2 d (srcS t a) (srcS t b) (atomSize z) q t)
/-- AXOR (R318, R319). -/
def execAxor (g : Guard) (d a b : Reg) (z : Bool) (q : AtomOrd) (s : State) : Out :=
  .next (guarded g s fun t => atomicOp 3 d (srcS t a) (srcS t b) (atomSize z) q t)
/-- AMIN (R318, R319). -/
def execAmin (g : Guard) (d a b : Reg) (z : Bool) (q : AtomOrd) (s : State) : Out :=
  .next (guarded g s fun t => atomicOp 4 d (srcS t a) (srcS t b) (atomSize z) q t)
/-- AMAX (R318, R319). -/
def execAmax (g : Guard) (d a b : Reg) (z : Bool) (q : AtomOrd) (s : State) : Out :=
  .next (guarded g s fun t => atomicOp 5 d (srcS t a) (srcS t b) (atomSize z) q t)
/-- AMINU (R318, R319). -/
def execAminu (g : Guard) (d a b : Reg) (z : Bool) (q : AtomOrd) (s : State) : Out :=
  .next (guarded g s fun t => atomicOp 6 d (srcS t a) (srcS t b) (atomSize z) q t)
/-- AMAXU (R318, R319). -/
def execAmaxu (g : Guard) (d a b : Reg) (z : Bool) (q : AtomOrd) (s : State) : Out :=
  .next (guarded g s fun t => atomicOp 7 d (srcS t a) (srcS t b) (atomSize z) q t)
/-- ASWP (R318, R319). -/
def execAswp (g : Guard) (d a b : Reg) (z : Bool) (q : AtomOrd) (s : State) : Out :=
  .next (guarded g s fun t => atomicOp 8 d (srcS t a) (srcS t b) (atomSize z) q t)
/-- ACAS (R318, R319). -/
def execAcas (g : Guard) (d a b : Reg) (z : Bool) (q : AtomOrd) (s : State) : Out :=
  .next (guarded g s fun t => atomicOp 9 d (srcS t a) (srcS t b) (atomSize z) q t)
/-- AFMIN (R318, R319): 4 bytes. -/
def execAfmin (g : Guard) (d a b : Reg) (q : AtomOrd) (s : State) : Out :=
  .next (guarded g s fun t => atomicOp 10 d (srcS t a) (srcS t b) 4 q t)
/-- AFMAX (R318, R319): 4 bytes. -/
def execAfmax (g : Guard) (d a b : Reg) (q : AtomOrd) (s : State) : Out :=
  .next (guarded g s fun t => atomicOp 11 d (srcS t a) (srcS t b) 4 q t)
/-- AXADD (R321). -/
def execAxadd (g : Guard) (a b : Reg) (f : AxFmt) (s : State) : Out :=
  .next (guarded g s fun t => axOp (srcS t a) (.axadd f.code.toNat ((srcS t b).setWidth 32) 0) (fun u _ => retire u 1) t)
/-- AXRD (R321). -/
def execAxrd (g : Guard) (d a : Reg) (f : AxFmt) (s : State) : Out :=
  .next (guarded g s fun t => axOp (srcS t a) (.axrd f.code.toNat) (fun u v => retireS u d v 1) t)
/-- AXCLR (R321). -/
def execAxclr (g : Guard) (a : Reg) (s : State) : Out :=
  .next (guarded g s fun t => axOp (srcS t a) .axclr (fun u _ => retire u 1) t)

end Sys2Proof.Machine
end

