-- ==== Sys2Proof/Machine/Control.lean ====
section
/-! DEFINITION. Control transfers, traps and loops of the sequencer (R215, R224, R248–R252). -/
namespace Sys2Proof.Machine

/-- Transfers the executing sequencer, writing a scalar first where a call links: a misaligned target traps ALIGN at
the transfer, which makes no access (R215, R395). -/
def transfer (s : State) (target : Word) (link : Bool) : State :=
  if target.toNat % 4 ≠ 0 then trapCur s .align
  else
    progressed (modCur s fun q => seqJump (if link then writeS q linkReg (q.pc + 4) else q) target)

/-- BR (R248): an unmet condition continues at the next word. -/
def execBr (g : Guard) (o : BitVec 22) (s : State) : Out :=
  .next (if guardHolds (curSeq s) g then transfer s (offTarget (curSeq s).pc o) false else retire s 1)

/-- JMP (R248). -/
def execJmp (o : BitVec 22) (s : State) : Out := .next (transfer s (offTarget (curSeq s).pc o) false)

/-- CALL (R248): S31 := PC + 4. -/
def execCall (o : BitVec 22) (s : State) : Out := .next (transfer s (offTarget (curSeq s).pc o) true)

/-- JR (R248). -/
def execJr (g : Guard) (a : Reg) (s : State) : Out := .next (guarded g s fun t => transfer t (srcS t a) false)

/-- CALLR (R248): the target is read before S31 is written. -/
def execCallr (g : Guard) (a : Reg) (s : State) : Out := .next (guarded g s fun t => transfer t (srcS t a) true)

/-- RET (R248). -/
def execRet (g : Guard) (s : State) : Out := .next (guarded g s fun t => transfer t (srcS t linkReg) false)

/-- A TRAP of a context asks for service and waits for DONE; on a service core it enters the handler (R249). -/
def trapService (n : BitVec 5) (s : State) : State :=
  match s.cur with
  | .seq c k =>
    if curWait s = .trapped then s
    else
      emit (modCtx s c k fun x =>
        { x with r := { x.r with trapPend := true, trapCode := n }, seq := { x.seq with wait := .trapped } })
        (.service "TRAPREQ" (c * 4 + k) n.toNat)
  | .svc m => enterHandler s m .none (some n) ((svcOf s m).seq.pc + 4)
  | _ => s

/-- TRAP (R249). -/
def execTrap (g : Guard) (n : BitVec 5) (s : State) : Out := .next (guarded g s (trapService n))

/-- HRET (R249): PRIV in a job context. -/
def handlerReturn (s : State) : State :=
  match s.cur with
  | .svc n => if (svcOf s n).hpc.toNat % 4 ≠ 0 then trapCur s .align else leaveHandler s n
  | _ => privCur s 0

/-- HRET (R249). -/
def execHret (g : Guard) (s : State) : Out := .next (guarded g s handlerReturn)

/-- DSTOP (R249): BRKPT, without retiring. -/
def execDstop (g : Guard) (s : State) : Out := .next (guarded g s fun t => trapCur t .brkpt)

/-- NOP (R249). -/
def execNop (g : Guard) (s : State) : Out := .next (guarded g s fun t => retire t 1)

/-- HALT (R249): the sequencer stops after retiring. -/
def execHalt (g : Guard) (s : State) : Out :=
  .next (guarded g s fun t => modCur (retire t 1) fun q => { q with stopped := true })

/-- RESERVED_ENCODING (R224): ILLOP at the word's address. -/
def execReservedEncoding (s : State) : Out := .next (trapCur s .illop)

/-! ### Loops (R250, R251) -/

/-- Whether the n-th word from an address is the first word of an SX instruction, reading from a first word on. -/
def endsInSx (s : State) (a : Word) : Nat → Bool
  | 0 => match (fetchWord s a).2 with | .word w => isSx w | _ => false
  | n + 1 =>
    match (fetchWord s a).2 with
    | .word w => if isSx w then (match n with | 0 => false | m + 1 => endsInSx s (a + 8) m) else endsInSx s (a + 4) n
    | _ => endsInSx s (a + 4) n

/-- Whether R251 refuses a loop whose body runs from `first` to `last`. -/
def loopRefused (s : State) (l : Lc) (len : Nat) : Bool :=
  let q := curSeq s
  let last := q.pc + 4 + BitVec.ofNat 64 (4 * len)
  3 ≤ q.loops.length || (q.loops.any fun f => f.lc == l.code) ||
    (match q.loops with | f :: _ => f.last < last | [] => false) || endsInSx s (q.pc + 4) len

/-- The sequencer at a loop: a count of 0 skips the body, as the retirement of its last word (R250). -/
def seqLoop (q : Seq) (l : Lc) (len : Nat) (count : W32) : Seq :=
  let first := q.pc + 4
  let last := first + BitVec.ofNat 64 (4 * len)
  if count = 0 then
    let x := loopStep q.loops (put q.lc l.code.toNat 0) last
    { q with loops := x.1, lc := x.2.1, pc := x.2.2, wait := .none }
  else
    { q with lc := put q.lc l.code.toNat count, pc := first, wait := .none,
             loops := { lc := l.code, first := first, last := last } :: q.loops,
             loopBuf := if q.loops = [] then [] else q.loopBuf }

/-- A loop instruction with its count read. -/
def startLoop (l : Lc) (len : Nat) (count : Word) (s : State) : State :=
  if above count 32 || loopRefused s l len then trapCur s .illop
  else progressed (modCur s fun q => seqLoop q l len (count.setWidth 32))

/-- LOOP (R250). -/
def execLoop (l : Lc) (n : BitVec 8) (i : BitVec 10) (s : State) : Out := .next (startLoop l n.toNat (immZ i) s)

/-- LOOPR (R250). -/
def execLoopr (l : Lc) (n : BitVec 8) (a : Reg) (s : State) : Out := .next (startLoop l n.toNat (srcS s a) s)

end Sys2Proof.Machine
end

