-- ==== Sys2Proof/Machine/Exchange.lean ====
section
/-! DEFINITION. The exchange instructions (R142, R328–R331, R334). -/
namespace Sys2Proof.Machine

/-! ### Buffers over pages (R19) -/

/-- The parts of a range of VAs, cut at pages. -/
def pageParts : Nat → Nat → Nat → List (Nat × Nat)
  | 0, _, _ => []
  | f + 1, va, n =>
    if n = 0 then [] else
      let m := min n (4096 - va % 4096)
      (va, m) :: pageParts f (va + m) (n - m)

/-- The parts of n bytes at an address. -/
def partsOf (va n : Nat) : List (Nat × Nat) := pageParts (n / 4096 + 2) va n

/-- Translates parts in order, to the first that faults. -/
def translateParts (s : State) (c : Nat) (root : Word) (need : Need) : List (Nat × Nat) → State × Except (Nat × XFault) (List (Phys × Nat))
  | [] => (s, .ok [])
  | (va, n) :: rest =>
    match translate s c root (BitVec.ofNat 64 va) need with
    | (t, .error f) => (t, .error (va, f))
    | (t, .ok p) =>
      match translateParts t c root need rest with
      | (u, .error e) => (u, .error e)
      | (u, .ok l) => (u, .ok ((p, n) :: l))

/-- Reads parts: the bytes, and the index of the first poisoned one. -/
def readParts (s : State) : List (Phys × Nat) → List Byte × Option Nat
  | [] => ([], none)
  | (p, n) :: rest =>
    let (bs, b) := physRead s p n
    let (cs, d) := readParts s rest
    (bs ++ cs, match b with | some i => some i | none => d.map (n + ·))

/-- Writes bytes over parts, as many as there are. -/
def writeParts (s : State) (asid : Nat) : List (Phys × Nat) → List Byte → State
  | [], _ => s
  | (p, n) :: rest, bs => if bs = [] then s else writeParts (physWrite s asid p (bs.take n) false) asid rest (bs.drop n)

/-- Whether a part must wait at its slice. -/
def partsHeld (s : State) (l : List (Phys × Nat)) : Bool := l.any fun p => heldAt s p.1 p.2

/-- What an exchange buffer demands of its pages (R14, R329). -/
def needXRead : Need := { needLoad with pin := true }
def needXWrite : Need := { needStore with pin := true }
def needXPost : Need := { needStore with pin := true, host := false }

/-- A buffer of the executing context, translated: it goes on, waits for a copy or a lock, or faults. -/
def withBuffer (s : State) (c k va n : Nat) (need : Need) (go : State → List (Phys × Nat) → State) : State :=
  let x := ctxOf s c k
  match translateParts s c x.r.xlroot need (partsOf va n) with
  | (t, .error (at_, f)) =>
    let kind := if need.write then 1 else 0
    faultAt t (BitVec.ofNat 64 at_) (4096 < va % 4096 + n) kind kind f
  | (t, .ok l) =>
    if scoreStalls (coreOf t c) (globalRng (asidOf x) va n) need.write || partsHeld t l then waitIn t (curWait t) else go t l

/-! ### XSEND (R328) -/

def xsLen (w : List Word) : Nat := field (nth w 0 0) 0 32
def xsDev (w : List Word) : Nat := field (nth w 0 0) 48 12
def xsCore (w : List Word) : Nat := field (nth w 0 0) 40 8
def xsChan (w : List Word) : Nat := field (nth w 0 0) 36 4
def xsSrc (w : List Word) : Nat := field (nth w 1 0) 0 48
def xsCen (w : List Word) : Bool := (nth w 2 0).getLsbD 63
def xsCmpl (w : List Word) : Nat := field (nth w 2 0) 0 48

/-- Whether the zero fields are zero and the length is in range. -/
def xsendOk (w : List Word) : Bool :=
  field (nth w 0 0) 60 4 == 0 && field (nth w 0 0) 32 4 == 0 && field (nth w 1 0) 48 16 == 0 && field (nth w 2 0) 48 15 == 0 &&
    nth w 3 0 == 0 && 1 ≤ xsLen w && xsLen w ≤ 0x100000

/-- A task's level, 0 when there is none, and its TAG. -/
def taskLevel (s : State) (n : Nat) : Nat := match taskOf s n with | some t => t.level | none => 0
def taskTag (s : State) (n : Nat) : W32 := match taskOf s n with | some t => t.tag | none => 0

/-- Whether a core of a device is a member of the context's task (R147). -/
def inTask (s : State) (c k dev core : Nat) : Bool :=
  let x := ctxOf s c k
  match taskOf s x.task with
  | none => false
  | some t =>
    if dev = s.exid.toNat then t.cores.contains core
    else t.tier == 4 && core < Config.cores && Config.jobDevice (asidOf x) dev

/-- The message's bytes have been read: it leaves, and XSEND retires. -/
def xsendGo (c k : Nat) (w : List Word) (cmpl : Option Phys) (s : State) (data : List Byte) : State :=
  let x := ctxOf s c k
  let asid := BitVec.ofNat 12 (asidOf x)
  let mid := s.nextId % 2 ^ 41
  let m : Message :=
    { dev := s.exid.toNat, core := c, asid := asid, task := if xsDev w = s.exid.toNat then some x.task else none, tag := taskTag s x.task
      dcore := xsCore w, chan := xsChan w, mid := mid, tell := xsCen w, data := data }
  let u := { s with
    nextId := s.nextId + 1
    sends := s.sends ++ [{ mid := mid, asid := asid, core := c, key := x.r.key, cmpl := cmpl.map fun p => (p.pa, p.leaf), landed := false }] }
  retire (sendOut u (taskLevel s x.task) (.msg (xsDev w) m)) 1

/-- XSEND with its record read and CMPL translated. -/
def xsendRead (c k : Nat) (w : List Word) (cmpl : Option Phys) (s : State) : State :=
  withBuffer s c k (xsSrc w) (xsLen w) needXRead fun t l =>
    match admitted t c k (xsLen w) (atSeq k) with
    | (u, false) => waitIn u .none
    | (u, true) =>
      let v := signAccess u c k (xsSrc w) (xsLen w) false
      match readParts v l with
      | (_, some i) => poisonCur v 0 (xsSrc w + i)
      | (bs, none) => xsendGo c k w cmpl v bs

/-- XSEND with its record read. -/
def xsendRecord (c k : Nat) (s : State) (w : List Word) : State :=
  if !xsendOk w || !inTask s c k (xsDev w) (xsCore w) then trapCur s .illop
  else if !xsCen w then xsendRead c k w none s
  else
    let va := BitVec.ofNat 64 (xsCmpl w)
    if xsCmpl w % 8 ≠ 0 then faultGlobal s va 2 (bareFault .align)
    else
      match translate s c (ctxOf s c k).r.xlroot va needXWrite with
      | (t, .error f) => faultGlobal t va 2 f
      | (t, .ok p) => xsendRead c k w (some p) t

/-- An instruction that is a release at POD scope: its release waits, then its record is read. -/
def podRelease (v : Word) (go : Nat → Nat → State → List Word → State) (c k : Nat) (s : State) : State :=
  match releaseNow s (.unit c k 0) .pod with
  | (t, false) => waitIn t .none
  | (t, true) => readRecord t c k v 32 32 (go c k)

/-- XSEND (R328). -/
def execXsend (g : Guard) (a : Reg) (s : State) : Out := .next (guarded g s fun t => ctxOnly t (podRelease (srcS t a) xsendRecord))

/-! ### XRECV (R329) -/

/-- XRECV posts its buffer. -/
def xrecvPost (va b : Word) (c k : Nat) (s : State) : State :=
  let cap := field b 8 24
  if above b 32 || field b 4 4 ≠ 0 || cap = 0 || 0x100000 < cap then trapCur s .illop
  else
    withBuffer s c k va.toNat cap needXPost fun t l =>
      waitIn (modCtx (signAccess t c k va.toNat cap true) c k fun x =>
        { x with posted := [{ chan := field b 0 4, cap := cap, pages := l.map fun p => (p.1.pa, p.2), got := none }] }) .posted

/-- XRECV: it posts its buffer and waits for the delivery. -/
def xrecvOp (d : Reg) (va b : Word) (c k : Nat) (s : State) : State :=
  match (ctxOf s c k).seq.wait with
  | .posted =>
    match (ctxOf s c k).posted with
    | y :: rest =>
      match y.got with
      | some v => retireS (modCtx s c k fun x => { x with posted := rest }) d v 1
      | none => s
    | [] => waitIn s .none
  | _ => xrecvPost va b c k s

/-- XRECV (R329). -/
def execXrecv (g : Guard) (d a b : Reg) (s : State) : Out :=
  .next (guarded g s fun t => ctxOnly t (xrecvOp d (srcS t a) (srcS t b)))

/-! ### Reductions (R330, R331, R334) -/

/-- The contribution a descriptor names. -/
def redDesc (s : State) (c k : Nat) (w : List Word) : Contribution :=
  let x := ctxOf s c k
  let w0 := nth w 0 0
  let w1 := nth w 1 0
  { asid := BitVec.ofNat 12 (asidOf x), op := field w0 56 8, fmt := field w0 52 4, lanes := field w0 46 6, root := field w0 32 12
    key := w0.extractLsb' 16 16, round := w0.setWidth 16, nrank := rankCount (field w1 52 12), rank := field w1 40 12
    tmo := field w1 0 16, dev := s.exid.toNat, core := c, who := x.r.key, vals := [], poison := false }

def redSrc (w : List Word) : Nat := field (nth w 2 0) 0 48
def redDst (w : List Word) : Nat := field (nth w 3 0) 0 48
/-- Bytes of the lanes. -/
def redBytes (x : Contribution) : Nat := x.lanes * redSize x.fmt

/-- The checks of R334 on a descriptor. -/
def redOk (x : Contribution) (w : List Word) : Bool :=
  x.op ≤ 7 && x.fmt ≤ 3 && 1 ≤ x.lanes && x.lanes ≤ 32 && pairOk (xredOp x.op) x.fmt && x.rank < x.nrank &&
    field (nth w 0 0) 44 2 == 0 && field (nth w 1 0) 16 24 == 0 && field (nth w 2 0) 48 16 == 0 && field (nth w 3 0) 48 16 == 0

/-- A descriptor that passes its checks; a misaligned DST raises ALIGN (R334). -/
def redChecked (c k : Nat) (go : Contribution → State → State) (s : State) (w : List Word) : State :=
  let x := redDesc s c k w
  if !redOk x w then trapCur s .illop
  else if redDst w % 64 ≠ 0 then faultGlobal s (BitVec.ofNat 64 (redDst w)) 1 (bareFault .align)
  else go x s

/-- The values of a contribution, from its bytes. -/
def redVals (x : Contribution) (bs : List Byte) : List Word :=
  (List.range x.lanes).map fun i => BitVec.ofNat 64 (leNat ((bs.drop (i * redSize x.fmt)).take (redSize x.fmt)))

/-- XRED with its descriptor read: the values are read, and the contribution goes to ROOT's exchange unit. -/
def xredRecord (c k : Nat) (s : State) (w : List Word) : State :=
  redChecked c k (fun x s1 =>
    withBuffer s1 c k (redSrc w) (redBytes x) needXRead fun t l =>
      match admitted t c k (redBytes x) (atSeq k) with
      | (u, false) => waitIn u .none
      | (u, true) =>
        let v := signAccess u c k (redSrc w) (redBytes x) false
        let (bs, bad) := readParts v l
        retire (sendOut v (taskLevel v (ctxOf v c k).task) (.red x.root { x with vals := redVals x bs, poison := bad.isSome })) 1) s w

/-- XRED (R331). -/
def execXred (g : Guard) (a : Reg) (s : State) : Out := .next (guarded g s fun t => ctxOnly t (podRelease (srcS t a) xredRecord))

/-- The bytes of a result record and, unless it was refused, the lanes (R334). -/
def recordBytes (x : Contribution) (r : GotResult) : List Byte :=
  let w0 := nth r.words 0 0
  natLE 8 w0.toNat ++ natLE 8 (nth r.words 1 0).toNat ++ natLE 48 0 ++
    (if field w0 60 4 = 4 then [] else (List.range x.lanes).flatMap fun i => natLE (redSize x.fmt) (nth r.lanes i 0).toNat)

/-- XRSLT with its descriptor checked: it waits for the result, then writes the record. -/
def xrsltWait (d : Reg) (c k : Nat) (w : List Word) (x : Contribution) (s : State) : State :=
  match (ctxOf s c k).results.find? fun r => r.key == x.key && r.round == x.round with
  | none => waitIn s (.result w)
  | some r =>
    let bs := recordBytes x r
    withBuffer s c k (redDst w) bs.length needXWrite fun t l =>
      match admitted t c k bs.length (atSeq k) with
      | (u, false) => waitIn u (.result w)
      | (u, true) =>
        let v := signAccess u c k (redDst w) bs.length true
        retireS (modCtx (writeParts v (asidOf (ctxOf v c k)) l bs) c k fun y => { y with results := y.results.erase r }) d (nth r.words 0 0) 1

/-- XRSLT: its descriptor is read once. -/
def xrsltOp (d : Reg) (v : Word) (c k : Nat) (s : State) : State :=
  match (ctxOf s c k).seq.wait with
  | .result w => xrsltWait d c k w (redDesc s c k w) s
  | _ =>
    readRecord s c k v 32 32 fun t w =>
      redChecked c k (fun x u => withBuffer u c k (redDst w) (64 + redBytes x) needXWrite fun y _ => xrsltWait d c k w x y) t w

/-- XRSLT (R334). -/
def execXrslt (g : Guard) (d a : Reg) (s : State) : Out := .next (guarded g s fun t => ctxOnly t (xrsltOp d (srcS t a)))

end Sys2Proof.Machine
end

