-- ==== Sys2Proof/Machine/ExchangeEvents.lean ====
section
/-! DEFINITION. The exchange unit's events (R328, R329, R331–R334, R408, R436–R438). -/
namespace Sys2Proof.Machine

/-! ### Flits (R436–R438) -/

/-- The cause of a code (R38). -/
def causeOf (n : Nat) : Cause :=
  match [Cause.none, .illop, .priv, .align, .pageflt, .perm, .bufown, .poison, .fpx, .jigfail, .ovfq, .nmerr, .xlate, .qfulltmo,
         .phaseconf, .watchdog, .brkpt, .clampin, .savearea].find? fun c => c.code == n with
  | some c => c
  | none => .none

/-- A clamp request as a CTL flit carries it: the ASID, then words 0 to 2 of R414's record (log 23). -/
def ctlRequest (l : List Word) : Nat × CauseRec :=
  let w0 := nth l 1 0
  let w1 := nth l 2 0
  (field (nth l 0 0) 0 12,
   { unit := field w0 59 4, cause := causeOf (field w0 51 8), dev := field w0 39 12, core := field w0 31 8, ctx := field w0 29 2
     siteA := field w0 19 10, siteB := field w0 14 5, iter := w1.extractLsb' 48 16, colour := w1.extractLsb' 40 8, tick := nth l 3 0 })

/-- A flit for this device: a piece of a message, a contribution or a result, a clamp request, or a time message, which
PTP_MESSAGE takes. -/
def takeFlit (s : State) (f : Flit) : State :=
  match f.ty with
  | 3 => if f.data.length = 32 then let (a, r) := ctlRequest (wordsOf 4 f.data); receiveRequest s a r else s
  | 4 => s
  | _ => takePiece s f

/-- A flit that has passed its checks (R436–R438): a credit comes back, a reserved type is counted, transit flits go on. -/
def acceptFlit (s : State) (p : Nat) (f : Flit) : State :=
  let t := modPortX s p fun x => { x with expect := (x.expect + 1) % 65536 }
  if 7 ≤ f.ty then modPortX t p fun x => { x with errors := x.errors + 1 }
  else
    match f.ty with
    | 5 => pump (modPortX t p fun x => { x with used := put x.used f.mid (lookD x.used f.mid 0 - 1) }) p (portX t p).out.length
    | 6 => t
    | _ =>
      let u := toPort t p [{ ty := 5, dst := f.src, src := s.exid.toNat, vc := 0, seq := 0, mid := f.vc, crc := 0, data := [] }]
      match routeOf u f.dst with
      | some q => toPort u q [f]
      | none => takeFlit u f

/-- EXCHANGE_FLIT_RECEIVE (R436–R438): a flit that fails its CRC is NAKed; one out of its order comes again. -/
def execExchangeFlitReceive (p : Nat) (f : Flit) (s : State) : Out :=
  .next (
    if (portX s p).down || 16 ≤ p || 240 < f.data.length then s
    else if f.crc ≠ flitCrc f then emit s (.nak p f.seq)
    else if f.seq ≠ (portX s p).expect then s
    else acceptFlit s p f)

/-- The flits of a replay buffer from a sequence number on. -/
def replayFrom (n : Nat) : List Flit → List Flit
  | [] => []
  | f :: r => if f.seq = n then f :: r else replayFrom n r

/-- EXCHANGE_REPLAY (R437): a NAK makes the sender replay; after 16 failed replays of one flit the port goes DOWN. -/
def execExchangeReplay (p n : Nat) (s : State) : Out :=
  .next (
    let x := portX s p
    let l := replayFrom n x.replay
    if x.down || 16 ≤ p || l = [] then s
    else
      let failed := if x.nak = some n then x.failed + 1 else 0
      if 16 ≤ failed then emit (modPortX s p fun y => { y with down := true }) (.service "PORT DOWN" p 0)
      else l.foldl (fun t f => emit t (.flit p f)) (modPortX s p fun y => { y with nak := some n, failed := failed }))

/-! ### Delivery (R328, R329) -/

/-- Whether a context is resident and not frozen. -/
def takesDelivery (s : State) (c k : Nat) : Bool :=
  let x := ctxOf s c k
  x.r.state.resident && x.r.state != .clamped

/-- Whether a message is for a context's posted buffer. -/
def messageFor (s : State) (c : Nat) (x : Ctx) (y : Posted) (m : Message) : Bool :=
  m.asid.toNat == asidOf x && m.dcore == c && m.chan == y.chan &&
    (match m.task with | some t => t == x.task | none => m.tag == taskTag s x.task)

/-- A message is written into a posted buffer, up to its capacity, and its sender learns of it. -/
def deliverMessage (s : State) (c k : Nat) (y : Posted) (m : Message) : State :=
  let n := min m.data.length y.cap
  let trunc := if y.cap < m.data.length then 1 else 0
  let v := place trunc 63 ||| place m.core 48 ||| place m.dev 36 ||| BitVec.ofNat 64 n
  let t := writeParts { s with messages := s.messages.erase m } m.asid.toNat (y.pages.map fun p => (⟨p.1, 0⟩, p.2)) (m.data.take n)
  let u := modCtx t c k fun x => { x with posted := [{ y with got := some v }] }
  if m.tell then sendNote u m.dev m.mid true else u

/-- MESSAGE_DELIVERY (R328, R329): the oldest message of the channel goes into the posted buffer. -/
def execMessageDelivery (c k : Nat) (s : State) : Out :=
  .next (
    let x := ctxOf s c k
    match x.posted with
    | y :: _ =>
      if !takesDelivery s c k || y.got.isSome || (y.pages.any fun p => heldAt s ⟨p.1, 0⟩ p.2) then s
      else match s.messages.find? (messageFor s c x y) with | some m => deliverMessage s c k y m | none => s
    | [] => s)

/-! ### Reductions (R331–R334) -/

/-- Whether a contribution at the internal port comes before another of its job at determinism level 2: the earlier tick,
then the lower device id (R144). -/
def redBefore (a b : Word × Contribution) : Bool :=
  a.2.asid == b.2.asid && (a.1 < b.1 || (a.1 == b.1 && a.2.dev < b.2.dev))

/-- RED_CONTRIBUTION_ARRIVE (R331): a contribution at the internal port reaches the reduction slots, at level 2 in the order
of R144; a clamped job's waits (R411). -/
def execRedContributionArrive (x : Contribution) (s : State) : Out :=
  .next (
    match s.redIn.find? fun p => p.2 == x with
    | none => s
    | some p =>
      let j := jobOf s x.asid.toNat
      if j.clamped || (j.level == 2 && s.redIn.any fun q => redBefore q p) then s
      else arriveRed { s with redIn := s.redIn.erase p } x)

/-- RED_SLOT_TIMEOUT (R333): TMO µs have passed; the contributors get what there is, and the slot lingers. -/
def execRedSlotTimeout (i : Nat) (s : State) : Out :=
  .next (
    match look s.redSlots i with
    | some q =>
      if q.lingering.isSome || q.first.tmo = 0 || (jobOf s q.asid.toNat).clamped ||
          s.time.ptime.toNat < q.start + q.first.tmo * 1000 then s
      else
        let miss := slotMissing q
        answerAll { s with redSlots := put s.redSlots i { q with missing := miss, lingering := some (slotResult q 2 miss 0 0) } } q 2 miss
    | none => s)

/-- Whether a context of a key stands on a core, resident or saved. -/
def keyStands (s : State) (c : Nat) (key : Half) : Bool :=
  let y := coreOf s c
  (y.ctxs.any fun p => p.2.r.state.resident && p.2.r.key == key) || y.saved.any fun v => v.key == key

/-- RED_RESULT_ARRIVE (R333, R334): a result reaches its contributor; one whose contributor has ended is dropped. -/
def execRedResultArrive (c k : Nat) (x : RedResult) (s : State) : Out :=
  .next (
    if !(s.resIn.contains x && x.core == c) then s
    else
      let t := { s with resIn := s.resIn.erase x }
      if takesDelivery s c k && (ctxOf s c k).r.key == x.who then
        modCtx t c k fun y => { y with results := y.results ++ [{ key := x.key, round := x.round, words := [x.w0, x.w1], lanes := x.lanes }] }
      else if keyStands s c x.who then s else t)

end Sys2Proof.Machine
end

