-- ==== Sys2Proof/Machine/HostLink.lean ====
section
/-! DEFINITION. The host link (R67, R141, R432–R435): the functions' windows, completions, AtomicOps. -/
namespace Sys2Proof.Machine

/-- What an offset in a BAR names (R433, R434). -/
inductive Target where
  | reg (pa : Nat)
  | staging (q i : Nat)
  | qsts (q : Nat)
  | qdb (q : Nat)
  | msix (i : Nat)
  | pba (i : Nat)
  | hbm (pa : Nat)
  | none
  deriving DecidableEq, Repr

/-- An offset in a queue window. -/
def windowTarget (s : State) (f o n : Nat) : Target :=
  let q := o / 0x80
  let i := o % 0x80
  if qFunc (queueOf s q) ≠ f then .none
  else if i < 0x40 then (if i % 8 = 0 ∧ n % 8 = 0 ∧ i + n ≤ 0x40 then .staging q (i / 8) else .none)
  else if i = 0x40 ∧ n = 8 then .qsts q
  else if i = 0x48 ∧ n = 8 then .qdb q
  else .none

/-- The target of n bytes at an offset of a function's BAR. -/
def hostTarget (s : State) (f b o n : Nat) : Target :=
  match b with
  | 0 => if f = 0 ∧ o < 0x30000000 then .reg (Config.regBase + o) else .none
  | 2 =>
    if o < 0x4000 then windowTarget s f o n
    else if n % 4 = 0 ∧ o % 4 = 0 ∧ 0x4000 ≤ o ∧ o + n ≤ 0x4100 then .msix ((o - 0x4000) / 4)
    else if n % 4 = 0 ∧ o % 4 = 0 ∧ 0x5000 ≤ o ∧ o + n ≤ 0x5008 then .pba ((o - 0x5000) / 4)
    else .none
  | 4 =>
    if f = 0 then (if o + n ≤ Config.hbmBytes then .hbm o else .none)
    else
      let w := lookD s.vfwin (f - 1) 0
      if o + n ≤ field w 0 7 * 2 ^ 30 then .hbm (field w 30 10 * 2 ^ 30 + o) else .none
  | _ => .none

/-- A host access that nothing answers: an Unsupported Request, and a violation log entry. -/
def hostRefused (s : State) (f o acc : Nat) : State := emit (refuse s (.host f) 1 o acc) (.unsupported f)

/-- A host access's data goes back. -/
def hostAnswer (s : State) (f : Nat) (bs : List Byte) : State := emit (answer s bs) (.answered f bs)

/-- Host writes count as first writes of every job with a checkpoint (R430). -/
def logHost (s : State) (a n : Nat) : State := s.jobs.foldl (fun t p => logUndo t p.1 a n) s

/-- A function that exists. -/
def hostFunc (f : Nat) : Bool := f ≤ 16

/-- A posted write performed (R141, R433, R434). -/
def hostWrite (s : State) (f b o : Nat) (x : List Byte) : State :=
  let n := x.length
  match hostTarget s f b o n with
  | .reg pa => spaceWrite s (.host f) pa n (BitVec.ofNat 64 (leNat x))
  | .staging q i =>
    modQueue s q fun y => { y with staging := ((wordsOf (n / 8) x).zip (List.range (n / 8))).foldl (fun m p => put m (i + p.2) p.1) y.staging }
  | .qdb q => if (nth x 0 0).getLsbD 0 then ringBell s q else s
  | .msix i =>
    { s with msix := (List.range (n / 4)).foldl (fun m j => put m (f * 2048 + i + j) (BitVec.ofNat 32 (leNat ((x.drop (4 * j)).take 4)))) s.msix }
  | .pba _ => s
  | .qsts _ => s
  | .hbm pa => hbmWrite (logHost s pa n) pa x false
  | .none => hostRefused s f o 1

/-- Whether the home slice would perform an access of a function now: no lock and no earlier request stands on its line. -/
def hostMay (s : State) (f pa : Nat) (op : ReqOp) : Bool := mayPerform s (newReq s (.host f) 0 0 { pa := pa, leaf := 0 } false op)

/-- Performs a function's held writes in order, up to one that must wait; from there on only those with Relaxed Ordering
pass. Answers with what is still held. -/
def hostRun (f : Nat) : List HostWrite → Bool → State → State × List HostWrite
  | [], _, s => (s, [])
  | w :: r, waits, s =>
    let may := w.fn == f && (!waits || w.ro) &&
      (match hostTarget s f w.bar w.off w.bytes.length with | .hbm pa => hostMay s f pa (.store w.bytes false) | _ => true)
    if may then hostRun f r waits (hostWrite s f w.bar w.off w.bytes)
    else let (t, l) := hostRun f r (waits || w.fn == f) s; (t, w :: l)

/-- HOST_POSTED_WRITE (R141): a posted write comes, and the hub performs the function's writes in the order in which they
came, except that one with Relaxed Ordering may pass earlier ones. With no bytes, no write comes: the writes that the hub
holds are taken up again. -/
def execHostPostedWrite (f b o : Nat) (x : List Byte) (ro : Bool) (s : State) : Out :=
  .next (
    if hostFunc f && x.length ≤ 512 then
      let q := s.hostQ ++ (if x = [] then [] else [{ fn := f, bar := b, off := o, bytes := x, ro := ro }])
      let (t, l) := hostRun f q false s
      { t with hostQ := l }
    else s)

/-- Whether the hub holds posted writes of a function: what the function sent after them waits (R141). -/
def hostHolds (s : State) (f : Nat) : Bool := s.hostQ.any fun w => w.fn == f

/-- A host read performed. -/
def hostReadOf (s : State) (f b o n : Nat) : State :=
  match hostTarget s f b o n with
  | .reg pa =>
    match spaceRead s (.host f) pa n with
    | (t, some v) => emit t (.answered f (natLE n v.toNat))
    | (t, none) => emit t (.unsupported f)
  | .qsts q => hostAnswer s f (natLE 8 (qstsWord (queueOf s q)).toNat)
  | .msix i => hostAnswer s f ((List.range (n / 4)).flatMap fun j => natLE 4 (lookD s.msix (f * 2048 + i + j) 0).toNat)
  | .pba i => hostAnswer s f ((List.range (n / 4)).flatMap fun j => natLE 4 (lookD s.msix (f * 2048 + 1024 + i + j) 0).toNat)
  | .hbm pa => if hostMay s f pa (.load n) then hostAnswer (touchLines s pa n false) f (hbmRead s pa n) else s
  | .staging _ _ => let (v, t) := drawFree s; hostAnswer t f (natLE n v.toNat)
  | .qdb _ => let (v, t) := drawFree s; hostAnswer t f (natLE n v.toNat)
  | .none => hostRefused s f o 0

/-- HOST_READ (R141): after every posted write that the function sent before it. One that must wait stays on the link and
comes again (log 50). -/
def execHostRead (f b o n : Nat) (s : State) : Out :=
  .next (if hostFunc f && n ≤ 4096 && n != 0 && !hostHolds s f then hostReadOf s f b o n else s)

/-- A device read of host memory is answered; nobody takes the answer of a request whose context is gone. -/
def answerHost (s : State) (i : Nat) (v : Word) (bad : Bool) : State :=
  { s with
    hostReads := s.hostReads.filter fun h => h.id != i
    reqs := (s.reqs.filter fun r => r.id != i || r.who != .hub).map fun r =>
      if r.id = i then { r with answer := some (v, bad) } else r }

/-- HOST_COMPLETION (R67): a completion arrives. A load takes the data the host sends; an AtomicOp is performed by the
host. -/
def execHostCompletion (i : Nat) (x : List Byte) (s : State) : Out :=
  .next (
    match s.hostReads.find? (fun h => h.id == i), s.reqs.find? (fun r => r.id == i) with
    | some h, some r =>
      if x.length ≠ h.n then s
      else
        match r.op with
        | .load _ => answerHost { s with hostMem := writeBytes s.hostMem h.addr x } i (BitVec.ofNat 64 (leNat x)) false
        | _ =>
          let (t, v, _, b) := performOp { s with hostMem := writeBytes s.hostMem h.addr x } r.asid.toNat { pa := r.pa, leaf := 0x200 } r.op
          answerHost t i v b.isSome
    | _, _ => s)

/-- COMPLETION_TIMEOUT (R67): a read is answered as poisoned, and reported through AER. -/
def execCompletionTimeout (i : Nat) (s : State) : Out :=
  .next (if s.hostReads.any fun h => h.id == i then emit (answerHost s i 0 true) (.aer 0) else s)

/-- The operation of an AtomicOp (R319, R432). -/
def hostAtomicCode (op : HostAtomic) : Nat := match op with | .fetchAdd => 0 | .swap => 8 | .cas => 9

/-- ATOMICOP_REQUEST (R432): to device memory, of 32 or 64 bits, naturally aligned. The operand of a CAS is its new value
`v`, its compare value `u`. -/
def execAtomicopRequest (f b o : Nat) (op : HostAtomic) (n : Nat) (v u : Word) (s : State) : Out :=
  .next (
    if !hostFunc f || hostHolds s f then s
    else
      match hostTarget s f b o n with
      | .hbm pa =>
        if (n ≠ 4 ∧ n ≠ 8) ∨ o % n ≠ 0 then hostRefused s f o 2
        else if !hostMay s f pa (.atomic (hostAtomicCode op) n v u) then s
        else
          let (t, old, _, bad) := performOp (logHost s pa n) 0 { pa := pa, leaf := 0 } (.atomic (hostAtomicCode op) n v u)
          if bad.isSome then hostAnswer t f (natLE n 0) else hostAnswer t f (natLE n old.toNat)
      | _ => hostRefused s f o 2)

end Sys2Proof.Machine
end

