-- ==== Sys2Proof/Machine/MarquetryEvents.lean ====
section
/-! DEFINITION. The marquetry fabric at work (R361, R366–R376): its commands begun, evaluated, delivered and completed. -/
namespace Sys2Proof.Machine

/-! ### Queue -/

/-- The head command leaves; the last that names a handle returns it to 0x0 (R363). -/
def popMq (s : State) (c : Nat) : State :=
  match (coreOf s c).mq.queue with
  | [] => s
  | q :: r =>
    let s1 := modMq s c fun m => { m with queue := r, busy := false }
    match mqHandle q with
    | none => s1
    | some h =>
      if r.any fun z => mqHandle z == some h then s1
      else
        modCore s1 c fun y =>
          let i := hSpace h * 64 + hIndex h
          let d := lookD y.descs i Desc.reset
          if d.st = .held 3 then { y with descs := put y.descs i { d with st := .held 0 } } else y

/-- Every handle of the queue returns, and the queue is empty. -/
def dropMq (s : State) (c : Nat) : Nat → State
  | 0 => s
  | n + 1 => if (coreOf s c).mq.queue = [] then s else dropMq (popMq s c) c n

/-- The fabric stops with ILLOP while a command is performed (R375). -/
def stopMq (s : State) (c k : Nat) : State :=
  takeTrap (modMq (dropMq s c 9) c fun m => { m with cause := .illop }) c k (plainTrap .illop 6) false

/-- A command has completed. -/
def doneMq (s : State) (c k : Nat) : State := markProgress (popMq s c) c k

/-! ### Buffers as the fabric reaches them -/

/-- The place of the fabric's access. -/
def mqSpot (s : State) (c k : Nat) (h : Half) (off n : Nat) (write : Bool) : Option BufPlace :=
  match bufCheck s c k 3 h none (off + n - 1) 1 write with
  | .ok p => some { p with at_ := p.at_ - (n - 1) }
  | .error _ => none

/-- Reads bytes, each with whether it is poisoned. -/
def mqRead (s : State) (c : Nat) (p : BufPlace) (n : Nat) : List (Byte × Bool) :=
  let y := coreOf s c
  let m := lookD y.tbuf p.space []
  (List.range n).map fun i =>
    if rowPoisoned y p.space (p.at_ + i) then (0, true) else (readByte m (p.at_ + i), false)

/-! ### Loads (R365, R366) -/

/-- A run of words of `w` bytes, numbered. -/
def numbered (base w n : Nat) (bs : List Byte) : NMap Nat :=
  (List.range n).map fun i => (base + i, leNat ((bs.drop (w * i)).take w))

/-- A wiring set whose table sits between those of lower and higher contexts. -/
def putRange {α : Type} (m : NMap α) (lo n : Nat) (l : NMap α) : NMap α :=
  between m 0 lo ++ l ++ (m.filter fun p => lo + n ≤ p.1)

/-- A table set is loaded. -/
def loadTables (s : State) (c k : Nat) (h : Half) (off q : Nat) : State :=
  match mqSpot s c k h off 8192 false with
  | none => stopMq s c k
  | some p =>
    let bs := (mqRead s c p 8192).map (·.1)
    doneMq (modMq s c fun m =>
      { m with tables := putRange m.tables (q * 1024) 1024 ((numbered (q * 1024) 8 1024 bs).map fun e => (e.1, BitVec.ofNat 64 e.2)),
               vt := m.vt ||| BitVec.ofNat 4 (2 ^ q) }) c k

/-- A wiring set is loaded; a record with a bit in [127:66] stops the fabric. -/
def loadWiring (s : State) (c k : Nat) (h : Half) (off q : Nat) : State :=
  match mqSpot s c k h off 16384 false with
  | none => stopMq s c k
  | some p =>
    let l := numbered (q * 1024) 16 1024 ((mqRead s c p 16384).map (·.1))
    if l.any fun e => 2 ^ 66 ≤ e.2 then stopMq s c k
    else
      doneMq (modMq s c fun m =>
        { m with wires := putRange m.wires (q * 1024) 1024 (l.map fun e => (e.1, BitVec.ofNat 66 e.2)),
                 vw := m.vw ||| BitVec.ofNat 4 (2 ^ q) }) c k

/-! ### Evaluation (R360, R361, R374) -/

/-- The plane a selector names for a wiring context. -/
def wirePlane (m : Mq) (q sel : Nat) : BitVec 256 :=
  if sel < 1024 then lookD m.input sel 0 else lookD m.planes ((q + 3) % 4 * 1024 + (sel - 1024)) 0

/-- A cell's output over the lanes: the table's bits selected by the six wires, from the last wire down. -/
def cellOut : List (BitVec 256) → Nat → BitVec 256
  | [], t => if t % 2 = 1 then BitVec.allOnes 256 else 0
  | w :: r, t =>
    let n := 2 ^ (2 ^ r.length)
    (w &&& cellOut r (t / n)) ||| (~~~w &&& cellOut r (t % n))

/-- Every cell of a wiring context. -/
def evalPlanes (m : Mq) (q : Nat) : NMap (BitVec 256) :=
  (List.range 1024).map fun i =>
    let w := lookD m.wires (q * 1024 + i) 0
    let t := lookD m.tables (q * 1024 + i) 0
    (q * 1024 + i, cellOut ([5, 4, 3, 2, 1, 0].map fun n => wirePlane m q (field w (11 * n) 11)) t.toNat)

/-- Whether a comparator matches. -/
def brkMatches (cond : Nat) (p : BitVec 256) : Bool :=
  if cond = 1 then p != 0 else if cond = 2 then p != BitVec.allOnes 256 else false

/-- A breakpoint's request for the clamp wave of the owning job (R374, R414). -/
def brkRequest (s : State) (c k q plane : Nat) : State :=
  requestClamp s (asidOf (ctxOf s c k))
    { causeRec s c k (plainTrap .brkpt 6) with siteA := plane, siteB := q }

/-- One evaluation of a run. -/
def evalOnce (s : State) (c k first last q : Nat) : State :=
  let m := (coreOf s c).mq
  if !m.vt.getLsbD q || !m.vw.getLsbD q then stopMq s c k
  else
    let m1 : Mq := { m with planes := putRange m.planes (q * 1024) 1024 (evalPlanes m q), runq := BitVec.ofNat 2 q,
                            queue := .run first last (q + 1) :: m.queue.drop 1 }
    let (_, cond, plane) := lookD m.brk q (false, 0, 0)
    if brkMatches cond (lookD m1.planes (q * 1024 + plane) 0) then
      brkRequest (modMq s c fun _ => { m1 with held := true, brk := put m.brk q (true, 0, plane) }) c k q plane
    else markProgress (modMq s c fun _ => m1) c k

/-- MQ_EVALUATION (R361): the next wiring context of a run. -/
def execMqEvaluation (c : Nat) (s : State) : Out :=
  .next (
    let m := (coreOf s c).mq
    match mqMoves s c, m.queue with
    | some k, .run first last q :: _ => if m.busy && q ≤ last then evalOnce s c k first last q else s
    | _, _ => s)

/-! ### The transposer (R369–R371) -/

/-- A plane from one bit of each lane. -/
def planeOf (bits : List Bool) : BitVec 256 :=
  BitVec.ofNat 256 (bits.foldr (fun b n => 2 * n + (if b then 1 else 0)) 0)

/-- A lane's elements as exact values. -/
def laneVals (src f : Nat) (bs : List Byte) : List Num :=
  if src = 0 then bs.map fun b => ofInt false (intVal 8 false b.toNat) 0
  else if src = 1 then bs.map fun b => ofInt false (intVal 8 true b.toNat) 0
  else
    let k := if src = 4 then 7 else if src = 5 then 4 else 2
    let n := xpLane src 16
    if src = 2 then bs.map fun b => e4m3.read b.toNat
    else if src = 3 then bs.map fun b => e5m2.read b.toNat
    else (List.range (f / 16)).flatMap fun i => kbRead k (leNat ((bs.drop (n * i)).take n))

/-- An element quantised (R369): its byte and bits. -/
def quantise (b : Word) (f lane : Nat) (v : Num) : Nat × Xb :=
  let rnd := if xpRnd b = 5 then kbRnd 5 f (f * 256 + lane) else rnd2 (xpRnd b)
  let (i, x) := roundInt rnd 8 false (shiftNum v (xpSh b))
  ((i % 256).toNat, x)

/-- The bytes of a lane's elements as they go to planes, and the bits raised. -/
def laneBytes (b : Word) (lane : Nat) (bs : List Byte) : List Nat × Xb :=
  if !xpQ b then (bs.map (·.toNat), 0)
  else
    let vs := laneVals (xpSrc b) (xpF b) bs
    let l := (List.range vs.length).map fun f => quantise b f lane (nth vs f .nan)
    (l.map (·.1), l.foldl (fun x e => x ||| e.2) 0)

/-- The planes a lane-major source gives, its poisoned lanes and bits. -/
def xposeLanes (b : Word) (rs : Nat) (bytes : List (Byte × Bool)) : NMap (BitVec 256) × BitVec 256 × Xb :=
  let w := xpLane (xpSrc b) (xpF b)
  let st := xpStride b rs
  let lanes := (List.range 256).map fun l => (bytes.drop (l * st)).take w
  let vals := (List.range 256).map fun l => laneBytes b l ((nth lanes l []).map (·.1))
  (((List.range (8 * xpF b)).map fun n =>
      (xpP b + n, planeOf (vals.map fun v => (nth v.1 (n / 8) 0) / 2 ^ (n % 8) % 2 == 1))),
   planeOf (lanes.map fun l => l.any (·.2)),
   vals.foldl (fun x v => x ||| v.2) 0)

/-- The planes of a BIT source; a poisoned plane marks every lane. -/
def xposeBits (b : Word) (bytes : List (Byte × Bool)) : NMap (BitVec 256) × BitVec 256 × Xb :=
  ((List.range (xpF b)).map fun f => (xpP b + f, BitVec.ofNat 256 (leNat (((bytes.drop (32 * f)).take 32).map (·.1)))),
   if bytes.any (·.2) then BitVec.allOnes 256 else 0, 0)

/-- An XPOSE is performed. -/
def xposeRun (s : State) (c k : Nat) (h : Half) (off : Nat) (b : Word) (rs : Nat) : State :=
  let n := xpExtent b rs
  match mqSpot s c k h off n false with
  | none => stopMq s c k
  | some p =>
    let bytes := mqRead s c p n
    let (l, bad, xb) := if xpSrc b = 7 then xposeBits b bytes else xposeLanes b rs bytes
    doneMq (modMq s c fun m =>
      { m with input := putRange m.input (xpP b) l.length l, poison := m.poison ||| bad, xb := m.xb ||| xb }) c k

/-- The bytes of a lane written back. -/
def xposbLane (m : Mq) (b : Word) (lane : Nat) : List Byte :=
  let src := field b 10 3
  let f0 := field b 0 10
  (List.range (field b 16 8)).map fun i =>
    BitVec.ofNat 8 ((List.range 8).foldl (fun v j => if (mqPlane m src (f0 + 8 * i + j)).getLsbD lane then v + 2 ^ j else v) 0)

/-- An XPOSB is performed, lane by lane; a poisoned lane poisons the rows it touches. -/
def xposbRun (s : State) (c k : Nat) (h : Half) (off : Nat) (b : Word) : State :=
  let n := field b 16 8
  let m := (coreOf s c).mq
  match mqSpot s c k h off (256 * n) true with
  | none => stopMq s c k
  | some p =>
    doneMq ((List.range 256).foldl (fun t l =>
      bufWrite t { p with at_ := p.at_ + l * n } (xposbLane m b l) (m.poison.getLsbD l)) s) c k

/-! ### Popcounts (R372) -/

/-- Ones of a plane. -/
def ones (p : BitVec 256) : Nat := (List.range 256).foldl (fun n l => if p.getLsbD l then n + 1 else n) 0

/-- The counts of PLANE. -/
def planeCounts (m : Mq) (b : Word) : List Nat :=
  (List.range (pcN b)).map fun j => ones (mqPlane m (field b 10 3) (field b 0 10 + j))
/-- The count of a group in a lane. -/
def groupCount (m : Mq) (b : Word) (g lane : Nat) : Nat :=
  (List.range (pcG b)).foldl (fun n i =>
    if (mqPlane m (field b 10 3) (field b 0 10 + g * pcG b + i)).getLsbD lane then n + 1 else n) 0

/-- Tokens a count sends. -/
def popcTokens (b : Word) (group : Bool) : Nat := if group then 8 * pcN b else 1

/-- A token of a count: its lanes, whether poisoned, whether it carries LAST. -/
def popcToken (m : Mq) (b : Word) (group : Bool) (n : Nat) : List W32 × Bool × Bool :=
  if group then
    let lanes := rangeFrom (32 * (n % 8)) 32
    (lanes.map fun l => BitVec.ofNat 32 (groupCount m b (n / 8) l), lanes.any fun l => m.poison.getLsbD l, n % 8 == 7)
  else
    let cs := planeCounts m b
    ((List.range 32).map fun l => BitVec.ofNat 32 (nth cs l 0), m.poison != 0, true)

/-- XB gains PS when poisoned counts are delivered. -/
def popcXb (m : Mq) (bad : Bool) : Mq := if bad then { m with xb := m.xb ||| xPS } else m

/-- Whether the colour and the port of a count to tokens suit it. -/
def popcColourOk (x : Ctx) (a : Word) : Bool :=
  let col : Byte := a.extractLsb' 0 8
  colourActive x col && colourWidth x col == 32 && x.hportv.getLsbD 20

/-- The next token of a count. -/
def popcSend (s : State) (c k : Nat) (a b cw : Word) (group : Bool) (sent : Nat) : State :=
  let x := ctxOf s c k
  let m := (coreOf s c).mq
  let it : Half := a.extractLsb' 8 16 + BitVec.ofNat 16 sent
  let col : Byte := a.extractLsb' 0 8
  if !popcColourOk x a then stopMq s c k
  else if !tagOpen s c k col it || 2 ≤ (lookD (coreOf s c).hpOut (20 * 4 + k) []).length then s
  else
    let (lanes, bad, last) := popcToken m b group sent
    let t : Token := { colour := col, iter := it, lanes := lanes, xb := if bad then xPS else 0, last := last, src := 0 }
    let d : Dest := { elem := field cw 0 6, slot := field cw 6 5, opnd := field cw 11 2 }
    markProgress (modMq (hpEmit s c k 20 t (some d)) c fun z =>
      { popcXb z bad with queue := .popc a b cw group 0 (sent + 1) :: z.queue.drop 1 }) c k

/-- MQ_POPCOUNT_DELIVER (R372): the next token of a count to tokens. -/
def execMqPopcountDeliver (c : Nat) (s : State) : Out :=
  .next (
    let m := (coreOf s c).mq
    match mqMoves s c, m.queue with
    | some k, .popc a b cw group 0 sent :: _ =>
      if m.busy && sent < popcTokens b group then popcSend s c k a b cw group sent else s
    | _, _ => s)

/-- A count written to rows. -/
def popcRow (s : State) (c k : Nat) (a b : Word) (group : Bool) : State :=
  let m := (coreOf s c).mq
  let n := if group then 1024 * pcN b else 128
  match mqSpot s c k (mqAddrHandle a) (mqAddrOff a) n true with
  | none => stopMq s c k
  | some p =>
    let cs := planeCounts m b
    let put4 (t : State) (i v : Nat) (bad : Bool) : State := bufWrite t { p with at_ := p.at_ + 4 * i } (natLE 4 v) bad
    let t :=
      if group then
        (List.range (256 * pcN b)).foldl (fun u i => put4 u i (groupCount m b (i / 256) (i % 256)) (m.poison.getLsbD (i % 256))) s
      else (List.range 32).foldl (fun u i => put4 u i (nth cs i 0) (m.poison != 0)) s
    doneMq (modMq t c fun z => popcXb z (m.poison != 0)) c k

/-- A count contributed to a laminated register, declared IADD in INT32 or INT64. -/
def popcPly (s : State) (c k : Nat) (a b : Word) : State :=
  let n := field a 0 6
  let d := (lamOf (ctxOf s c k) n).decl
  let m := (coreOf s c).mq
  if !declared d || declOp d != opIADD || declFmt d < 2 then stopMq s c k
  else
    let cs := planeCounts m b
    let bad := m.poison != 0
    let lanes := (List.range (declWidth d)).map fun l =>
      if l < cs.length then lamRec d .nan (nth cs l 0 : Nat) (if bad then xPS else 0) (if bad then 66 else 0x7F) else emptyRec
    doneMq (modMq (contribute s c k unitPopc n lanes) c fun z => popcXb z bad) c k

/-! ### Commands -/

/-- What a command does as it begins: a load clears its valid bit. -/
def beginMq (m : Mq) : Mq :=
  let m1 : Mq := { m with busy := true }
  match m.queue with
  | .tables _ _ q :: _ => { m1 with vt := m.vt &&& ~~~(BitVec.ofNat 4 (2 ^ q)) }
  | .wiring _ _ q :: _ => { m1 with vw := m.vw &&& ~~~(BitVec.ofNat 4 (2 ^ q)) }
  | _ => m1

/-- MQ_COMMAND_START (R363): the head of the queue begins. -/
def execMqCommandStart (c : Nat) (s : State) : Out :=
  .next (
    let m := (coreOf s c).mq
    match mqMoves s c with
    | some _ => if m.busy || m.queue.isEmpty then s else modMq s c beginMq
    | none => s)

/-- The fabric cleared by CLEAR. -/
def clearMq (m : Mq) : Mq := { m with input := [], planes := [], poison := 0, xb := 0, cause := .none }

/-- A begun command is completed. RELEASE gives up ownership once the queue holds nothing else (R362). -/
def performMq (s : State) (c k : Nat) (q : MqCmd) : State :=
  match q with
  | .tables h o n => loadTables s c k h o n
  | .wiring h o n => loadWiring s c k h o n
  | .release =>
    let m := (coreOf s c).mq
    if m.queue.length = 1 then
      modMq (doneMq s c k) c fun z => { z with owner := none, ownerSlot := 0 }
    else modMq s c fun z => { z with queue := z.queue.drop 1 ++ [.release], busy := false }
  | .clear => doneMq (modMq s c clearMq) c k
  | .run _ last q => if last < q then doneMq s c k else s
  | .xpose h o b rs => xposeRun s c k h o b rs
  | .xposb h o b => xposbRun s c k h o b
  | .popc a b _ group d sent =>
    if d = 0 then (if popcTokens b group ≤ sent then doneMq s c k else s)
    else if d = 1 then popcRow s c k a b group
    else popcPly s c k a b
  | .brk q plane cond =>
    doneMq (modMq s c fun m => { m with brk := put m.brk q (false, cond, plane) }) c k

/-- MQ_COMMAND_COMPLETE (R363): the begun command is performed to its end and leaves the queue; one in progress completes
also while its owner is gated or clamped, but for a run and a count to tokens (R376). -/
def execMqCommandComplete (c : Nat) (s : State) : Out :=
  .next (
    match (coreOf s c).mq.queue with
    | [] => s
    | q :: _ =>
      match mqCompletes s c q with
      | some k => performMq s c k q
      | none => s)

end Sys2Proof.Machine
end

