-- ==== Sys2Proof/Machine/MatrixEvents.lean ====
section
/-! DEFINITION. The matrix engine at work (R337, R340–R353): firings, gathers, k-groups, drains, the softmax rows, index
sets, and the moves of handles between engines and givers. -/
namespace Sys2Proof.Machine

/-! ### Moves of handles (R337, R363) -/

/-- A tensor's tag follows its handle (R336). -/
def tagMoved (s : State) (c k : Nat) (h : Half) (from_ to_ : Nat) : State :=
  modCtx s c k fun x =>
    { x with tensors := x.tensors.map fun p =>
        if tnHandle p.2 = h then
          (p.1, if to_ = 2 then { p.2 with full := !tnDest p.2, giver := from_ }
                else if from_ = 2 then { p.2 with full := tnDest p.2 } else p.2)
        else p }

/-- HANDLE_MOVE_COMPLETE (R337): a handle reaches or leaves an engine once its accesses are performed, and its tensor's
tag changes with it. -/
def execHandleMoveComplete (c p i : Nat) (s : State) : Out :=
  .next (
    let d := descOf (coreOf s c) p i
    match d.st with
    | .moving h t =>
      let hd := mkHandle p (bayPos c) d.gen.toNat i
      if handleBusy s c hd then s
      else
        let s1 := modCore s c fun x => setDesc x p i { d with st := .held t }
        match slotOf (coreOf s c) d.key with
        | some k => tagMoved s1 c k hd h t
        | none => s1
    | _ => s)

/-! ### Reaching tensors -/

/-- A row of a tensor as the engine reaches it. The rows of a softmax destination, which lies in space A, are written
as R348 says (log 20). -/
def rowPlace (s : State) (c k : Nat) (t : Tensor) (r : Nat) (write : Bool) : Except Cause BufPlace :=
  let n := tnRow t
  let off := tnOff t + r * tnStride t
  match bufCheck s c k 2 (tnHandle t) none (off + n - 1) 1 (write && tnSpace t == 2) with
  | .ok p => .ok { p with at_ := p.at_ - (n - 1) }
  | .error e => .error e

/-- The first of rows that is refused: the cause, and the offset. -/
def rowsRefused (s : State) (c k : Nat) (t : Tensor) (write : Bool) : List Nat → Option (Cause × Nat)
  | [] => none
  | r :: l =>
    match rowPlace s c k t r write with
    | .error e => some (e, tnOff t + r * tnStride t)
    | .ok _ => rowsRefused s c k t write l

/-- Whether the range scoreboard holds the engine's access to rows of a tensor (R56). -/
def rowsStall (s : State) (c : Nat) (t : Tensor) (rows : List Nat) (write : Bool) : Bool :=
  rows.any fun r => scoreStalls (coreOf s c) (bufRng (tnHandle t) (tnOff t + r * tnStride t) (tnRow t)) write

/-- A row's bytes, and whether any of them is poisoned. -/
def rowBytes (s : State) (c k : Nat) (t : Tensor) (r : Nat) : List Byte × Bool :=
  match rowPlace s c k t r false with
  | .ok p => let (bs, b) := bufRead s p (tnRow t); (bs, b.isSome)
  | .error _ => (List.replicate (tnRow t) 0, false)

/-- Cuts bytes into numbers of `w` bytes. -/
def chunkNums (w : Nat) : Nat → List Byte → List Nat
  | 0, _ => []
  | n + 1, bs => leNat (bs.take w) :: chunkNums w n (bs.drop w)

/-- The exact values of a row's elements (R199, R203). -/
def rowVals (f cols : Nat) (bs : List Byte) : List Num :=
  if fmtKb f then (chunkNums (kbBytes f) (cols / 16) bs).flatMap fun b => kbRead (kbBits f) b
  else
    let fm := if f = 0 then e4m3 else if f = 1 then e5m2 else if f = 5 then bf16 else if f = 6 then fp16 else fp32
    (chunkNums (fmtRow f 1) cols bs).map fm.read

/-- Writes a row of a tensor. -/
def writeRow (s : State) (c k : Nat) (t : Tensor) (r : Nat) (bs : List Byte) (bad : Bool) : State :=
  match rowPlace s c k t r true with
  | .ok p => bufWrite s p bs bad
  | .error _ => s

/-! ### Stopping (R351) -/

/-- A binding stops: CAUSE and TENSOR are recorded, and the context takes the trap; no fault record is written. -/
def stopBinding (s : State) (c k b : Nat) (cause : Cause) (tensor : Nat) : State :=
  let s1 := modBind s c k b fun z => { z with state := .stopped, cause := cause, tensor := tensor, rows := none }
  let s2 := modCore s1 c fun y => { y with mmBusy := none }
  takeTrap s2 c k (plainTrap cause 5) false

/-- A stop that no tensor makes: TENSOR is a value the spec does not give (log 2). -/
def stopBindingFree (s : State) (c k b : Nat) (cause : Cause) : State :=
  let (v, t) := drawFree s
  stopBinding t c k b cause (field v 0 8)

/-- A refused engine access: logged (R43), and the binding stops. -/
def refuseRows (s : State) (c k b n : Nat) (t : Tensor) (write : Bool) (f : Cause × Nat) : State :=
  stopBinding (violBuf s c (asidOf (ctxOf s c k)) (tnHandle t) f.2 (if write then 1 else 0) f.1) c k b f.1 n

/-! ### Starting a firing (R340) -/

/-- Whether an operand is FULL with the engine. -/
def operandReady (s : State) (c k n : Nat) : Bool :=
  match tensorOf (ctxOf s c k) n with | some t => t.full && withEngine s c t | none => false
/-- Whether a destination is EMPTY with the engine. -/
def destReady (s : State) (c k n : Nat) : Bool :=
  match tensorOf (ctxOf s c k) n with | some t => !t.full && withEngine s c t | none => false

/-- Whether a binding with an A-space destination is the score side of the active pair; others may always fire (R350). -/
def mayFire (s : State) (c k : Nat) (b : Binding) : Bool :=
  match tensorOf (ctxOf s c k) b.dx with
  | some t => !smxDest t || (match b.pair with | some (_, score, _) => score | none => false)
  | none => false

/-- Whether a binding's plane is at hand, or one is free (R340, R403). -/
def planeReady (s : State) (c : Nat) (b : Binding) : Bool :=
  (b.plane.isSome && !b.out) || planesHeld (coreOf s c) < 2

/-- Whether a binding's next firing is ready, or one that was interrupted can go on (R340, R353). -/
def firingReady (s : State) (c k : Nat) (b : Binding) : Bool :=
  matrixMoves s c k && planeReady s c b &&
    (match b.state with
     | .firing => true
     | .waiting =>
       !b.ending && mayFire s c k b && operandReady s c k b.ax && operandReady s c k b.bx &&
         (match b.gatherNext with
          | (1, n) => operandReady s c k n
          | (2, _) => b.index.isSome
          | _ => true) &&
         (b.firing != 0 || (epiOf b).mode == 1 || destReady s c k b.dx)
     | _ => false)

/-- The binding that fires next: round-robin over contexts, then the lowest number. -/
def nextFiring (s : State) (c : Nat) : Option (Nat × Nat × Binding) :=
  let last := (coreOf s c).mmLast
  ((List.range 4).map fun i => (last + 1 + i) % 4).findSome? fun k =>
    (ctxOf s c k).binds.findSome? fun p => if firingReady s c k p.2 then some (k, p.1, p.2) else none

/-- Whether the array is free: no firing, or one whose context has stopped at a group boundary. -/
def arrayFree (s : State) (c : Nat) : Bool :=
  match (coreOf s c).mmBusy with | none => true | some (k, _) => !matrixMoves s c k

/-- Whether a binding's AMAX register suits it (R346). -/
def amaxOk (x : Ctx) (e : Epi) : Bool :=
  match e.lreg with
  | none => true
  | some n => let d := (lamOf x n).decl; declared d && declOp d == opMAXABS && declFmt d == 0

/-- A firing starts: at a chain's first, the epilogue setting comes into force and the plane starts at +0. -/
def startFiring (s : State) (c k n : Nat) (b : Binding) : State :=
  let x := ctxOf s c k
  let s1 := modCore s c fun y => { y with mmBusy := some (k, n), mmLast := k }
  if b.state = .firing then modBind s1 c k n fun z => { z with rows := none, out := false }
  else
    let first := b.firing == 0
    let e := if first then epiOf b else b.epi
    if first && !amaxOk x e then stopBindingFree s c k n .illop
    else
      modBind s1 c k n fun z =>
        { z with
          state := .firing, kgroup := 0, rows := none, gather := z.gatherNext, out := false, epi := e,
          epiNext := if first then none else z.epiNext
          plane := match z.plane with | some p => some p | none => some (zeroPlane (bindM x z) (bindN x z))
          rowXb := if first && z.pair.isNone then [] else z.rowXb }

/-- MM_FIRING_START (R340). -/
def execMmFiringStart (c : Nat) (s : State) : Out :=
  .next (
    if !arrayFree s c then s
    else match nextFiring s c with | some (k, n, b) => startFiring s c k n b | none => s)

/-! ### Gather (R342, R344, R351) -/

/-- The row numbers of a firing, whether their index row is poisoned, or what stops the binding. -/
def gatherRows (s : State) (c k : Nat) (b : Binding) : Except (Cause × Option (Nat × Tensor × Nat)) (List Nat × Bool) :=
  let x := ctxOf s c k
  let m := bindM x b
  match b.gather with
  | (1, n) =>
    match tensorOf x n with
    | some t =>
      match rowPlace s c k t 0 false with
      | .error e => .error (e, some (n, t, tnOff t))
      | .ok _ => let (bs, bad) := rowBytes s c k t 0; .ok (chunkNums 4 m bs, bad)
    | none => .error (.bufown, none)
  | (2, _) =>
    match b.index with
    | some l => if l.length = m then .ok (l.map (·.toNat), false) else .error (.illop, none)
    | none => .error (.illop, none)
  | _ => .ok (List.range m, false)

/-- The poison a firing's operand rows bring to the rows of its result (R352). -/
def rowPoison (s : State) (c k : Nat) (b : Binding) (a w : Tensor) (rows : List Nat) (index : Bool) : NMap Xb :=
  let all := index || ((List.range (bindK (ctxOf s c k) b)).any fun r => (rowBytes s c k w r).2)
  (List.range rows.length).foldl (fun m i =>
    if all || (rowBytes s c k a (nth rows i 0)).2 then put m i (lookD m i 0 ||| xPS) else m) b.rowXb

/-- A firing's gather with its rows known: the accesses are checked, then the latch takes the rows. -/
def gatherFiring (s : State) (c k n : Nat) (b : Binding) (d a w : Tensor) (rows : List Nat) (index : Bool) : State :=
  let x := ctxOf s c k
  let kr := List.range (bindK x b)
  let mr := List.range (bindM x b)
  let dest := b.firing == 0 && b.epi.mode != 1 && b.pair.isNone
  if rows.any fun r => tnRows a ≤ r then stopBinding s c k n .illop b.ax
  else if rowsStall s c a rows false || rowsStall s c w kr false then s
  else
    match rowsRefused s c k a false rows with
    | some f => refuseRows s c k n b.ax a false f
    | none =>
      match rowsRefused s c k w false kr with
      | some f => refuseRows s c k n b.bx w false f
      | none =>
        match (if dest then rowsRefused s c k d true mr else none) with
        | some f => refuseRows s c k n b.dx d true f
        | none =>
          let m := rowPoison s c k b a w rows index
          let ps : Xb := if m.any fun p => p.2.getLsbD 0 then xPS else 0
          modBind s c k n fun z => { z with rows := some rows, rowXb := m, xb := z.xb ||| ps }

/-- MM_GATHER_COMPLETE (R342): the latch holds the firing's rows, or an error stops the binding before its first
k-group. -/
def execMmGatherComplete (c : Nat) (s : State) : Out :=
  .next (
    match (coreOf s c).mmBusy with
    | none => s
    | some (k, n) =>
      let x := ctxOf s c k
      match look x.binds n with
      | none => s
      | some b =>
        if !matrixMoves s c k || b.rows.isSome then s
        else
          match tensorOf x b.dx, tensorOf x b.ax, tensorOf x b.bx with
          | some d, some a, some w =>
            match gatherRows s c k b with
            | .error (e, some (i, t, off)) => refuseRows s c k n i t false (e, off)
            | .error (e, none) => stopBindingFree s c k n e
            | .ok (rows, bad) => gatherFiring s c k n b d a w rows bad
          | _, _, _ => s)

/-! ### k-groups (R341) -/

/-- A short sum: the exact sum in units of 2^−300, and its flags. -/
structure ShortSum where
  acc  : Int
  nan  : Bool
  pinf : Bool
  ninf : Bool
  iv   : Bool
  deriving DecidableEq, Repr

def emptyShort : ShortSum := { acc := 0, nan := false, pinf := false, ninf := false, iv := false }

/-- Adds a product. -/
def shortAdd (t : ShortSum) (a b : Num) : ShortSum :=
  match a, b with
  | .fin sa ma ea, .fin sb mb eb =>
    if ma = 0 ∨ mb = 0 then t else { t with acc := t.acc + atExp (sa != sb) (ma * mb) (ea + eb) (-300) }
  | _, _ =>
    if a.isNan || b.isNan then { t with nan := true }
    else if a.isZero || b.isZero then { t with nan := true, iv := true }
    else if a.neg != b.neg then { t with ninf := true } else { t with pinf := true }

/-- The sum of products of two lists. -/
def shortDot : List Num → List Num → ShortSum → ShortSum
  | a :: r, b :: q, t => shortDot r q (shortAdd t a b)
  | _, _, t => t

/-- A short sum scaled and rounded once: r of R341 and its bits. -/
def shortRound (sc : Num) (t : ShortSum) : Nat × Xb :=
  if t.nan || t.pinf || t.ninf then
    let stk : BitVec 3 := (if t.nan then 1 else 0) ||| (if t.ninf then 2 else 0) ||| (if t.pinf then 4 else 0)
    let (r, b) := exactRound fp32 .rne 0 stk
    let r' := match fp32.read r with | .inf g => fp32.write (.inf (g != sc.neg)) | _ => r
    (r', b ||| (if t.iv then xIV else 0))
  else if t.acc = 0 then (0, 0)
  else roundTo fp32 .rne (mulNum (ofInt false t.acc (-300)) sc).1

/-- IEEE addition of FP32 patterns. -/
def fpAdd (a b : Nat) : Nat × Xb :=
  let (v, x) := addNum .rne (fp32.read a) (fp32.read b)
  let (r, y) := roundTo fp32 .rne v
  (r, x ||| y)

/-- An element of the plane after a k-group. -/
def cellStep (sc : Num) (old : W32) (a col : List Num) : W32 × Xb :=
  let (r, x) := shortRound sc (shortDot a col emptyShort)
  let (v, y) := fpAdd old.toNat r
  (BitVec.ofNat 32 v, x ||| y)

/-- Columns of rows. -/
def columns (n : Nat) (rows : List (List Num)) : List (List Num) :=
  (List.range n).map fun j => rows.map fun r => nth r j (.fin false 0 0)

/-- The plane after a k-group, and each row's bits. -/
def groupStep (sc : Num) (plane : List (List W32)) (as : List (List Num)) (cols : List (List Num)) :
    List (List W32) × List Xb :=
  let out := (List.range plane.length).map fun i =>
    let row := nth plane i []
    let a := nth as i []
    (List.range row.length).map fun j => cellStep sc (nth row j 0) a (nth cols j [])
  (out.map fun r => r.map (·.1), out.map fun r => r.foldl (fun x e => x ||| e.2) 0)

/-- Joins bits to the rows'. -/
def orRows (m : NMap Xb) (l : List Xb) : NMap Xb :=
  (List.range l.length).foldl (fun z i => put z i (lookD z i 0 ||| nth l i 0)) m

/-- One k-group of a firing enters the plane. -/
def kGroup (s : State) (c k n : Nat) (b : Binding) (a w : Tensor) (rows : List Nat) : State :=
  let nn := bindN (ctxOf s c k) b
  let lo := b.kgroup * b.p
  let as := rows.map fun r => ((rowVals (tnFmt a) (tnCols a) (rowBytes s c k a r).1).drop lo).take b.p
  let bs := (rangeFrom lo b.p).map fun r => rowVals (tnFmt w) nn (rowBytes s c k w r).1
  let sc := (mulNum (fp32.read (tnScale a)) (fp32.read (tnScale w))).1
  let (p, xs) := groupStep sc (match b.plane with | some q => q | none => []) as (columns nn bs)
  markProgress (modBind s c k n fun z =>
    { z with plane := some p, kgroup := z.kgroup + 1, rowXb := orRows z.rowXb xs, xb := xs.foldl (· ||| ·) z.xb }) c k

/-- MM_KGROUP (R341): the next k-group, in increasing order. -/
def execMmKgroup (c : Nat) (s : State) : Out :=
  .next (
    match (coreOf s c).mmBusy with
    | none => s
    | some (k, n) =>
      let x := ctxOf s c k
      match look x.binds n with
      | none => s
      | some b =>
        match b.rows, tensorOf x b.ax, tensorOf x b.bx with
        | some rows, some a, some w =>
          if !matrixMoves s c k || bindK x b / b.p ≤ b.kgroup then s else kGroup s c k n b a w rows
        | _, _, _ => s)

/-! ### The end of a firing (R342) -/

/-- Consumes a tensor: it becomes EMPTY and its handle returns to its giver; a softmax destination stays with the
engine. -/
def consume (s : State) (c k n : Nat) : State :=
  match tensorOf (ctxOf s c k) n with
  | none => s
  | some t =>
    if tnSticky t then s
    else if tnDest t then modCtx s c k fun x => { x with tensors := put x.tensors n { t with full := false } }
    else if withEngine s c t then startMove s c (tnHandle t) 2 t.giver
    else s

/-- What follows the last k-group: operands consumed; the chain's last firing leads to its drain. -/
def endFiring (s : State) (c k n : Nat) (b : Binding) : State :=
  let s1 := consume (consume s c k b.ax) c k b.bx
  let s2 := if b.gather.1 = 1 then consume s1 c k b.gather.2 else s1
  let last := b.firing + 1 == b.nch
  let value := match b.pair with | some (_, score, _) => !score | none => false
  let s3 := modBind s2 c k n fun z =>
    { z with
      rows := none, kgroup := 0, index := if z.gather.1 = 2 then none else z.index
      firing := if last then 0 else z.firing + 1
      chains := if last && value then z.chains + 1 else z.chains
      drained := 0
      state := if last && !value then .draining else .waiting }
  markProgress (modCore s3 c fun y => { y with mmBusy := none }) c k

/-- MM_FIRING_END (R342). -/
def execMmFiringEnd (c : Nat) (s : State) : Out :=
  .next (
    match (coreOf s c).mmBusy with
    | none => s
    | some (k, n) =>
      let x := ctxOf s c k
      match look x.binds n with
      | none => s
      | some b =>
        if b.rows.isSome ∧ b.kgroup = bindK x b / b.p ∧ matrixMoves s c k then endFiring s c k n b else s)

/-! ### Index sets (R344) -/

/-- The binding an index token goes to: the one that receives a set, else the lowest that gathers by mode 10 and has no
complete set (log 21). -/
def indexTaker (x : Ctx) : Option (Nat × Binding) :=
  match x.binds.find? fun p => p.2.inSet != [] && p.2.index.isNone with
  | some p => some p
  | none => x.binds.find? fun p => p.2.gatherNext.1 == 2 && p.2.index.isNone

/-- MM_INDEX_SET_ARRIVE (R344): a token at hard port 17 joins the set being received, which its marker completes. -/
def execMmIndexSetArrive (c k : Nat) (s : State) : Out :=
  .next (
    match lookD (coreOf s c).hport (17 * 4 + k) [], indexTaker (ctxOf s c k) with
    | f :: r, some (n, b) =>
      if !matrixMoves s c k then s
      else
        let l := b.inSet ++ f.tok.lanes
        let s1 := modCore s c fun y => { y with hport := put y.hport (17 * 4 + k) r }
        modBind s1 c k n fun z =>
          if f.tok.last then { z with inSet := [], index := some l } else { z with inSet := l }
    | _, _ => s)

/-! ### Drains (R343, R345, R346) -/

/-- Tokens of a row. -/
def rowTokens (n : Nat) : Nat := (n + 31) / 32
/-- Steps a row's drain takes under a mode: a write, then tokens. -/
def rowSteps (mode n : Nat) : Nat := if mode = 0 then 1 else if mode = 1 then rowTokens n else 1 + rowTokens n

/-- Whether a binding drains to its destination or by tokens. -/
def plainDrain (b : Binding) : Bool :=
  b.state == .draining && (b.fin || b.pair.isNone)

/-- The draining bindings of a core. -/
def drains (s : State) (c : Nat) : List (Nat × Nat × Binding) :=
  (coreOf s c).ctxs.flatMap fun p => (p.2.binds.filter fun b => plainDrain b.2).map fun b => (p.1, b.1, b.2)

/-- Writes a row of the plane to DX. -/
def drainRow (s : State) (c k n : Nat) (b : Binding) (t : Tensor) (i : Nat) : State :=
  if t.full || !withEngine s c t || rowsStall s c t [i] true then s
  else
    let row := match b.plane with | some p => nth p i [] | none => []
    let bad := (lookD b.rowXb i 0).getLsbD 0
    markProgress (modBind (writeRow s c k t i (row.flatMap fun v => natLE 4 v.toNat) bad) c k n fun z =>
      { z with drained := z.drained + 1 }) c k

/-- Sends a token of a row out of hard port 16. -/
def drainToken (s : State) (c k n : Nat) (b : Binding) (i q nn : Nat) : State :=
  let x := ctxOf s c k
  if !colourActive x b.epi.colour then stopBindingFree s c k n .illop
  else if !tagOpen s c k b.epi.colour b.epi.iter || 2 ≤ (lookD (coreOf s c).hpOut (16 * 4 + k) []).length then s
  else
    let row := match b.plane with | some p => nth p i [] | none => []
    let t : Token := { colour := b.epi.colour, iter := b.epi.iter, src := 0, last := q + 1 == rowTokens nn,
                       lanes := (List.range 32).map fun l => if 32 * q + l < nn then nth row (32 * q + l) 0 else 0,
                       xb := lookD b.rowXb i 0 }
    markProgress (modBind (hpEmit s c k 16 t (some b.epi.dest)) c k n fun z =>
      { z with drained := z.drained + 1, epi := { z.epi with iter := z.epi.iter + 1 } }) c k

/-- The next step of a drain, none when every step is done. -/
def drainStep (s : State) (c k n : Nat) (b : Binding) : Option State :=
  let x := ctxOf s c k
  let nn := bindN x b
  let st := rowSteps b.epi.mode nn
  let i := b.drained / st
  let q := b.drained % st
  if bindM x b ≤ i || b.out then none
  else
    match tensorOf x b.dx with
    | none => none
    | some t =>
      some (if b.epi.mode ≠ 1 ∧ q = 0 then drainRow s c k n b t i
            else drainToken s c k n b i (if b.epi.mode = 1 then q else q - 1) nn)

/-- MM_DRAIN_ROW (R343, R345): the next row or token of a draining chain. -/
def execMmDrainRow (c : Nat) (s : State) : Out :=
  .next (
    match (drains s c).findSome? fun p => if matrixMoves s c p.1 then drainStep s c p.1 p.2.1 p.2.2 else none with
    | some t => t
    | none =>
      match (drains s c).find? fun p => p.2.2.out && matrixMoves s c p.1 with
      | some p => if planesHeld (coreOf s c) < 2 then modBind s c p.1 p.2.1 fun z => { z with out := false } else s
      | none => s)

/-- The lane of the AMAX contribution: the largest magnitude of four rows (R346). -/
def amaxLane (p : List (List W32)) (lane : Nat) : W32 :=
  ((p.drop (4 * lane)).take 4).foldl (fun v r => largestOf v (r.map fun x => fp32.read x.toNat)) 0

/-- The AMAX contribution of a drained chain. -/
def amaxContribute (s : State) (c k : Nat) (b : Binding) : State :=
  match b.epi.lreg, b.plane with
  | some n, some p =>
    let d := (lamOf (ctxOf s c k) n).decl
    let lanes := (List.range (declWidth d)).map fun l =>
      let bad := (List.range 4).any fun i => (lookD b.rowXb (4 * l + i) 0).getLsbD 0
      if 32 ≤ l then emptyRec
      else lamRec d (fp32.read (amaxLane p l).toNat) 0 (if bad then xPS else 0) (if bad then 65 else 0x7F)
    contribute s c k unitMatrix n lanes
  | _, _ => s

/-- A drain is complete: the contribution, DX on its way to FULL, the plane free; FIN's drain ends the pair. -/
def finishDrain (s : State) (c k n : Nat) (b : Binding) : State :=
  let s1 := amaxContribute s c k b
  let s2 := match tensorOf (ctxOf s1 c k) b.dx with
    | some t => if b.epi.mode ≠ 1 ∧ withEngine s1 c t then startMove s1 c (tnHandle t) 2 t.giver else s1
    | none => s1
  let s3 := if b.fin then dissolvePair s2 c k n else s2
  markProgress (modBind s3 c k n fun z =>
    { z with plane := none, rowXb := [], state := .waiting, drained := 0, fin := false,
             chains := if b.fin then z.chains else z.chains + 1 }) c k

/-- Whether every row and token of a drain has left; in mode PORT the last token has been accepted. -/
def drained (s : State) (c k : Nat) (b : Binding) : Bool :=
  let x := ctxOf s c k
  bindM x b * rowSteps b.epi.mode (bindN x b) ≤ b.drained &&
    (b.epi.mode != 1 || lookD (coreOf s c).hpOut (16 * 4 + k) [] == [])

/-- MM_DRAIN_COMPLETE (R343). -/
def execMmDrainComplete (c : Nat) (s : State) : Out :=
  .next (
    match (drains s c).find? fun p => matrixMoves s c p.1 && drained s c p.1 p.2.2 with
    | some (k, n, b) => finishDrain s c k n b
    | none => s)

/-! ### Softmax rows (R348) -/

/-- A correctly rounded FP32 product and difference. -/
def fpMul (a b : Nat) : Nat × Xb :=
  let (v, x) := mulNum (fp32.read a) (fp32.read b)
  let (r, y) := roundTo fp32 .rne v
  (r, x ||| y)
def fpSub (a b : Nat) : Nat × Xb :=
  let (v, x) := addNum .rne (fp32.read a) (negNum (fp32.read b))
  let (r, y) := roundTo fp32 .rne v
  (r, x ||| y)
/-- FEXP2 of the rounded difference. -/
def expDiff (a b : Nat) : Nat × Xb :=
  let (d, x) := fpSub a b
  let (r, y) := special exp2Num d
  (r, x ||| y)

/-- The exact sum of FP32 patterns rounded once. -/
def fpSum (l : List Nat) : Nat × Xb :=
  let k := lamKind opADDX 0
  readRec k fp32 (l.foldl (fun r v => combineRec k r (floatRec k (fp32.read v) 0 0x7F)) emptyRec)

/-- What a softmax row computes. -/
structure SmxRow where
  m  : Nat
  l  : Nat
  c  : Nat
  p  : List Nat
  xb : Xb

/-- A softmax row: the running maximum and sum, the rescaling factor and the probabilities. -/
def smxRow (m l : Nat) (z : List W32) (tau : W32) : SmxRow :=
  let zs := z.map fun x => fpMul x.toNat tau.toNat
  let zb := zs.foldl (fun b e => b ||| e.2) 0
  let mn := fp32.write (zs.foldl (fun a e => maxNum a (fp32.read e.1)) (fp32.read m))
  let low := fp32.read mn == .inf true
  let (c, cb) := if low then (0x3F800000, 0) else expDiff m mn
  let ps := zs.map fun e => if low then (0, (0 : Xb)) else expDiff e.1 mn
  let (sum, sb) := fpSum (ps.map (·.1))
  let (v, x) := addNum .rne (mulNum (fp32.read l) (fp32.read c)).1 (fp32.read sum)
  let (nl, y) := roundTo fp32 .rne v
  { m := mn, l := nl, c := c, p := ps.map (·.1),
    xb := zb ||| cb ||| sb ||| x ||| y ||| (mulNum (fp32.read l) (fp32.read c)).2 ||| ps.foldl (fun b e => b ||| e.2) 0 }

/-- A probability converted to the destination's format: its bytes and bits. -/
def smxOut (t : Tensor) (p : Nat) : List Byte × Xb :=
  let f := if tnFmt t = 0 then e4m3 else if tnFmt t = 5 then bf16 else fp16
  let (r, b) := roundNum f .rne true (fp32.read p)
  (natLE (fmtRow (tnFmt t) 1) r, b)

/-- One softmax row of the score chain's plane: DX, the side registers and the value plane. -/
def smxStep (s : State) (c k n m : Nat) (b : Binding) (t : Tensor) (tau : W32) : State :=
  let y := coreOf s c
  let i := b.drained
  let z := match b.plane with | some p => nth p i [] | none => []
  let r := smxRow (lookD y.m i 0xFF800000).toNat (lookD y.l i 0).toNat z tau
  let outs := r.p.map (smxOut t)
  let s1 := writeRow s c k t i (outs.flatMap (·.1)) ((lookD b.rowXb i 0).getLsbD 0)
  let s2 := modCore s1 c fun x => { x with m := put x.m i (BitVec.ofNat 32 r.m), l := put x.l i (BitVec.ofNat 32 r.l) }
  let s3 := modBind s2 c k n fun q =>
    { q with drained := q.drained + 1, xb := outs.foldl (fun v e => v ||| e.2) (q.xb ||| r.xb) }
  markProgress (modBind s3 c k m fun q =>
    match q.plane with
    | none => q
    | some p =>
      let row := (nth p i []).map fun v => fpMul v.toNat r.c
      { q with plane := some (p.set i (row.map fun e => BitVec.ofNat 32 e.1)), xb := row.foldl (fun v e => v ||| e.2) q.xb }) c k

/-- The score chain's rows are done: DX is FULL with the engine, and the plane frees. -/
def smxDone (s : State) (c k n : Nat) (b : Binding) (t : Tensor) : State :=
  modBind (modCtx s c k fun x => { x with tensors := put x.tensors b.dx { t with full := true } }) c k n fun z =>
    { z with plane := none, rowXb := [], state := .waiting, drained := 0, chains := z.chains + 1 }

/-- The score side that drains. -/
def scoreDrain (s : State) (c : Nat) : Option (Nat × Nat × Nat × Binding × W32) :=
  (coreOf s c).ctxs.findSome? fun p =>
    if !matrixMoves s c p.1 then none
    else p.2.binds.findSome? fun b =>
      match b.2.pair with
      | some (m, true, tau) => if b.2.state = .draining then some (p.1, b.1, m, b.2, tau) else none
      | _ => none

/-- MM_SOFTMAX_ROW (R348): the next row of a completed score chain; its drain waits until DX is EMPTY. -/
def execMmSoftmaxRow (c : Nat) (s : State) : Out :=
  .next (
    match scoreDrain s c with
    | none => s
    | some (k, n, m, b, tau) =>
      match tensorOf (ctxOf s c k) b.dx with
      | none => s
      | some t =>
        if t.full || !withEngine s c t || rowsStall s c t [b.drained] true then s
        else
          let s1 := smxStep s c k n m b t tau
          if b.drained + 1 = bindM (ctxOf s c k) b then smxDone s1 c k n b t else s1)

end Sys2Proof.Machine
end

