-- ==== Sys2Proof/Machine/NearMem.lean ====
section
/-! DEFINITION. Near-memory commands at their issuer (R90–R95, R102, R326, R327). -/
namespace Sys2Proof.Machine

/-! ### The command record (R90, R91) -/

def nmOp (w : List Word) : Nat := field (nth w 0 0) 56 8
def nmFmt (w : List Word) : Nat := field (nth w 0 0) 52 4
def nmRnd (w : List Word) : Rnd := rnd2 (field (nth w 0 0) 50 2)
def nmLply (w : List Word) : Bool := (nth w 0 0).getLsbD 49
def nmLreg (w : List Word) : Nat := field (nth w 0 0) 43 6
def nmTag (w : List Word) : Nat := field (nth w 0 0) 32 8
def nmN (w : List Word) : Nat := field (nth w 0 0) 0 32
/-- The VA in word i. -/
def nmVa (w : List Word) (i : Nat) : Nat := field (nth w i 0) 0 48
/-- Bytes of an element. -/
def nmSize (w : List Word) : Nat := if nmFmt w = 0 then 4 else 2
/-- The format of the elements. -/
def nmFormat (w : List Word) : Fmt := match nmFmt w with | 0 => fp32 | 1 => bf16 | _ => fp16
/-- Chunks of the command. -/
def nmTotal (w : List Word) : Nat := (nmN w * nmSize w + 255) / 256
/-- Whether the primary range is SRC1. -/
def nmReduces (w : List Word) : Bool := nmOp w == 6 || nmOp w == 7

/-- A range of a command: 0 DST, 1 SRC1, 2 SRC2, 3 the SUMX object or MAXABS word; its VA, bytes, and whether it is
written. -/
structure NmRange where
  role  : Nat
  va    : Nat
  n     : Nat
  write : Bool
  deriving DecidableEq, Repr

/-- The ranges of a command (R91), the primary one first. -/
def nmRanges (w : List Word) : List NmRange :=
  let n := nmN w * nmSize w
  let dst : NmRange := { role := 0, va := nmVa w 1, n := n, write := true }
  let src (i : Nat) : NmRange := { role := i, va := nmVa w (i + 1), n := n, write := false }
  match nmOp w with
  | 1 => [dst]
  | 2 => [dst, src 1]
  | 3 => [dst, src 1]
  | 4 => [dst, src 1, src 2]
  | 5 => [dst, src 1]
  | 6 => [src 1, { role := 3, va := nmVa w 1, n := 64, write := true }]
  | 7 => [src 1, { role := 3, va := nmVa w 1, n := 4, write := true }]
  | _ => [dst]

/-- What a near-memory range demands of its pages (R14). -/
def nmNeed (write : Bool) : Need := { write := write, fetch := false, pin := false, nm := true, host := false }
/-- What CMPL demands of its page (R94). -/
def nmCmplNeed : Need := { needStore with pin := true, host := false }

/-! ### The completion record (R102) -/

/-- The record of a command: status, cause, reason, failing VA, and the slot and stack, none when the core refuses it. -/
def nmRecord (q : NmCmd) (status cause reason badva : Nat) (at_ : Option (Nat × Nat)) (ce : Nat) : List Byte :=
  let xb := if q.poiscnt = 0 then q.xb else q.xb ||| xPS
  let w0 := place status 60 ||| place xb.toNat 54 ||| place cause 40 ||| place (nmTag q.words) 32 ||| BitVec.ofNat 64 q.chunks
  let w1 := place (nmTotal q.words) 32 ||| BitVec.ofNat 64 q.poiscnt
  let w2 := place reason 56 ||| BitVec.ofNat 64 badva
  let (slot, stack, rej) := match at_ with | some (n, k) => (n, k, 0) | none => (0, 0, 1)
  let w3 := place q.asid.toNat 52 ||| place q.core 44 ||| place q.slot 42 ||| place slot 38 ||| place stack 35 |||
    place rej 34 ||| BitVec.ofNat 64 (ce % 2 ^ 32)
  wordsBytes [w0, w1, w2, w3]

/-! ### NMCMD -/

/-- A command as its issuer sends it. -/
def newCmd (s : State) (c k : Nat) (w : List Word) (cmpl : Nat) : NmCmd :=
  let x := ctxOf s c k
  { words := w, core := c, slot := k, key := x.r.key, asid := BitVec.ofNat 12 (asidOf x), root := x.r.xlroot, cmpl := cmpl
    ext := [], obj := 0, pas := [], home := 0, ce := 0, locked := false, chunks := 0, poiscnt := 0, badva := 0, xb := 0
    acc := emptyRec, maxv := 0, abort := false }

/-- Whether LPLY is as R93 requires. -/
def lplyOk (x : Ctx) (w : List Word) : Bool :=
  let d := (lamOf x (nmLreg w)).decl
  !nmLply w || (nmOp w == 7 && declared d && declFmt d == 0 && (declOp d == opMAXABS || declOp d == opMAX))

/-- The core refuses a command: it writes the completion record, and NMCMD retires. -/
def nmRefused (s : State) (q : NmCmd) (status cause reason badva : Nat) : State :=
  retire (hbmWrite (logUndo s q.asid.toNat q.cmpl 32) q.cmpl (nmRecord q status cause reason badva none 0) false) 1

/-- NMCMD with CMPL translated: word 0 of the record is cleared, and the command is sent or refused (R94, R326). -/
def nmSend (s : State) (c k : Nat) (w : List Word) (cmpl : Nat) : State :=
  let x := ctxOf s c k
  let asid := asidOf x
  let t := signAccess (hbmWrite (logUndo s asid cmpl 8) cmpl (natLE 8 0) false) c k (nmVa w 6) 8 true
  let q := newCmd t c k w cmpl
  match nmRanges w with
  | [] => t
  | r :: _ =>
    match translate t c x.r.xlroot (BitVec.ofNat 64 r.va) (nmNeed r.write) with
    | (u, .error f) =>
      let v := if logged f.cause f.unbacked then violGlobal u c asid r.va (if r.write then 1 else 0) f.cause else u
      nmRefused v q 3 f.cause.code 0 r.va
    | (u, .ok p) =>
      if !lplyOk x w then nmRefused u q 4 0x0B 9 0
      else
        retire (modCtx (modStack u (paStack p.pa) fun z => { z with transit := z.transit ++ [{ q with home := homeSlice p.pa }] }) c k fun y =>
          { y with nmOut := y.nmOut + 1 }) 1

/-- NMCMD with its record read: CMPL is translated as a store to a pinned page; its fault is the instruction's. -/
def nmIssue (c k : Nat) (s : State) (w : List Word) : State :=
  let x := ctxOf s c k
  let va := BitVec.ofNat 64 (nmVa w 6)
  if va.toNat % 32 ≠ 0 then faultGlobal s va 1 (bareFault .align)
  else
    match translate s c x.r.xlroot va nmCmplNeed with
    | (t, .error f) => faultGlobal t va 1 f
    | (t, .ok p) =>
      let waits := match nmRanges w with
        | r :: _ => (match (translate t c x.r.xlroot (BitVec.ofNat 64 r.va) (nmNeed r.write)).2 with
          | .error f => f.cause == .none | .ok _ => false)
        | [] => false
      if scoreStalls (coreOf t c) (globalRng (asidOf x) va.toNat 8) true || waits ||
          !mayPerform t (newReq t (.unit c k 0) (asidOf x) va.toNat p false (.store (natLE 8 0) false)) then waitIn t .none
      else
        match admitted t c k 24 (atSeq k) with
        | (u, false) => waitIn u .none
        | (u, true) => nmSend u c k w p.pa

/-- NMCMD of a context: it waits for an earlier command when eight are outstanding, and for its release (R138). -/
def nmcmdOp (v : Word) (c k : Nat) (s : State) : State :=
  if 8 ≤ (ctxOf s c k).nmOut then waitIn s .none
  else
    match releaseNow s (.unit c k 0) .dev with
    | (t, false) => waitIn t .none
    | (t, true) => readRecord t c k v 64 64 (nmIssue c k)

/-- NMCMD (R326). -/
def execNmcmd (g : Guard) (a : Reg) (s : State) : Out := .next (guarded g s fun t => ctxOnly t (nmcmdOp (srcS t a)))

/-- NMFENCE (R139, R327): it waits until every earlier command has completed. -/
def execNmfence (g : Guard) (s : State) : Out :=
  .next (guarded g s fun t => ctxOnly t fun c k u => if (ctxOf u c k).nmOut = 0 then retire u 1 else waitIn u .none)

/-- NMSTAT (R327): word 0 of a completion record, as an acquire at DEV scope. -/
def execNmstat (g : Guard) (d a : Reg) (s : State) : Out :=
  .next (guarded g s fun t => ctxOnly t fun _ _ u =>
    access u { va := srcS u a, n := 8, align := 32, kind := 0, need := needLoad, write := false, sc := false
               op := .load 8, charge := 8, rel := none } (fun v _ => v) fun v x => retireS v d x 1)

end Sys2Proof.Machine
end

