-- ==== Sys2Proof/Machine/Slices.lean ====
section
/-! DEFINITION. The home slices and the hbmStacks' arrays (R65, R66, R82–R85, R88, R89) and the SC ring (R124). -/
namespace Sys2Proof.Machine

/-! ### Errors -/

/-- A corrected error is counted, the count stopping at its largest value (R84, R89), and counted for every command in a slot
of the stack's engine (R102). -/
def countCorrected (s : State) (k : Nat) : State :=
  modStack s k fun x => { x with ce := min 0xFFFFFFFF (x.ce + 1)
                                 slots := x.slots.map fun p => (p.1, { p.2 with ce := p.2.ce + 1 }) }

/-- An uncorrectable error of a sector is counted, and the first since UEADDR was cleared is recorded (R85, R89). -/
def countUncorrectable (s : State) (k q : Nat) : State :=
  modStack s k fun x => { x with ue := min 0xFFFFFFFF (x.ue + 1)
                                 ueaddr := if x.ueaddr.getLsbD 63 then x.ueaddr else place 1 63 ||| BitVec.ofNat 64 (q * 64) }

/-- The bytes of a sector that a line holds already. -/
def sectorHeld (l : Line) (q : Nat) : Bool := field l.mask (q % 2 * 64) 64 == 2 ^ 64 - 1

/-- What reading a sector from the array finds: a marked sector stays marked and uncounted (R85). -/
def sectorRead (s : State) (k q : Nat) (held : Bool) (x : Ecc) : State :=
  match x with
  | .clean => s
  | .corrected => countCorrected s k
  | .uncorrectable =>
    if s.poison.contains q then s
    else
      let t := countUncorrectable s k q
      if held then t else poisonSector t q

/-- What reading a sector from a slice's data array finds (R83–R85): a corrected line is dirty. -/
def sliceRead (s : State) (q : Nat) (x : Ecc) : State :=
  let t := sectorRead s (paStack (q * 64)) q false x
  match x, look t.lines (q / 2) with
  | .corrected, some l => { t with lines := put t.lines (q / 2) { l with dirty := true } }
  | _, _ => t

/-- An index and what the arrays give, as the one operand of an event: three times the index, and 0 for a clean read, 1 for
a corrected error, 2 for an uncorrectable one (log 75). -/
def withEcc (i : Nat) : Ecc → Nat
  | .clean => 3 * i
  | .corrected => 3 * i + 1
  | .uncorrectable => 3 * i + 2

/-- What the arrays give, of such an operand. -/
def eccOf (i : Nat) : Ecc := if i % 3 = 0 then .clean else if i % 3 = 1 then .corrected else .uncorrectable

/-! ### Accesses -/

/-- SLICE_ACCESS (R66): the home slice performs the accepted request numbered i / 3, with the reads absorbed into it (R79),
once no request it accepted earlier stands on the line. SC operations wait for the token, and a locked line holds the request
(R97). The rest of i is what reading the first sector of the request finds in the slice's arrays (log 75); a request that only
writes reads none. -/
def execSliceAccess (i : Nat) (s : State) : Out :=
  .next (
    match s.reqs.find? fun r => r.id == i / 3 && r.answer.isNone with
    | none => s
    | some r =>
      if r.host || r.sc || r.accepted.isNone || !mayPerform s r then s
      else performGroup (match r.op with | .store _ _ => s | _ => sliceRead (touchLines s r.pa r.op.bytes false) (r.pa / 64) (eccOf i)) r)

/-! ### The SC ring -/

/-- The slice that holds the token in a cycle. -/
def tokenAt (cycle : Nat) : Nat := cycle % 128 / 4

/-- The oldest accepted SC operation of a slice to a line that no lock holds (R124, R97). -/
def nextSc (s : State) (slice : Nat) : Option Req :=
  (s.reqs.filter fun r => r.sc && r.answer.isNone && !r.host && homeSlice r.pa == slice &&
      !isLocked s r.pa r.op.bytes).foldl (fun b r =>
    match r.accepted with
    | none => b
    | some n => match b with | some (m, q) => if n < m then some (n, r) else some (m, q) | none => some (n, r))
    (none : Option (Nat × Req)) |>.map (·.2)

/-- SC_TOKEN_VISIT (R124): the slice that holds the token performs its oldest SC operation, at most one in a cycle. -/
def execScTokenVisit (b : Nat) (s : State) : Out :=
  .next (
    if tokenAt s.cycle = b ∧ s.scAt ≤ s.cycle then
      match nextSc s b with
      | some r => if mayPerform s r then { performReq s r with scAt := s.cycle + 1 } else s
      | none => s
    else s)

/-! ### Lines -/

/-- LINE_FILL (R82): the line `n`, missing bytes in its slice `b`, comes from its stack and is merged under the mask. An
error strikes its lower sector unless the slice holds all of that one, and otherwise its upper one. -/
def execLineFill (b n : Nat) (x : Ecc) (s : State) : Out :=
  .next (
    if homeSlice (n * 128) ≠ b ∨ !isHbm (n * 128) then s
    else
      let (t, l) := holdLine s n
      if l.mask = BitVec.allOnes 128 then s
      else
        let q := if sectorHeld l (2 * n) then 2 * n + 1 else 2 * n
        { sectorRead t (b / 4) q (sectorHeld l q) x with
          lines := put t.lines n { l with mask := BitVec.allOnes 128 } })

/-- Sectors of a stack. -/
def stackSectors : Nat := Config.stackBytes / 64

/-- PATROL_SCRUB (R88): the scrubber of a stack reads its next sector; one whose line a slice holds is skipped, and the line,
if it is dirty, is written back (R82). -/
def execPatrolScrub (k : Nat) (x : Ecc) (s : State) : Out :=
  .next (
    let st := stackOf s k
    if st.period = 0 then s
    else
      let q := k * stackSectors + st.scrub % stackSectors
      let t := modStack s k fun y => { y with scrub := (y.scrub + 1) % stackSectors }
      match look s.lines (q / 2) with
      | some l => { t with lines := put t.lines (q / 2) { l with dirty := false } }
      | none => sectorRead t k q false x)

end Sys2Proof.Machine
end

