-- ==== Sys2Proof/Machine/NearMemEvents.lean ====
section
/-! DEFINITION. The near-memory engines (R95–R102): queues and slots, checks, range locks, chunks, completion. -/
namespace Sys2Proof.Machine

/-! ### The issuing context -/

/-- Changes the context of a key, resident or saved. -/
def modByKey (s : State) (c : Nat) (key : Half) (f : Ctx → Ctx) : State :=
  match slotOf (coreOf s c) key with
  | some k => modCtx s c k f
  | none => modCore s c fun y => { y with saved := updFirst y.saved (fun v => v.key == key) fun v => { v with ctx := f v.ctx } }

/-- Whether a command goes on: its context is neither clamped, gated past the drain, nor saved (R99). A gated context's
commands take further chunks while it drains, and stop when the drain ends (log 67). -/
def nmMoves (s : State) (q : NmCmd) : Bool :=
  match slotOf (coreOf s q.core) q.key with | some k => engineMoves s q.core k | none => false

/-- A command's unit of work counts for the watchdog (R399). -/
def nmProgress (s : State) (q : NmCmd) : State := modByKey s q.core q.key fun x => { x with progress := s.cycle }

/-! ### Completion (R101) -/

/-- A command leaves its slot. -/
def dropSlot (s : State) (k n : Nat) : State := modStack s k fun z => { z with slots := del z.slots n }

/-- Whether a command's access at its end is held, the command's own lock being gone: by another command's lock, or by a
request that the slice accepted earlier and that the command's own lock does not hold. -/
def endHeld (s : State) (k n pa m : Nat) : Bool :=
  isLocked (dropSlot s k n) pa m || (lineTaken s pa m none && !isLocked s pa m)

/-- A command completes: its lock is released, its record is written, its slot frees. -/
def finishNm (s : State) (k n : Nat) (q : NmCmd) (status cause reason badva : Nat) : State :=
  let t := dropSlot s k n
  if endHeld s k n q.cmpl 32 then s
  else
    let u := hbmWrite (logUndo t q.asid.toNat q.cmpl 32) q.cmpl (nmRecord q status cause reason badva (some (n, k)) q.ce) false
    nmProgress (modByKey u q.core q.key fun x => { x with nmOut := x.nmOut - 1 }) q

/-! ### Queue, slots and checks (R95, R96) -/

/-- Whether two ranges share a byte. -/
def NmRange.meets (a b : NmRange) : Bool := overlap a.va a.n b.va b.n
/-- Whether two commands' ranges overlap. -/
def nmClash (a b : NmCmd) : Bool :=
  a.asid == b.asid && (nmRanges a.words).any fun x => (nmRanges b.words).any fun y => x.meets y

/-- Words and fields that must be zero (R90, R91). -/
def nmZeroBad (w : List Word) : Bool :=
  let hi (i : Nat) : Bool := field (nth w i 0) 48 16 != 0
  let full (i : Nat) : Bool := nth w i 0 != 0
  let b := field (nth w 4 0) 32 32 != 0
  field (nth w 0 0) 40 3 != 0 || (!nmLply w && nmLreg w != 0) || hi 1 || hi 2 || hi 3 || hi 6 || full 5 || full 7 ||
    (match nmOp w with
     | 1 => full 2 || full 3 || b
     | 2 => full 3 || full 4
     | 3 => full 3 || b
     | 4 => false
     | 5 => full 3
     | _ => full 3 || full 4)

/-- Whether a range is misaligned (R91). -/
def NmRange.skew (w : List Word) (r : NmRange) : Bool :=
  r.va % (if r.role < 3 then 256 else if nmOp w = 6 then 64 else 4) != 0

/-- Whether two of a list's ranges overlap without being identical. -/
def rangesClash : List NmRange → Bool
  | [] => false
  | r :: l => (l.any fun q => r.meets q && !(r.va == q.va && r.n == q.n)) || rangesClash l

/-- The reason the record is rejected for before translation, 0 for none (R96). -/
def nmReason (w : List Word) : Nat :=
  if nmOp w = 0 ∨ 7 < nmOp w then 1
  else if 2 < nmFmt w then 2
  else if nmN w = 0 then 3
  else if nmZeroBad w then 4
  else if (nmRanges w).any fun r => r.skew w then 5
  else if rangesClash (nmRanges w) then 6
  else 0

/-- NM_COMMAND_ARRIVE (R95): a full queue holds the command in its slice. -/
def execNmCommandArrive (k : Nat) (s : State) : Out :=
  .next (modStack s k fun z =>
    match z.transit with
    | q :: r => if z.queue.length < 64 then { z with transit := r, queue := z.queue ++ [q] } else z
    | [] => z)

/-- The first queued command that may take a slot: no command in a slot and no earlier one in the queue overlaps it. -/
def nmNext (s : State) (slots : List NmCmd) : List NmCmd → List NmCmd → Option NmCmd
  | _, [] => none
  | early, q :: r =>
    if (q.abort || nmMoves s q) && !((slots ++ early).any fun p => nmClash p q) then some q else nmNext s slots (early ++ [q]) r

/-- NM_SLOT_START (R95, R96): the command is checked; one that fails completes as REJECTED. -/
def execNmSlotStart (k : Nat) (s : State) : Out :=
  .next (
    let z := stackOf s k
    match (List.range 16).find? (fun n => (look z.slots n).isNone), nmNext s (z.slots.map (·.2)) [] z.queue with
    | some n, some q =>
      let t := modStack s k fun y => { y with queue := y.queue.erase q, slots := put y.slots n q }
      let done (status cause reason : Nat) : State :=
        let u := finishNm t k n q status cause reason 0
        if (look (stackOf u k).slots n).isSome then s else u
      if q.abort then done 5 0x11 0
      else match nmReason q.words with | 0 => t | r => done 4 0x0B r
    | _, _ => s)

/-! ### Translation and locks (R96, R97) -/

/-- Translates a range page by page, by the TLB of a bay; the first failing VA and its fault, or the pieces (VA, PA, bytes). -/
def nmPieces (s : State) (bay : Nat) (root : Word) (write : Bool) :
    Nat → Nat → Nat → State × Except (Nat × XFault) (List (Nat × Nat × Nat))
  | 0, _, _ => (s, .ok [])
  | fuel + 1, va, n =>
    if n = 0 then (s, .ok [])
    else
      match bayTranslate s bay root va (nmNeed write) with
      | (t, .error f) => (t, .error (va, f))
      | (t, .ok (p, span)) =>
        let size := 4096 * 2 ^ span
        let m := min n (size - va % size)
        match nmPieces t bay root write fuel (va + m) (n - m) with
        | (u, .ok r) => (u, .ok ((va, p.pa, m) :: r))
        | (u, .error e) => (u, .error e)

/-- A range that fails: the failing VA, its fault, and whether the command writes there. -/
structure NmFail where
  va    : Nat
  fault : XFault
  write : Bool
  deriving DecidableEq, Repr

/-- Of two failures that of the lower VA; a lock that holds a walk comes before both (R97). -/
def NmFail.first (a b : NmFail) : NmFail :=
  if a.fault.cause = .none then a else if b.fault.cause = .none ∨ b.va < a.va then b else a

/-- Translates every range; the failure of the lowest VA, or the pieces by operand. -/
def nmTranslate (s : State) (bay : Nat) (root : Word) : List NmRange → State × Except NmFail (List (Nat × List (Nat × Nat × Nat)))
  | [] => (s, .ok [])
  | r :: l =>
    match nmPieces s bay root r.write (r.n / 4096 + 2) r.va r.n with
    | (t, .error (va, f)) =>
      let e : NmFail := { va := va, fault := f, write := r.write }
      (match nmTranslate t bay root l with | (u, .ok _) => (u, .error e) | (u, .error g) => (u, .error (e.first g)))
    | (t, .ok ps) =>
      match nmTranslate t bay root l with
      | (u, .ok m) => (u, .ok ((r.role, ps) :: m))
      | (u, .error e) => (u, .error e)

/-- Joins pieces that are physically contiguous. -/
def joinExtents : List (Nat × Nat) → List (Nat × Nat)
  | [] => []
  | (a, n) :: r =>
    match joinExtents r with
    | (b, m) :: l => if a + n = b then (a, n + m) :: l else (a, n) :: (b, m) :: l
    | [] => [(a, n)]

/-- The page extents of a command's ranges; those of identical ranges count once (log 68). -/
def nmExtents (m : List (Nat × List (Nat × Nat × Nat))) : List (Nat × Nat) :=
  ((m.map (·.2)).eraseDups).flatMap fun ps => joinExtents (ps.map fun x => (x.2.1, x.2.2))

/-- The extents a command locks: those of its ranges but the SUMX object. -/
def lockExtents (w : List Word) (m : List (Nat × List (Nat × Nat × Nat))) : List (Nat × Nat) :=
  nmExtents (m.filter fun p => !(nmOp w == 6 && p.1 == 3))

/-- A range refused to the engine of a stack is logged (R10, R43). -/
def nmViol (s : State) (k : Nat) (q : NmCmd) (e : NmFail) : State :=
  if logged e.fault.cause e.fault.unbacked then
    logViol s (k / 4) { asid := q.asid.toNat, addr := e.va, cause := e.fault.cause.code, reqid := k, kind := 2, akind := 0,
                        acc := if e.write then 1 else 0 }
  else s

/-- The lines of extents leave their slices (R97); HBM4 holds their bytes. -/
def dropLines (s : State) (ext : List (Nat × Nat)) : State :=
  { s with lines := s.lines.filter fun p => !(ext.any fun e => p.1 * 128 < e.1 + e.2 && e.1 < p.1 * 128 + 128) }

/-- NM_RANGE_LOCK (R96, R97): after translation the command takes its lock, or completes as FAULT or REJECTED. -/
def execNmRangeLock (k n : Nat) (s : State) : Out :=
  .next (
    match look (stackOf s k).slots n with
    | none => s
    | some q =>
      if q.locked then s
      else if q.abort then finishNm s k n q 5 0x11 0 0
      else if !nmMoves s q then s
      else
        match nmTranslate s q.home q.root (nmRanges q.words) with
        | (t, .error e) =>
          if e.fault.cause = .none || endHeld t k n q.cmpl 32 then s
          else finishNm (nmViol t k q e) k n q 3 e.fault.cause.code 0 e.va
        | (t, .ok m) =>
          let ext := lockExtents q.words m
          if ext.any fun e => paStack e.1 != k || paStack (e.1 + e.2 - 1) != k then finishNm t k n q 4 0x0B 7 0
          else if 64 < (nmExtents m).length then finishNm t k n q 4 0x0B 8 0
          else
            let obj := match look m 3 with | some ((_, pa, _) :: _) => pa | _ => 0
            modStack (dropLines t ext) k fun z =>
              { z with slots := put z.slots n { q with pas := m, ext := ext, obj := obj, locked := true } })

/-! ### Chunks (R92, R98, R100) -/

/-- The operands a command reads. -/
def nmReads (w : List Word) : List Nat :=
  match nmOp w with | 1 => [] | 4 => [1, 2] | 5 => [0, 1] | _ => [1]

/-- The physical address of an offset of an operand's range, and its VA. -/
def nmAt (q : NmCmd) (role off : Nat) : Nat × Nat :=
  let va := nmVa q.words (role + 1) + off
  match (lookD q.pas role []).find? fun p => p.1 ≤ va && va < p.1 + p.2.2 with
  | some p => (p.2.1 + (va - p.1), va)
  | none => (0, va)

/-- The FP32 scalars. -/
def nmA (w : List Word) : Num := fp32.read (field (nth w 4 0) 0 32)
def nmB (w : List Word) : Num := fp32.read (field (nth w 4 0) 32 32)

/-- An element of an element-wise operation (R92): its bits in the format and the exception bits. -/
def nmElem (ws : List Word) (x y w : Nat) : Nat × Xb :=
  let f := nmFormat ws
  let r := nmRnd ws
  let fma (g : Fmt) (a b c : Num) : Nat × Xb := let (v, e) := mulAdd r a b c; let (z, h) := roundTo g r v; (z, e ||| h)
  match nmOp ws with
  | 1 => roundTo f r (nmA ws)
  | 2 => (x, 0)
  | 3 => let (v, e) := mulNum (nmA ws) (f.read x); let (z, h) := roundTo f r v; (z, e ||| h)
  | 4 =>
    let (v, e) := mulNum (nmB ws) (f.read y)
    let (t, h) := roundTo fp32 r v
    let (z, i) := fma f (nmA ws) (f.read x) (fp32.read t)
    (z, e ||| h ||| i)
  | _ =>
    let (t, e) := fma fp32 (nmB ws) (f.read w) (f.read x)
    let (z, h) := fma f (negNum (nmA ws)) (fp32.read t) (f.read w)
    (z, e ||| h)

/-- The bytes of an operand in the chunk at an offset. -/
def nmBytes (s : State) (q : NmCmd) (role off m : Nat) : List Byte :=
  if (nmReads q.words).contains role then hbmRead s (nmAt q role off).1 m else []

/-- Element i of bytes. -/
def elemAt (bs : List Byte) (size i : Nat) : Nat := leNat ((bs.drop (i * size)).take size)

/-- The largest magnitude so far and a further element (R92). -/
def maxAbs (m : W32) (x : Num) : W32 :=
  if x.isNan then 0x7FC00000
  else if m = 0x7FC00000 then m
  else if cmpNum (fp32.read m.toNat) (absNum x) < 0 then BitVec.ofNat 32 (fp32.write (absNum x)) else m

/-- A clean chunk of a command: every read, then every write. -/
def nmWork (s : State) (q : NmCmd) (off m : Nat) : State × NmCmd :=
  let w := q.words
  let size := nmSize w
  let bx := nmBytes s q 1 off m
  let es := List.range (m / size)
  match nmOp w with
  | 6 => (s, { q with acc := es.foldl (fun a i =>
      combineRec { op := opADDX, float := true, bits := 32 } a
        (floatRec { op := opADDX, float := true, bits := 32 } ((nmFormat w).read (elemAt bx size i)) 0 0x7F)) q.acc })
  | 7 => (s, { q with maxv := es.foldl (fun a i => maxAbs a ((nmFormat w).read (elemAt bx size i))) q.maxv })
  | _ =>
    let bw := nmBytes s q 0 off m
    let b2 := nmBytes s q 2 off m
    let rs := es.map fun i => nmElem w (elemAt bx size i) (elemAt b2 size i) (elemAt bw size i)
    let pa := (nmAt q 0 off).1
    (arrayWrite (logUndo s q.asid.toNat pa m) pa (rs.flatMap fun r => natLE size r.1) false,
     { q with xb := rs.foldl (fun a r => a ||| r.2) q.xb })

/-- The first poisoned sector a chunk reads, as a VA: of several operands that hold one, DST comes
first, then SRC1, then SRC2 (log 69). -/
def nmPoison (s : State) (q : NmCmd) (off m : Nat) : Option Nat :=
  (nmReads q.words).findSome? fun r =>
    let (pa, va) := nmAt q r off
    (firstPoisoned s pa m).map fun i => va + i / 64 * 64

/-- A poisoned chunk: the sectors it would write become poisoned (R100). -/
def nmSpoil (s : State) (q : NmCmd) (off m va : Nat) : State × NmCmd :=
  let pa := (nmAt q 0 off).1
  (if nmReduces q.words then s
   else (unitsOf 64 pa m).foldl poisonSector (logUndo s q.asid.toNat pa m),
   { q with poiscnt := q.poiscnt + 1, badva := if q.poiscnt = 0 then va else q.badva })

/-- What reading the first sector of a chunk's operands finds in the array (R83–R85). -/
def nmErrors (s : State) (k : Nat) (q : NmCmd) (off : Nat) (x : Ecc) : State :=
  match nmReads q.words with
  | r :: _ => sectorRead s k ((nmAt q r off).1 / 64) false x
  | [] => s

/-- The next chunk of slot n's command (R98), with what the array gives for the first sector that it reads. -/
def nmChunkOp (k n : Nat) (x : Ecc) (s : State) : State :=
  match look (stackOf s k).slots n with
  | none => s
  | some q =>
    if !q.locked || q.abort || decide (nmTotal q.words ≤ q.chunks) || !nmMoves s q then s
    else
      let off := q.chunks * 256
      let m := min 256 (nmN q.words * nmSize q.words - off)
      let s1 := nmErrors s k q off x
      let q1 := lookD (stackOf s1 k).slots n q
      let (t, p) := match nmPoison s1 q1 off m with | some va => nmSpoil s1 q1 off m va | none => nmWork s1 q1 off m
      nmProgress (modStack t k fun z => { z with slots := put z.slots n { p with chunks := p.chunks + 1 } }) q

/-- NM_CHUNK (R98): the next chunk of the command in slot n / 3; the rest of n is what the array gives (log 75). -/
def execNmChunk (k n : Nat) (s : State) : Out := .next (nmChunkOp k (n / 3) (eccOf n) s)

/-! ### The end of a command (R92, R93, R101) -/

/-- SUMX adds its sum to the object as one operation. With a poisoned object that operation is not performed (R86); the
command completes as DONE all the same, with no bit and no cause (log 70). -/
def nmSum (s : State) (q : NmCmd) : State :=
  if (firstPoisoned s q.obj 64).isSome then s
  else
    let o := axOfBytes (hbmRead s q.obj 64)
    let p : AxObj := { acc := o.acc + recAcc q.acc, stk := o.stk ||| recStk q.acc, xb := o.xb ||| q.xb, count := o.count + 1 }
    hbmWrite (logUndo s q.asid.toNat q.obj 64) q.obj (axBytes p) false

/-- MAXABS stores its result and makes its ply, which joins the completion path's buffer (R93). -/
def nmMax (s : State) (q : NmCmd) : State :=
  let t := hbmWrite (logUndo s q.asid.toNat q.obj 4) q.obj (natLE 4 q.maxv.toNat) false
  match slotOf (coreOf t q.core) q.key with
  | some k =>
    let d := (lamOf (ctxOf t q.core k) (nmLreg q.words)).decl
    if nmLply q.words && declared d then
      contribute t q.core k unitNear (nmLreg q.words)
        (oneLane (declWidth d) 0 (floatRec (declKind d) (fp32.read q.maxv.toNat) 0 0x7F))
    else t
  | none => t

/-- NM_COMPLETE (R101): every chunk is processed, or the command ends as ABORTED after its current one. -/
def execNmComplete (k n : Nat) (s : State) : Out :=
  .next (
    match look (stackOf s k).slots n with
    | none => s
    | some q =>
      if q.abort then finishNm s k n q 5 0x11 0 q.badva
      else if !q.locked || decide (q.chunks < nmTotal q.words) || !nmMoves s q then s
      else if nmReduces q.words && endHeld s k n q.obj (if nmOp q.words = 6 then 64 else 4) then s
      else if endHeld s k n q.cmpl 32 then s
      else if q.poiscnt ≠ 0 then finishNm s k n q 2 0x07 0 q.badva
      else
        let t := if nmOp q.words = 6 then nmSum s q else if nmOp q.words = 7 then nmMax s q else s
        finishNm t k n q 1 0 0 0)

end Sys2Proof.Machine
end

