-- ==== Sys2Proof/Machine/Pred.lean ====
section
/-! DEFINITION. The predicate instructions of the sequencer (R246, R247). -/
namespace Sys2Proof.Machine

/-- A predicate instruction: predicates are read before any is written. -/
def predOp (g : Guard) (d : Pred) (f : State → Bool) (s : State) : State :=
  guarded g s fun t => retireP t d (f t)

/-- PSET (R246). -/
def execPset (g : Guard) (p : Pred) (a b : Reg) (c : Cond) (s : State) : Out :=
  .next (predOp g p (fun t => condHolds c 64 (srcS t a).toNat (srcS t b).toNat) s)

/-- PSETI (R246): the immediate is sign-extended from 12 bits. -/
def execPseti (p : Pred) (a : Reg) (c : Cond) (i : BitVec 12) (s : State) : Out :=
  .next (retireP s p (condHolds c 64 (srcS s a).toNat (immS i).toNat))

/-- PAND (R246). -/
def execPand (g : Guard) (d a b : Pred) (s : State) : Out :=
  .next (predOp g d (fun t => srcP t a && srcP t b) s)

/-- POR (R246). -/
def execPor (g : Guard) (d a b : Pred) (s : State) : Out :=
  .next (predOp g d (fun t => srcP t a || srcP t b) s)

/-- PXOR (R246). -/
def execPxor (g : Guard) (d a b : Pred) (s : State) : Out :=
  .next (predOp g d (fun t => srcP t a != srcP t b) s)

/-- PNOT (R246). -/
def execPnot (g : Guard) (d a : Pred) (s : State) : Out :=
  .next (predOp g d (fun t => !srcP t a) s)

/-- SEL (R247): the guard field selects; it never fails a guard. -/
def execSel (g : Guard) (d a b : Reg) (s : State) : Out :=
  .next (retireS s d (if guardHolds (curSeq s) g then srcS s a else srcS s b) 1)

end Sys2Proof.Machine
end

