-- ==== Sys2Proof/Machine/RegWrite.lean ====
section
/-! DEFINITION. The writes of device registers as events (R20): each is the write of its register. -/
namespace Sys2Proof.Machine

/-- The address of a hub register. -/
def hubPa (o : Nat) : Nat := Config.regBase + o
/-- The address of a core's register (R21). -/
def corePa (c o : Nat) : Nat := Config.regBase + 0x1000000 + c * 0x10000 + o
/-- The address of a context register. -/
def ctxPa (c k o : Nat) : Nat := corePa c (k * 0x1000 + o)

/-- A write of a context's register; a core or a slot that does not exist is no event. -/
def ctxWrite (r : Src) (c k o : Nat) (v : Word) (s : State) : State :=
  if c < Config.cores ∧ k < 4 then spaceWrite s r (ctxPa c k o) 8 v else s
/-- A write of a core's register. -/
def coreWrite (r : Src) (c o : Nat) (v : Word) (s : State) : State :=
  if c < Config.cores then spaceWrite s r (corePa c o) 8 v else s

/-- REGISTER_WRITE (R20). -/
def execRegisterWrite (r : Src) (pa n : Nat) (v : Word) (s : State) : Out := .next (spaceWrite s r pa n v)
/-- CONFIG_SPACE_WRITE (R23). -/
def execConfigSpaceWrite (r : Src) (pa n : Nat) (v : Word) (s : State) : Out :=
  .next (if Config.cfgBase ≤ pa ∧ pa < Config.trcBase then spaceWrite s r pa n v else s)
/-- VIOLATION_ENTRY_FREE (R43). -/
def execViolationEntryFree (r : Src) (d e : Nat) (s : State) : Out :=
  .next (if d < 3 ∧ e < 16 then spaceWrite s r (hubPa (0x2800000 + d * 0x1000 + e * 16 + 8)) 8 1 else s)
/-- FQCTL_WRITE (R39). -/
def execFqctlWrite (r : Src) (c k : Nat) (v : Word) (s : State) : Out := .next (ctxWrite r c k 0x008 v s)
/-- FQPTR_WRITE (R39). -/
def execFqptrWrite (r : Src) (c k : Nat) (v : Word) (s : State) : Out := .next (ctxWrite r c k 0x010 v s)
/-- OVFBASE_WRITE (R173). -/
def execOvfbaseWrite (r : Src) (c k : Nat) (v : Word) (s : State) : Out := .next (ctxWrite r c k 0x020 v s)
/-- BWCTL_WRITE (R106). -/
def execBwctlWrite (r : Src) (c : Nat) (v : Word) (s : State) : Out := .next (coreWrite r c 0x8000 v s)
/-- BWSHARE_WRITE (R106). -/
def execBwshareWrite (r : Src) (c t : Nat) (v : Word) (s : State) : Out :=
  .next (if t < 17 then coreWrite r c (0x8008 + t * 8) v s else s)
/-- TRAPREQ_DONE (R249). -/
def execTrapreqDone (r : Src) (c k : Nat) (s : State) : Out := .next (ctxWrite r c k 0x038 1 s)
/-- FIRSTX_REARM (R398). -/
def execFirstxRearm (r : Src) (c k : Nat) (s : State) : Out := .next (ctxWrite r c k 0x050 0x8000000000000000 s)
/-- UEADDR_CLEAR (R89). -/
def execUeaddrClear (r : Src) (k : Nat) (s : State) : Out :=
  .next (if k < 8 then spaceWrite s r (hubPa (0x2400000 + k * 0x10000 + 8)) 8 0x8000000000000000 else s)
/-- JOBCTL_KILL (R400): KILL is written beside the register's other fields. -/
def execJobctlKill (r : Src) (a : Nat) (s : State) : Out :=
  .next (if a < 4096 then spaceWrite s r (hubPa (0x20000 + a * 8)) 8 (jobctlWord (jobOf s a) ||| 0x10) else s)
/-- DBGDATA_WRITE (R421, R422). -/
def execDbgdataWrite (r : Src) (c k : Nat) (v : Word) (s : State) : Out := .next (ctxWrite r c k 0x108 v s)
/-- DBGDATA_READ (R421). -/
def execDbgdataRead (r : Src) (c k : Nat) (s : State) : Out :=
  .next (if c < Config.cores ∧ k < 4 then (spaceRead s r (ctxPa c k 0x108) 8).1 else s)
/-- QUEUE_RESET (R445): QRST names the queue. -/
def execQueueReset (r : Src) (q : Nat) (s : State) : Out :=
  .next (if q < 128 then spaceWrite s r (hubPa 0x11000) 8 (BitVec.ofNat 64 q) else s)
/-- CORE_RESET (R445). -/
def execCoreReset (r : Src) (c : Nat) (s : State) : Out := .next (coreWrite r c 0x9800 1 s)
/-- DIE_RESET (R445). -/
def execDieReset (r : Src) (d : Nat) (s : State) : Out :=
  .next (if d < 2 then spaceWrite s r (hubPa (0x340000 + d * 8)) 8 1 else s)

/-- QDB_RING (R380, R434): the doorbell of a queue, in the hub's window or in the function's queue window. -/
def execQdbRing (r : Src) (q : Nat) (v : Word) (s : State) : Out :=
  .next (
    if 128 ≤ q then s
    else if privileged r then spaceWrite s r (hubPa (0x10000 + q * 0x20 + 0x10)) 8 v
    else match r with
      | .host f => if qFunc (queueOf s q) = f ∧ f ≤ 16 then (if v.getLsbD 0 then ringBell (answer s []) q else answer s [])
                   else refuse s r 1 (q * 0x80 + 0x48) 1
      | .svc _ => s)

end Sys2Proof.Machine
end

