-- ==== Sys2Proof/Machine/System.lean ====
section
/-! DEFINITION. The system instructions of the sequencer (R242, R243, R255–R257, R310, R423). -/
namespace Sys2Proof.Machine

/-! ### System registers -/

/-- CTXID (R243). -/
def ctxidWord (x : Ctx) (c k : Nat) : Word :=
  place (asidOf x) 52 ||| place c 44 ||| place k 42 ||| x.r.key.setWidth 64

/-- LOOPST (R243): the depth, and the counters of the levels, outermost first. -/
def loopstWord (q : Seq) : Word :=
  let l := q.loops.reverse.map fun f => f.lc.toNat
  place (nth l 0 0) 2 ||| place (nth l 1 0) 4 ||| place (nth l 2 0) 6 ||| BitVec.ofNat 64 l.length

/-- A system register that a job context and a service core read alike. -/
def commonReg (s : State) (n : Nat) : Option Word :=
  let q := curSeq s
  match n with
  | 0x10 => some ((readLC q 0).setWidth 64)
  | 0x11 => some ((readLC q 1).setWidth 64)
  | 0x12 => some ((readLC q 2).setWidth 64)
  | 0x13 => some (loopstWord q)
  | 0x20 => some (BitVec.ofNat 64 s.cycle)
  | 0x21 => some (tickNow s)
  | 0x30 => some q.qtmo
  | 0x31 => some (q.evcnt.setWidth 64)
  | 0x40 => some q.fpxen
  | _ => none

/-- Whether a number names a handle register (R310). -/
def isHandleReg (n : Nat) : Bool := 0x50 ≤ n && n < 0x60
/-- Whether a number names a register of service cores only. -/
def isHandlerReg (n : Nat) : Bool := 0x80 ≤ n && n < 0x83

/-- A register's value on a service core; none is ILLOP (R466). -/
def svcReg (s : State) (v : Svc) (n : Nat) : Option Word :=
  match n with
  | 0 => some 0
  | 1 => some 0
  | 0x80 => some v.hpc
  | 0x81 => some v.hcause
  | 0x82 => some v.hvec
  | _ => commonReg s n

/-- MFSR with its register's number. -/
def mfsrOp (d : Reg) (n : Nat) (s : State) : State :=
  match s.cur with
  | .seq c k =>
    let x := ctxOf s c k
    if isHandlerReg n then privCur s n
    else if isHandleReg n then retireS s d ((readH x.seq (BitVec.ofNat 4 (n - 0x50))).setWidth 64) 1
    else if n = 0 then retireS s d (ctxidWord x c k) 1
    else if n = 1 then retireS s d x.r.xlroot 1
    else match commonReg s n with | some v => retireS s d v 1 | none => trapCur s .illop
  | .svc i => match svcReg s (svcOf s i) n with | some v => retireS s d v 1 | none => trapCur s .illop
  | _ => s

/-- MFSR (R243). -/
def execMfsr (d : Reg) (r : Half) (s : State) : Out := .next (mfsrOp d r.toNat s)

/-- A write of a register that a job context and a service core write alike; none is ILLOP. -/
def writeCommon (q : Seq) (n : Nat) (v : Word) : Option Seq :=
  match n with
  | 0x10 => some (writeLC q 0 (v.setWidth 32))
  | 0x11 => some (writeLC q 1 (v.setWidth 32))
  | 0x12 => some (writeLC q 2 (v.setWidth 32))
  | 0x30 => some { q with qtmo := v }
  | 0x40 => if v &&& ~~~0x3E = 0 then some { q with fpxen := v } else none
  | _ => none

/-- MTSR with its register's number: a register's new value, then retirement. -/
def mtsrOp (n : Nat) (v : Word) (s : State) : State :=
  let common (t : State) : State :=
    match writeCommon (curSeq t) n v with | some q => retire (modCur t fun _ => q) 1 | none => trapCur t .illop
  match s.cur with
  | .seq _ _ =>
    if isHandlerReg n ∨ n = 1 then privCur s n
    else if isHandleReg n then retire (modCur s fun q => writeH q (BitVec.ofNat 4 (n - 0x50)) (v.setWidth 16)) 1
    else common s
  | .svc i =>
    match n with
    | 0x80 => retire (modSvc s i fun x => { x with hpc := v }) 1
    | 0x81 => retire (modSvc s i fun x => { x with hcause := v }) 1
    | 0x82 => retire (modSvc s i fun x => { x with hvec := v &&& ~~~3 }) 1
    | _ => common s
  | _ => s

/-- MTSR (R243). -/
def execMtsr (a : Reg) (r : Half) (s : State) : Out := .next (mtsrOp r.toNat (srcS s a) s)

/-! ### TLBINV (R33, R255) -/

/-- The mode of a TLBINV: a page of an ASID, an ASID, or everything. -/
inductive Inval where
  | page (asid : Nat) (va : Word)
  | asid (a : Nat)
  | all
  deriving DecidableEq, Repr

/-- Whether a mode removes an entry. -/
def Inval.drops (m : Inval) (e : TlbEntry) : Bool :=
  match m with
  | .page a va => va.toNat < 2 ^ 48 && e.hits a (va.toNat / 4096)
  | .asid a => e.asid.toNat == a && !e.leaf.getLsbD 52
  | .all => true

/-- Whether a request in flight may have used a removed entry: for a page, those of its 1 GiB, whatever the ASID. -/
def Inval.waitsFor (m : Inval) (r : Req) : Bool :=
  match m with
  | .page _ va => r.va / 2 ^ 30 == va.toNat / 2 ^ 30
  | .asid a => r.asid.toNat == a
  | .all => true

/-- The core of a translated requester. -/
def whoCore (w : Who) : Option Nat := match w with | .unit c _ _ => some c | _ => none

/-- Removes matching entries in a scope instance, and performs the accesses translated with them; it retires once all are
performed. -/
def tlbinvRun (m : Inval) (cores : List Nat) (s : State) : State :=
  let t := tlbDrop s cores ((cores.map coreBay).eraseDups) m.drops
  let l := t.reqs.filter fun r => r.answer.isNone && m.waitsFor r && (match whoCore r.who with | some c => cores.contains c | none => false)
  match drainList t l with
  | (u, true) => retire u 1
  | (u, false) => waitIn u (.inval (match m with | .page a _ => some a | .asid a => some a | .all => none))

/-- The cores of a scope instance. -/
def scopeCores (z : Scope) (c : Nat) : List Nat :=
  (List.range Config.cores).filter fun d => scopeInst z d == scopeInst z c

/-- TLBINV of a page, with its operands (R255). -/
def tlbinvPage (z : Scope) (a b : Reg) (s : State) : State :=
  match s.cur with
  | .seq c k =>
    if z = .pod ∨ b ≠ 0 then trapCur s .illop
    else tlbinvRun (.page (asidOf (ctxOf s c k)) (srcS s a)) (scopeCores z c) s
  | .svc _ =>
    if z ≠ .dev || above (srcS s b) 12 then trapCur s .illop
    else tlbinvRun (.page (srcS s b).toNat (srcS s a)) (List.range Config.cores) s
  | _ => s

/-- A guarded meaning whose field b a job context may not use: there a non-zero b is a reserved encoding, refused before
the guard is looked at (R224, R255). -/
def bReserved (g : Guard) (b : Reg) (s : State) (body : State → State) : State :=
  match s.cur with
  | .seq _ _ => if b ≠ 0 then trapCur s .illop else guarded g s body
  | _ => guarded g s body

/-- TLBINV (R255). -/
def execTlbinv (g : Guard) (z : Scope) (a b : Reg) (s : State) : Out := .next (bReserved g b s (tlbinvPage z a b))

/-- TLBINV.ASID, with its operands. -/
def tlbinvOfAsid (z : Scope) (b : Reg) (s : State) : State :=
  match s.cur with
  | .seq c k =>
    if z = .pod ∨ b ≠ 0 then trapCur s .illop
    else tlbinvRun (.asid (asidOf (ctxOf s c k))) (scopeCores z c) s
  | .svc _ =>
    if z ≠ .dev || above (srcS s b) 12 then trapCur s .illop
    else tlbinvRun (.asid (srcS s b).toNat) (List.range Config.cores) s
  | _ => s

/-- TLBINV.ASID (R255). -/
def execTlbinvAsid (g : Guard) (z : Scope) (b : Reg) (s : State) : Out := .next (bReserved g b s (tlbinvOfAsid z b))

/-- TLBINV.ALL (R255): PRIV in a job context. -/
def tlbinvEvery (z : Scope) (s : State) : State :=
  match s.cur with
  | .seq _ _ => if z = .pod then trapCur s .illop else privCur s 0
  | .svc _ => if z ≠ .dev then trapCur s .illop else tlbinvRun .all (List.range Config.cores) s
  | _ => s

/-- TLBINV.ALL (R255). -/
def execTlbinvAll (g : Guard) (z : Scope) (s : State) : Out := .next (guarded g s (tlbinvEvery z))

/-! ### ICINV (R256) -/

/-- Drops, for an ASID, what a test on addresses picks out of a core's instruction cache, configuration cache and exit
predictor. -/
def icDrop (y : Core) (asid : Nat) (p : Nat → Bool) : Core :=
  let hit (key : Nat) : Bool := key % 4096 == asid && p (key / 4096)
  { y with
    icache := y.icache.filter fun e => !hit e.1
    ccache := y.ccache.filter fun e => !hit e.1
    pred := y.pred.filter fun e => !hit e.1 }

/-- ICINV of the executing context; a service core fetches through no such cache. -/
def icinvOp (p : Nat → Bool) (s : State) : State :=
  match s.cur with
  | .seq c k => retire (modCore s c fun y => icDrop y (asidOf (ctxOf s c k)) p) 1
  | _ => retire s 1

/-- The pages of 4 KiB, as a power of two, in the page that contains an address of the executing context; one where the
tables give no page (R11, R15, log 53). -/
def pageSpan (s : State) (va : Word) : Nat :=
  match s.cur with
  | .seq c k => (match walk s (ctxOf s c k).r.xlroot va.toNat with | .ok l => l.span | .error _ => 0)
  | _ => 0

/-- ICINV (R256): the page containing S[a]. -/
def execIcinv (g : Guard) (a : Reg) (s : State) : Out :=
  .next (guarded g s fun t =>
    let size := 4096 * 2 ^ pageSpan t (srcS t a)
    icinvOp (fun va => va / size == (srcS t a).toNat / size) t)
/-- ICINV.ALL (R256). -/
def execIcinvAll (g : Guard) (s : State) : Out := .next (guarded g s (icinvOp fun _ => true))

/-! ### CLAMP and trace (R257, R408, R423) -/

/-- CLAMP retires, requests the clamp wave, and stops the sequencer before the next instruction. -/
def clampOp (c k : Nat) (s : State) : State :=
  let t := retire s 1
  let u := modCtx t c k fun x => { x with trap := match x.trap with | some i => some i | none => some (plainTrap .none 0) }
  requestClamp u (asidOf (ctxOf s c k)) (causeRec s c k (plainTrap .brkpt 0))

/-- CLAMP (R257). -/
def execClamp (g : Guard) (s : State) : Out := .next (guarded g s fun t => ctxOnly t clampOp)

/-- TRCON with its operand read (R423). -/
def trconOp (v : Word) (c k : Nat) (s : State) : State :=
  if above v 16 || field v 13 3 != 0 then trapCur s .illop
  else retire (modCtx s c k fun x => { x with trace := v.setWidth 16 &&& 0x0FFF }) 1

/-- TRCON (R257, R423). -/
def execTrcon (g : Guard) (a : Reg) (s : State) : Out := .next (guarded g s fun t => ctxOnly t (trconOp (srcS t a)))
/-- TRCOFF (R257). -/
def execTrcoff (g : Guard) (s : State) : Out :=
  .next (guarded g s fun t => ctxOnly t fun c k u => retire (modCtx u c k fun x => { x with trace := 0 }) 1)
/-- TRMARK (R257, R423, R424): a MARK record whatever classes are enabled. -/
def execTrmark (g : Guard) (a : Reg) (s : State) : Out :=
  .next (guarded g s fun t => ctxOnly t fun c k u => retire (traceRaw u c k 11 0 0 (srcS t a)) 1)

end Sys2Proof.Machine
end

