-- ==== Sys2Proof/Machine/TimeHealth.lean ====
section
/-! DEFINITION. Time (R439, R440), boot, identity and attestation (R441–R443), health, power and temperature (R444, R446). -/
namespace Sys2Proof.Machine

/-! ### Time -/

/-- The signed difference of two times, held to 32 bits. -/
def timeOffset (a b : Word) : Int := max (-2147483648) (min 2147483647 (a - b).toInt)

/-- PTP_MESSAGE (R439): a Sync gives the grandmaster's time `t` at this moment; `v` is false of a message that gives none.
The clock follows it; LOCK is set once 16 Sync intervals in a row had offsets within 10 ns, and cleared by one that had
not. -/
def execPtpMessage (t : Word) (v : Bool) (s : State) : Out :=
  .next (
    if !v then s
    else
      let d := timeOffset s.time.ptime t
      let n := if -10 ≤ d ∧ d ≤ 10 then min 16 (s.time.good + 1) else 0
      let u := { s with time := { s.time with ptime := t, frac := 0, offset := BitVec.ofInt 32 d, good := n, lock := decide (16 ≤ n) } }
      if s.time.lock && n == 0 then emit u (.service "HOLDOVER" 0 0) else u)

/-- HOLDOVER (R439): lock is lost; time is kept. -/
def execHoldover (s : State) : Out :=
  .next (if s.time.lock then emit { s with time := { s.time with lock := false, good := 0 } } (.service "HOLDOVER" 0 0) else s)

/-- TICK_BOUNDARY (R440): the boundary that ends a tick has passed; a level that waits for it is in force (R392), and the
exchange traffic that waits for it leaves (R390, R331). -/
def execTickBoundary (s : State) : Out :=
  .next (
    if s.time.ticked < tickNow s then
      leaveAtTick { s with
        time := { s.time with ticked := tickNow s }
        jobs := s.jobs.map fun p => (p.1, match p.2.levelNext with | some l => { p.2 with level := l, levelNext := none } | none => p.2) }
    else s)

/-! ### Boot (R441, R442) -/

/-- The bytes of a field of a boot image. -/
def imgBytes (x : List Byte) (o n : Nat) : List Byte := (x.drop o).take n
/-- A little-endian field of it. -/
def imgField (x : List Byte) (o n : Nat) : Nat := leNat (imgBytes x o n)

/-- MAGIC: the bytes GLNSZ960. -/
def imgMagic : List Byte := [0x47, 0x4C, 0x4E, 0x53, 0x5A, 0x39, 0x36, 0x30]

/-- Whether the header fields are as R442 gives them. -/
def headerOk (x : List Byte) : Bool :=
  let body := imgField x 0x10 8
  let entry := imgField x 0x18 8
  4096 ≤ x.length && imgBytes x 0 8 == imgMagic && imgField x 8 4 == 1 && imgField x 0x0C 2 ≤ 64 && imgField x 0x0E 2 ≤ 1 &&
    body % 4096 == 0 && body ≤ 0x10000000 && x.length == 4096 + body && entry % 4 == 0 && entry < body &&
    nth x 0x20 0 == 4 && imgField x 0x81 7 == 0 && (imgBytes x 0xB8C 0x474).all (· == 0)

/-- M: the signed part. -/
def imgSigned (x : List Byte) : List Byte := imgBytes x 0 0xC0 ++ x.drop 4096

/-- The reason an image is refused for, 0 for none (R441, R442). -/
def imgReason (c : Nat) (x : List Byte) : Nat :=
  let m := imgSigned x
  if !headerOk x then 2
  else if Config.sha384 (imgBytes x 0x20 97) ≠ Config.ecdsaKeyHash ∨ Config.sha384 (imgBytes x 0x88 56) ≠ Config.lmsKeyHash then 3
  else if Config.ecdsaVerify (imgBytes x 0x20 97) (imgBytes x 0xC0 96) (Config.sha384 m) = false then 4
  else if Config.lmsVerify (imgBytes x 0x88 56) (imgBytes x 0x120 2668) m = false then 5
  else if imgField x 0x0C 2 < c then 6
  else 0

/-- Cycles of 8 s (R1). -/
def retryCycles : Nat := 10000000000

/-- A failure is recorded, and the ROM waits. -/
def bootFails (s : State) (code : Nat) : State :=
  { s with boot := { s.boot with bootstat := BitVec.ofNat 64 code, phase := 1, retryAt := s.cycle + retryCycles } }

/-- Every service core starts at an address. -/
def startServices (s : State) (pc : Nat) : State :=
  { s with svcs := (List.range Config.serviceCores).foldl (fun m n =>
      put m n { Svc.reset with running := true, seq := { Seq.reset with pc := BitVec.ofNat 64 pc } }) s.svcs }

/-- BOOT_IMAGE_FETCHED (R441, R442): the image stands at PA 0; when it is accepted, ADVANCE blows fuses, the measurements
are taken and the service cores start. -/
def execBootImageFetched (x : List Byte) (s : State) : Out :=
  .next (
    if s.boot.phase ≠ 0 then s
    else
      let t := hbmWrite s 0 x false
      match imgReason s.boot.rollback x with
      | 0 =>
        let svn := imgField x 0x0C 2
        startServices { t with boot := { t.boot with
          phase := 2, svn := svn
          rollback := if imgField x 0x0E 2 = 1 then max svn t.boot.rollback else t.boot.rollback
          measure := put t.boot.measure 1 (Config.sha384 (imgSigned x)) } } (0x1000 + imgField x 0x18 8)
      | code => bootFails t code)

/-- BOOT_NETWORK_FAILURE (R441). -/
def execBootNetworkFailure (s : State) : Out := .next (if s.boot.phase = 0 then bootFails s 1 else s)
/-- BOOT_RETRY (R441): after 8 s. -/
def execBootRetry (s : State) : Out :=
  .next (if s.boot.phase = 1 ∧ s.boot.retryAt ≤ s.cycle then { s with boot := { s.boot with phase := 0 } } else s)

/-! ### Measurements and reports (R443) -/

/-- A measurement register: 0 holds the ROM; the others start at zero. -/
def measureOf (b : Boot) (i : Nat) : List Byte :=
  match look b.measure i with | some m => m | none => if i = 0 then Config.sha384 Config.romImage else natLE 48 0

/-- MEASUREMENT_EXTEND (R443): registers 2 to 15, by service-core software. -/
def execMeasurementExtend (r : Src) (i : Nat) (x : List Byte) (s : State) : Out :=
  .next (match r with
    | .svc _ => if 2 ≤ i ∧ i < 16 then
        { s with boot := { s.boot with measure := put s.boot.measure i (Config.sha384 (measureOf s.boot i ++ x)) } } else s
    | .host _ => s)

/-- The content of a report: nonce, EXID, SVN, C, the measurements, and LMSEXH. -/
def reportBody (s : State) (nonce : List Byte) (spent : Bool) : List Byte :=
  nonce ++ natLE 2 s.exid.toNat ++ natLE 2 s.boot.svn ++ natLE 2 s.boot.rollback ++
    ((List.range 16).flatMap fun i => measureOf s.boot i) ++ natLE 2 (if spent then 1 else 0)

/-- ATTESTATION_REPORT (R443): signed with ECDSA and, for 32,768 reports, with LMS. -/
def execAttestationReport (x : List Byte) (s : State) : Out :=
  .next (
    if x.length ≠ 48 then s
    else
      let spent := decide (32768 ≤ s.boot.leaf)
      let m := reportBody s x spent
      let sig := Config.ecdsaSign Config.deviceSecret m ++ (if spent then [] else Config.lmsSign Config.deviceSecret s.boot.leaf m)
      emit { s with boot := { s.boot with leaf := if spent then s.boot.leaf else s.boot.leaf + 1 } } (.report (m ++ sig)))

/-! ### Health, power, temperature (R444, R446) -/

/-- The health word: MARGIN, DRIFT and the months left, held to 16 bits. -/
def healthWord (margin drift : Nat) : Word :=
  place margin 48 ||| place drift 32 ||| place (if drift = 0 then 0xFFFF else min 0xFFFF (margin * 100 / drift)) 16

/-- HEALTH_MONITOR_UPDATE (R444): the monitors of core c, or of stack c − 224, give MARGIN in x[15:0] and DRIFT in
x[31:16]. -/
def execHealthMonitorUpdate (c x : Nat) (s : State) : Out :=
  .next (
    let w := healthWord (x % 65536) (x / 65536 % 65536)
    if c < Config.cores then modCore s c fun y => { y with health := w }
    else if c < Config.cores + 8 then modStack s (c - Config.cores) fun k => { k with health := w }
    else s)

/-- TEMP_NOTIFY (R446). -/
def execTempNotify (s : State) : Out := .next (emit s (.service "TEMP" 105 0))
/-- TEMP_TRIP (R446): the device resets. -/
def execTempTrip (s : State) : Out := .next (deviceReset s)
/-- POWER_LIMIT_WINDOW (R446): the power averaged over a window, against PWRLIM. Which issue cycles are withheld changes no
result. -/
def execPowerLimitWindow (w : Nat) (s : State) : Out := .next { s with limited := decide (s.pwrlim.toNat < w) }

end Sys2Proof.Machine
end

