-- ==== Sys2Proof/Machine/Dispatch.lean ====
section
/-! DEFINITION. One arm for each instruction of the opcode table: one direct call of its meaning. -/
namespace Sys2Proof.Machine

def exec (i : Instr) (s : State) : Host.Outcome State Fault Refusal :=
  match i with
  | .add g d a b => Sys2Proof.Machine.execAdd g d a b s
  | .sub g d a b => Sys2Proof.Machine.execSub g d a b s
  | .mul g d a b => Sys2Proof.Machine.execMul g d a b s
  | .mulh g d a b => Sys2Proof.Machine.execMulh g d a b s
  | .mulhu g d a b => Sys2Proof.Machine.execMulhu g d a b s
  | .div g d a b => Sys2Proof.Machine.execDiv g d a b s
  | .divu g d a b => Sys2Proof.Machine.execDivu g d a b s
  | .rem g d a b => Sys2Proof.Machine.execRem g d a b s
  | .remu g d a b => Sys2Proof.Machine.execRemu g d a b s
  | .and g d a b => Sys2Proof.Machine.execAnd g d a b s
  | .or g d a b => Sys2Proof.Machine.execOr g d a b s
  | .xor g d a b => Sys2Proof.Machine.execXor g d a b s
  | .andn g d a b => Sys2Proof.Machine.execAndn g d a b s
  | .shl g d a b => Sys2Proof.Machine.execShl g d a b s
  | .shr g d a b => Sys2Proof.Machine.execShr g d a b s
  | .sra g d a b => Sys2Proof.Machine.execSra g d a b s
  | .rol g d a b => Sys2Proof.Machine.execRol g d a b s
  | .min g d a b => Sys2Proof.Machine.execMin g d a b s
  | .max g d a b => Sys2Proof.Machine.execMax g d a b s
  | .minu g d a b => Sys2Proof.Machine.execMinu g d a b s
  | .maxu g d a b => Sys2Proof.Machine.execMaxu g d a b s
  | .clz g d a => Sys2Proof.Machine.execClz g d a s
  | .ctz g d a => Sys2Proof.Machine.execCtz g d a s
  | .popc g d a => Sys2Proof.Machine.execPopc g d a s
  | .brev g d a => Sys2Proof.Machine.execBrev g d a s
  | .sextB g d a => Sys2Proof.Machine.execSextB g d a s
  | .sextH g d a => Sys2Proof.Machine.execSextH g d a s
  | .sextW g d a => Sys2Proof.Machine.execSextW g d a s
  | .zextB g d a => Sys2Proof.Machine.execZextB g d a s
  | .zextH g d a => Sys2Proof.Machine.execZextH g d a s
  | .zextW g d a => Sys2Proof.Machine.execZextW g d a s
  | .lea g d a b w => Sys2Proof.Machine.execLea g d a b w s
  | .addi d a idx => Sys2Proof.Machine.execAddi d a idx s
  | .andi d a idx => Sys2Proof.Machine.execAndi d a idx s
  | .ori d a idx => Sys2Proof.Machine.execOri d a idx s
  | .xori d a idx => Sys2Proof.Machine.execXori d a idx s
  | .shli d a n => Sys2Proof.Machine.execShli d a n s
  | .shri d a n => Sys2Proof.Machine.execShri d a n s
  | .srai d a n => Sys2Proof.Machine.execSrai d a n s
  | .lui d idx => Sys2Proof.Machine.execLui d idx s
  | .movi d idx => Sys2Proof.Machine.execMovi d idx s
  | .moviSx d idx => Sys2Proof.Machine.execMoviSx d idx s
  | .pset g p a b c => Sys2Proof.Machine.execPset g p a b c s
  | .pseti p a c idx => Sys2Proof.Machine.execPseti p a c idx s
  | .pand g d a b => Sys2Proof.Machine.execPand g d a b s
  | .por g d a b => Sys2Proof.Machine.execPor g d a b s
  | .pxor g d a b => Sys2Proof.Machine.execPxor g d a b s
  | .pnot g d a => Sys2Proof.Machine.execPnot g d a s
  | .sel g d a b => Sys2Proof.Machine.execSel g d a b s
  | .br g o => Sys2Proof.Machine.execBr g o s
  | .jmp o => Sys2Proof.Machine.execJmp o s
  | .call o => Sys2Proof.Machine.execCall o s
  | .jr g a => Sys2Proof.Machine.execJr g a s
  | .callr g a => Sys2Proof.Machine.execCallr g a s
  | .ret g => Sys2Proof.Machine.execRet g s
  | .trap g n => Sys2Proof.Machine.execTrap g n s
  | .hret g => Sys2Proof.Machine.execHret g s
  | .dstop g => Sys2Proof.Machine.execDstop g s
  | .nop g => Sys2Proof.Machine.execNop g s
  | .halt g => Sys2Proof.Machine.execHalt g s
  | .loop l n idx => Sys2Proof.Machine.execLoop l n idx s
  | .loopr l n a => Sys2Proof.Machine.execLoopr l n a s
  | .lds d a o w q => Sys2Proof.Machine.execLds d a o w q s
  | .ldsc d a o w => Sys2Proof.Machine.execLdsc d a o w s
  | .ldsSx d a w q o => Sys2Proof.Machine.execLdsSx d a w q o s
  | .sts d a o w q => Sys2Proof.Machine.execSts d a o w q s
  | .stsc d a o w => Sys2Proof.Machine.execStsc d a o w s
  | .stsSx d a w q o => Sys2Proof.Machine.execStsSx d a w q o s
  | .aadd g d a b w q => Sys2Proof.Machine.execAadd g d a b w q s
  | .aand g d a b w q => Sys2Proof.Machine.execAand g d a b w q s
  | .aor g d a b w q => Sys2Proof.Machine.execAor g d a b w q s
  | .axor g d a b w q => Sys2Proof.Machine.execAxor g d a b w q s
  | .amin g d a b w q => Sys2Proof.Machine.execAmin g d a b w q s
  | .amax g d a b w q => Sys2Proof.Machine.execAmax g d a b w q s
  | .aminu g d a b w q => Sys2Proof.Machine.execAminu g d a b w q s
  | .amaxu g d a b w q => Sys2Proof.Machine.execAmaxu g d a b w q s
  | .aswp g d a b w q => Sys2Proof.Machine.execAswp g d a b w q s
  | .acas g d a b w q => Sys2Proof.Machine.execAcas g d a b w q s
  | .afmin g d a b q => Sys2Proof.Machine.execAfmin g d a b q s
  | .afmax g d a b q => Sys2Proof.Machine.execAfmax g d a b q s
  | .axadd g a b f => Sys2Proof.Machine.execAxadd g a b f s
  | .axrd g d a f => Sys2Proof.Machine.execAxrd g d a f s
  | .axclr g a => Sys2Proof.Machine.execAxclr g a s
  | .bld g d h b w => Sys2Proof.Machine.execBld g d h b w s
  | .bst g d h b w => Sys2Proof.Machine.execBst g d h b w s
  | .bldSx d h w o => Sys2Proof.Machine.execBldSx d h w o s
  | .bstSx d h w o => Sys2Proof.Machine.execBstSx d h w o s
  | .halloc g h a w => Sys2Proof.Machine.execHalloc g h a w s
  | .hfree g h => Sys2Proof.Machine.execHfree g h s
  | .hgive g h b => Sys2Proof.Machine.execHgive g h b s
  | .htake g d a h => Sys2Proof.Machine.execHtake g d a h s
  | .hqry g d a => Sys2Proof.Machine.execHqry g d a s
  | .copy g d a => Sys2Proof.Machine.execCopy g d a s
  | .cpwait g a => Sys2Proof.Machine.execCpwait g a s
  | .cpqry g d a => Sys2Proof.Machine.execCpqry g d a s
  | .fence g w => Sys2Proof.Machine.execFence g w s
  | .fenceAcq g w => Sys2Proof.Machine.execFenceAcq g w s
  | .fenceRel g w => Sys2Proof.Machine.execFenceRel g w s
  | .bara g d a w => Sys2Proof.Machine.execBara g d a w s
  | .barw g a b w => Sys2Proof.Machine.execBarw g a b w s
  | .bar g a w => Sys2Proof.Machine.execBar g a w s
  | .nmcmd g a => Sys2Proof.Machine.execNmcmd g a s
  | .nmfence g => Sys2Proof.Machine.execNmfence g s
  | .nmstat g d a => Sys2Proof.Machine.execNmstat g d a s
  | .xsend g a => Sys2Proof.Machine.execXsend g a s
  | .xrecv g d a b => Sys2Proof.Machine.execXrecv g d a b s
  | .xred g a => Sys2Proof.Machine.execXred g a s
  | .xrslt g d a => Sys2Proof.Machine.execXrslt g d a s
  | .blkrun a b c h => Sys2Proof.Machine.execBlkrun a b c h s
  | .blkpin a b c => Sys2Proof.Machine.execBlkpin a b c s
  | .blkunpin b => Sys2Proof.Machine.execBlkunpin b s
  | .jigmap a b => Sys2Proof.Machine.execJigmap a b s
  | .cfgswap a => Sys2Proof.Machine.execCfgswap a s
  | .inj a b c l => Sys2Proof.Machine.execInj a b c l s
  | .snkrd a b c l => Sys2Proof.Machine.execSnkrd a b c l s
  | .argw a b => Sys2Proof.Machine.execArgw a b s
  | .round => Sys2Proof.Machine.execRound s
  | .gate a b => Sys2Proof.Machine.execGate a b s
  | .gateWait a b => Sys2Proof.Machine.execGateWait a b s
  | .gateOpen a b => Sys2Proof.Machine.execGateOpen a b s
  | .strm a p => Sys2Proof.Machine.execStrm a p s
  | .sbar a => Sys2Proof.Machine.execSbar a s
  | .spos c p => Sys2Proof.Machine.execSpos c p s
  | .tdef a b => Sys2Proof.Machine.execTdef a b s
  | .tqry a c => Sys2Proof.Machine.execTqry a c s
  | .ttagFull a => Sys2Proof.Machine.execTtagFull a s
  | .ttagEmpty a => Sys2Proof.Machine.execTtagEmpty a s
  | .ttagWaitfull a => Sys2Proof.Machine.execTtagWaitfull a s
  | .ttagWaitempty a => Sys2Proof.Machine.execTtagWaitempty a s
  | .gath a b m => Sys2Proof.Machine.execGath a b m s
  | .mmbind a b c => Sys2Proof.Machine.execMmbind a b c s
  | .mmunb a => Sys2Proof.Machine.execMmunb a s
  | .mmepi a b c x m => Sys2Proof.Machine.execMmepi a b c x m s
  | .mmsmxStart a b c => Sys2Proof.Machine.execMmsmxStart a b c s
  | .mmsmxFin a b c => Sys2Proof.Machine.execMmsmxFin a b c s
  | .mmstat a c w => Sys2Proof.Machine.execMmstat a c w s
  | .qtld a b => Sys2Proof.Machine.execQtld a b s
  | .qwld a b => Sys2Proof.Machine.execQwld a b s
  | .qctxClaim => Sys2Proof.Machine.execQctxClaim s
  | .qctxRelease => Sys2Proof.Machine.execQctxRelease s
  | .qctxClear => Sys2Proof.Machine.execQctxClear s
  | .qrun a => Sys2Proof.Machine.execQrun a s
  | .xpose a b c => Sys2Proof.Machine.execXpose a b c s
  | .xposb a b => Sys2Proof.Machine.execXposb a b s
  | .qpopc a b c k d => Sys2Proof.Machine.execQpopc a b c k d s
  | .qbrk a c => Sys2Proof.Machine.execQbrk a c s
  | .qstatMq c w => Sys2Proof.Machine.execQstatMq c w s
  | .qpush g d a b => Sys2Proof.Machine.execQpush g d a b s
  | .qpushw g a b => Sys2Proof.Machine.execQpushw g a b s
  | .qpop g d a b => Sys2Proof.Machine.execQpop g d a b s
  | .qstat g d a => Sys2Proof.Machine.execQstat g d a s
  | .doze g d a => Sys2Proof.Machine.execDoze g d a s
  | .poke g a => Sys2Proof.Machine.execPoke g a s
  | .mfsr d r => Sys2Proof.Machine.execMfsr d r s
  | .mtsr a r => Sys2Proof.Machine.execMtsr a r s
  | .tlbinv g w a b => Sys2Proof.Machine.execTlbinv g w a b s
  | .tlbinvAsid g w b => Sys2Proof.Machine.execTlbinvAsid g w b s
  | .tlbinvAll g w => Sys2Proof.Machine.execTlbinvAll g w s
  | .icinv g a => Sys2Proof.Machine.execIcinv g a s
  | .icinvAll g => Sys2Proof.Machine.execIcinvAll g s
  | .clamp g => Sys2Proof.Machine.execClamp g s
  | .ctxsave g d a b => Sys2Proof.Machine.execCtxsave g d a b s
  | .ctxrest g d a b => Sys2Proof.Machine.execCtxrest g d a b s
  | .trcon g a => Sys2Proof.Machine.execTrcon g a s
  | .trcoff g => Sys2Proof.Machine.execTrcoff g s
  | .trmark g a => Sys2Proof.Machine.execTrmark g a s
  | .ldecl a l => Sys2Proof.Machine.execLdecl a l s
  | .ply a l n y => Sys2Proof.Machine.execPly a l n y s
  | .rdl d l n m => Sys2Proof.Machine.execRdl d l n m s
  | .settle l => Sys2Proof.Machine.execSettle l s
  | .fadd h y r => Sys2Proof.Machine.execFadd h y r s
  | .fsub h y r => Sys2Proof.Machine.execFsub h y r s
  | .fmul h y r => Sys2Proof.Machine.execFmul h y r s
  | .ffma h y r => Sys2Proof.Machine.execFfma h y r s
  | .ffms h y r => Sys2Proof.Machine.execFfms h y r s
  | .fmin h y => Sys2Proof.Machine.execFmin h y s
  | .fmax h y => Sys2Proof.Machine.execFmax h y s
  | .fabs h y => Sys2Proof.Machine.execFabs h y s
  | .fneg h y => Sys2Proof.Machine.execFneg h y s
  | .frcp h => Sys2Proof.Machine.execFrcp h s
  | .fsqrt h => Sys2Proof.Machine.execFsqrt h s
  | .frsq h => Sys2Proof.Machine.execFrsq h s
  | .fexp2 h => Sys2Proof.Machine.execFexp2 h s
  | .flog2 h => Sys2Proof.Machine.execFlog2 h s
  | .ftanh h => Sys2Proof.Machine.execFtanh h s
  | .fcmp h y c => Sys2Proof.Machine.execFcmp h y c s
  | .cvt h y r w u v => Sys2Proof.Machine.execCvt h y r w u v s
  | .iadd h y u w => Sys2Proof.Machine.execIadd h y u w s
  | .isub h y u w => Sys2Proof.Machine.execIsub h y u w s
  | .imul h y => Sys2Proof.Machine.execImul h y s
  | .imulh h y u => Sys2Proof.Machine.execImulh h y u s
  | .imad h y u w => Sys2Proof.Machine.execImad h y u w s
  | .iand h y => Sys2Proof.Machine.execIand h y s
  | .ior h y => Sys2Proof.Machine.execIor h y s
  | .ixor h y => Sys2Proof.Machine.execIxor h y s
  | .ishl h y => Sys2Proof.Machine.execIshl h y s
  | .ishr h y => Sys2Proof.Machine.execIshr h y s
  | .isra h y => Sys2Proof.Machine.execIsra h y s
  | .imin h y u => Sys2Proof.Machine.execImin h y u s
  | .imax h y u => Sys2Proof.Machine.execImax h y u s
  | .icmp h y c => Sys2Proof.Machine.execIcmp h y c s
  | .selE h => Sys2Proof.Machine.execSelE h s
  | .mov h => Sys2Proof.Machine.execMov h s
  | .lbc h x => Sys2Proof.Machine.execLbc h x s
  | .lshf h z x => Sys2Proof.Machine.execLshf h z x s
  | .lred h y z => Sys2Proof.Machine.execLred h y z s
  | .pack h c => Sys2Proof.Machine.execPack h c s
  | .unpack h => Sys2Proof.Machine.execUnpack h s
  | .ctxa h => Sys2Proof.Machine.execCtxa h s
  | .ctxf h => Sys2Proof.Machine.execCtxf h s
  | .null h => Sys2Proof.Machine.execNull h s
  | .exit h => Sys2Proof.Machine.execExit h s
  | .steer h => Sys2Proof.Machine.execSteer h s
  | .merge h => Sys2Proof.Machine.execMerge h s
  | .sink h => Sys2Proof.Machine.execSink h s
  | .ldeclE h l => Sys2Proof.Machine.execLdeclE h l s
  | .plyE h y l => Sys2Proof.Machine.execPlyE h y l s
  | .rdlE h z l => Sys2Proof.Machine.execRdlE h z l s
  | .settleE h l => Sys2Proof.Machine.execSettleE h l s
  | .cnt h c v => Sys2Proof.Machine.execCnt h c v s
  | .acc h y z => Sys2Proof.Machine.execAcc h y z s
  | .lde h y idx q => Sys2Proof.Machine.execLde h y idx q s
  | .ldscE h y idx => Sys2Proof.Machine.execLdscE h y idx s
  | .ste h y idx q => Sys2Proof.Machine.execSte h y idx q s
  | .stscE h y idx => Sys2Proof.Machine.execStscE h y idx s
  | .bldE h y idx q => Sys2Proof.Machine.execBldE h y idx q s
  | .bstE h y idx q => Sys2Proof.Machine.execBstE h y idx q s
  | .aaddE h idx q => Sys2Proof.Machine.execAaddE h idx q s
  | .aandE h idx q => Sys2Proof.Machine.execAandE h idx q s
  | .aorE h idx q => Sys2Proof.Machine.execAorE h idx q s
  | .axorE h idx q => Sys2Proof.Machine.execAxorE h idx q s
  | .aminE h idx q => Sys2Proof.Machine.execAminE h idx q s
  | .amaxE h idx q => Sys2Proof.Machine.execAmaxE h idx q s
  | .aminuE h idx q => Sys2Proof.Machine.execAminuE h idx q s
  | .amaxuE h idx q => Sys2Proof.Machine.execAmaxuE h idx q s
  | .aswpE h idx q => Sys2Proof.Machine.execAswpE h idx q s
  | .acasE h idx q => Sys2Proof.Machine.execAcasE h idx q s
  | .afminE h idx q => Sys2Proof.Machine.execAfminE h idx q s
  | .afmaxE h idx q => Sys2Proof.Machine.execAfmaxE h idx q s
  | .axaddE h f idx q => Sys2Proof.Machine.execAxaddE h f idx q s
  | .axrdE h f idx q => Sys2Proof.Machine.execAxrdE h f idx q s
  | .axclrE h idx q => Sys2Proof.Machine.execAxclrE h idx q s
  | .copyE h => Sys2Proof.Machine.execCopyE h s
  | .hostPostedWrite f b o x ro => Sys2Proof.Machine.execHostPostedWrite f b o x ro s
  | .hostRead f b o n => Sys2Proof.Machine.execHostRead f b o n s
  | .hostCompletion idx x => Sys2Proof.Machine.execHostCompletion idx x s
  | .completionTimeout idx => Sys2Proof.Machine.execCompletionTimeout idx s
  | .qdbRing r q v => Sys2Proof.Machine.execQdbRing r q v s
  | .registerWrite r pa n v => Sys2Proof.Machine.execRegisterWrite r pa n v s
  | .violationEntryFree r d e => Sys2Proof.Machine.execViolationEntryFree r d e s
  | .fqctlWrite r c k v => Sys2Proof.Machine.execFqctlWrite r c k v s
  | .fqptrWrite r c k v => Sys2Proof.Machine.execFqptrWrite r c k v s
  | .ovfbaseWrite r c k v => Sys2Proof.Machine.execOvfbaseWrite r c k v s
  | .bwctlWrite r c v => Sys2Proof.Machine.execBwctlWrite r c v s
  | .bwshareWrite r c t v => Sys2Proof.Machine.execBwshareWrite r c t v s
  | .trapreqDone r c k => Sys2Proof.Machine.execTrapreqDone r c k s
  | .firstxRearm r c k => Sys2Proof.Machine.execFirstxRearm r c k s
  | .ueaddrClear r w => Sys2Proof.Machine.execUeaddrClear r w s
  | .configSpaceWrite r pa n v => Sys2Proof.Machine.execConfigSpaceWrite r pa n v s
  | .jobctlKill r j => Sys2Proof.Machine.execJobctlKill r j s
  | .clampcmdClamp r j v => Sys2Proof.Machine.execClampcmdClamp r j v s
  | .clampcmdFire r j v => Sys2Proof.Machine.execClampcmdFire r j v s
  | .clampcmdBlock r j v => Sys2Proof.Machine.execClampcmdBlock r j v s
  | .clampcmdTick r j v => Sys2Proof.Machine.execClampcmdTick r j v s
  | .clampcmdUnclamp r j v => Sys2Proof.Machine.execClampcmdUnclamp r j v s
  | .clampcmdReverse r j v => Sys2Proof.Machine.execClampcmdReverse r j v s
  | .dbgdataWrite r c k v => Sys2Proof.Machine.execDbgdataWrite r c k v s
  | .dbgdataRead r c k => Sys2Proof.Machine.execDbgdataRead r c k s
  | .queueReset r q => Sys2Proof.Machine.execQueueReset r q s
  | .coreReset r c => Sys2Proof.Machine.execCoreReset r c s
  | .dieReset r d => Sys2Proof.Machine.execDieReset r d s
  | .deviceReset => Sys2Proof.Machine.execDeviceReset s
  | .bootImageFetched x => Sys2Proof.Machine.execBootImageFetched x s
  | .bootRetry => Sys2Proof.Machine.execBootRetry s
  | .walkComplete idx => Sys2Proof.Machine.execWalkComplete idx s
  | .faultedUnitRestart c k idx => Sys2Proof.Machine.execFaultedUnitRestart c k idx s
  | .sliceAccess idx => Sys2Proof.Machine.execSliceAccess idx s
  | .lineFill w n x => Sys2Proof.Machine.execLineFill w n x s
  | .patrolScrub w x => Sys2Proof.Machine.execPatrolScrub w x s
  | .scTokenVisit w => Sys2Proof.Machine.execScTokenVisit w s
  | .remoteBufferRequest idx => Sys2Proof.Machine.execRemoteBufferRequest idx s
  | .packetHop idx => Sys2Proof.Machine.execPacketHop idx s
  | .packetAccept idx => Sys2Proof.Machine.execPacketAccept idx s
  | .reservationHeader idx => Sys2Proof.Machine.execReservationHeader idx s
  | .escapeOccupancyTimeout idx => Sys2Proof.Machine.execEscapeOccupancyTimeout idx s
  | .flowIdleTimeout idx => Sys2Proof.Machine.execFlowIdleTimeout idx s
  | .bwWindowRefill c => Sys2Proof.Machine.execBwWindowRefill c s
  | .handleDrainComplete c p idx => Sys2Proof.Machine.execHandleDrainComplete c p idx s
  | .handleMoveComplete c p idx => Sys2Proof.Machine.execHandleMoveComplete c p idx s
  | .granuleClearComplete c p => Sys2Proof.Machine.execGranuleClearComplete c p s
  | .copyCommandToken c k => Sys2Proof.Machine.execCopyCommandToken c k s
  | .copyChunk c idx => Sys2Proof.Machine.execCopyChunk c idx s
  | .copyRetire c idx => Sys2Proof.Machine.execCopyRetire c idx s
  | .tokenArrive c e idx => Sys2Proof.Machine.execTokenArrive c e idx s
  | .overflowReinject c k e => Sys2Proof.Machine.execOverflowReinject c k e s
  | .elementIssue c e => Sys2Proof.Machine.execElementIssue c e s
  | .firingResult c idx => Sys2Proof.Machine.execFiringResult c idx s
  | .loadResponse c idx => Sys2Proof.Machine.execLoadResponse c idx s
  | .tokenHop c idx => Sys2Proof.Machine.execTokenHop c idx s
  | .instanceCreate c k => Sys2Proof.Machine.execInstanceCreate c k s
  | .instanceCommit c => Sys2Proof.Machine.execInstanceCommit c s
  | .plyPushArrive c k l => Sys2Proof.Machine.execPlyPushArrive c k l s
  | .laminatedGather c k l => Sys2Proof.Machine.execLaminatedGather c k l s
  | .configRecordFetch c k e => Sys2Proof.Machine.execConfigRecordFetch c k e s
  | .jigPlacement c k => Sys2Proof.Machine.execJigPlacement c k s
  | .frontEndFetch c k => Sys2Proof.Machine.execFrontEndFetch c k s
  | .counterEmit c k e m => Sys2Proof.Machine.execCounterEmit c k e m s
  | .roundBoundary c k => Sys2Proof.Machine.execRoundBoundary c k s
  | .accFlush c k e => Sys2Proof.Machine.execAccFlush c k e s
  | .colourFree c k n => Sys2Proof.Machine.execColourFree c k n s
  | .streamRun c p => Sys2Proof.Machine.execStreamRun c p s
  | .streamComplete c p => Sys2Proof.Machine.execStreamComplete c p s
  | .nmCommandArrive w => Sys2Proof.Machine.execNmCommandArrive w s
  | .nmSlotStart w => Sys2Proof.Machine.execNmSlotStart w s
  | .nmRangeLock w n => Sys2Proof.Machine.execNmRangeLock w n s
  | .nmChunk w n => Sys2Proof.Machine.execNmChunk w n s
  | .nmComplete w n => Sys2Proof.Machine.execNmComplete w n s
  | .mmFiringStart c => Sys2Proof.Machine.execMmFiringStart c s
  | .mmGatherComplete c => Sys2Proof.Machine.execMmGatherComplete c s
  | .mmKgroup c => Sys2Proof.Machine.execMmKgroup c s
  | .mmFiringEnd c => Sys2Proof.Machine.execMmFiringEnd c s
  | .mmIndexSetArrive c k => Sys2Proof.Machine.execMmIndexSetArrive c k s
  | .mmDrainRow c => Sys2Proof.Machine.execMmDrainRow c s
  | .mmDrainComplete c => Sys2Proof.Machine.execMmDrainComplete c s
  | .mmSoftmaxRow c => Sys2Proof.Machine.execMmSoftmaxRow c s
  | .mqCommandStart c => Sys2Proof.Machine.execMqCommandStart c s
  | .mqEvaluation c => Sys2Proof.Machine.execMqEvaluation c s
  | .mqCommandComplete c => Sys2Proof.Machine.execMqCommandComplete c s
  | .mqPopcountDeliver c => Sys2Proof.Machine.execMqPopcountDeliver c s
  | .packetAtHead q => Sys2Proof.Machine.execPacketAtHead q s
  | .dispatchDecision => Sys2Proof.Machine.execDispatchDecision s
  | .waitsigPoll q => Sys2Proof.Machine.execWaitsigPoll q s
  | .signalPerform q => Sys2Proof.Machine.execSignalPerform q s
  | .phaseEnd q => Sys2Proof.Machine.execPhaseEnd q s
  | .detlevelApply q => Sys2Proof.Machine.execDetlevelApply q s
  | .memberEnd c k => Sys2Proof.Machine.execMemberEnd c k s
  | .watchdogExpire c k => Sys2Proof.Machine.execWatchdogExpire c k s
  | .qpushwTimeout c k => Sys2Proof.Machine.execQpushwTimeout c k s
  | .dozeTimeout c k => Sys2Proof.Machine.execDozeTimeout c k s
  | .pokeDeliver c k => Sys2Proof.Machine.execPokeDeliver c k s
  | .barrierArrival c k => Sys2Proof.Machine.execBarrierArrival c k s
  | .quiescenceDrainEnd c k => Sys2Proof.Machine.execQuiescenceDrainEnd c k s
  | .quiescenceStopEnd c k => Sys2Proof.Machine.execQuiescenceStopEnd c k s
  | .quiescenceReport c k => Sys2Proof.Machine.execQuiescenceReport c k s
  | .contextSaved c k => Sys2Proof.Machine.execContextSaved c k s
  | .restoreComplete c k => Sys2Proof.Machine.execRestoreComplete c k s
  | .clampRequest idx => Sys2Proof.Machine.execClampRequest idx s
  | .clampLand j => Sys2Proof.Machine.execClampLand j s
  | .clampResume j => Sys2Proof.Machine.execClampResume j s
  | .blockStepTimeout j => Sys2Proof.Machine.execBlockStepTimeout j s
  | .tickStepEnd j => Sys2Proof.Machine.execTickStepEnd j s
  | .exchangeFlitReceive p f => Sys2Proof.Machine.execExchangeFlitReceive p f s
  | .exchangeReplay p n => Sys2Proof.Machine.execExchangeReplay p n s
  | .messageDelivery c k => Sys2Proof.Machine.execMessageDelivery c k s
  | .redContributionArrive x => Sys2Proof.Machine.execRedContributionArrive x s
  | .redSlotTimeout idx => Sys2Proof.Machine.execRedSlotTimeout idx s
  | .redResultArrive c k x => Sys2Proof.Machine.execRedResultArrive c k x s
  | .ptpMessage t v => Sys2Proof.Machine.execPtpMessage t v s
  | .tickBoundary => Sys2Proof.Machine.execTickBoundary s
  | .tempNotify => Sys2Proof.Machine.execTempNotify s
  | .tempTrip => Sys2Proof.Machine.execTempTrip s
  | .powerLimitWindow w => Sys2Proof.Machine.execPowerLimitWindow w s
  | .reservedEncoding => Sys2Proof.Machine.execReservedEncoding s
  | .holdover => Sys2Proof.Machine.execHoldover s
  | .atomicopRequest f b o op n v u => Sys2Proof.Machine.execAtomicopRequest f b o op n v u s
  | .attestationReport x => Sys2Proof.Machine.execAttestationReport x s
  | .measurementExtend r idx x => Sys2Proof.Machine.execMeasurementExtend r idx x s
  | .healthMonitorUpdate c x => Sys2Proof.Machine.execHealthMonitorUpdate c x s
  | .bootNetworkFailure => Sys2Proof.Machine.execBootNetworkFailure s

end Sys2Proof.Machine
end

