-- ==== Sys2Proof/Machine/Placing.lean ====
section
/-! DEFINITION. Placing one instruction word where the next step executes it (log 7): a page of code for the sequencer
profile, an issued slot for the element profile. -/
namespace Sys2Proof.Machine

/-- Where the placed code stands, and the tables that map it: VA and PA of the code, the level-1 and level-2 tables. -/
def placedPc : Nat := 0x4000
def placedRoot : Nat := 0x10000
def placedTable : Nat := 0x11000

/-- The page tables of the placed context: 1 GiB at VA 0 mapped onto PA 0, V, LEAF, W, X, A and D. -/
def placedTables (m : Mem) : Mem :=
  writeBytes (writeBytes m placedRoot (natLE 8 (placedTable + 1))) placedTable (natLE 8 0xC0F)

/-- The word as little-endian bytes; a second word follows where the row has one. -/
def placedBytes (w : Nat) : List Byte := natLE 8 w

/-- A context that runs, with translation on. -/
def placedCtx (x : Ctx) (pc : Word) : Ctx :=
  { x with r := { x.r with state := .running, xlroot := BitVec.ofNat 64 (placedRoot + 1) },
           seq := { x.seq with pc := pc, stopped := false, loops := [], wait := .none }, trap := none, seqStop := none }

/-- The set an element fires: as many operands as the word's NT, of colour 0 and one lane of zero. -/
def placedSet (w : W32) : RSet :=
  { way := 0, slot := 0, colour := 0, iter := 0, inst := 0, charges := [], held := false,
    toks := List.replicate (field w 20 2) { colour := 0, iter := 0, lanes := [0], xb := 0, last := false, src := 0 } }

/-- An element whose way 0 holds the word in slot 0 and whose issue port holds its set. -/
def placedElem (x : Elem) (w : W32) : Elem :=
  { x with ways := put x.ways 0 { lookD x.ways 0 Way.reset with slots := put (lookD x.ways 0 Way.reset).slots 0 w, slotv := 1, v := true },
           issuing := some (placedSet w) }

/-- Whether a word is of the sequencer profile. -/
def isSeqWord (w : Nat) : Bool :=
  match decodeSeq (BitVec.ofNat 32 w) (BitVec.ofNat 32 (w / 2 ^ 32)) with | .ok _ => true | .error _ => false

/-- The state with a word placed (log 7). -/
def placeWord (s : State) (w : Nat) : State :=
  if isSeqWord w then
    let s1 := modCtx s 0 0 fun x => placedCtx x (BitVec.ofNat 64 placedPc)
    { s1 with agenda := [], actor := .seq 0 0,
              hbm := writeBytes (placedTables s1.hbm) placedPc (placedBytes w) }
  else
    let s1 := modCtx s 0 0 fun x => { placedCtx x 0 with colours := put x.colours 0 (1, false) }
    { modElem s1 0 0 fun x => placedElem x (BitVec.ofNat 32 w) with agenda := [], actor := .elem 0 0 }

end Sys2Proof.Machine
end

