-- ==== Sys2Proof/Safety.lean ====
section
/-! DEFINITION. What counts as a safe run, and the terms claims use: what an instruction leaves unchanged. -/
namespace Sys2Proof.Safety
open Sys2Proof.Machine

/-- A step that neither faults nor refuses. -/
def Goes (s : State) : Prop := ∃ t, Machine.step s = .next t

/-- A run of `n` steps that goes on. -/
def Runs (n : Nat) (s : State) : Prop := ∃ t, Sys2Proof.core.run n s = .next t

/-- The instruction is executed, and P holds of the state it leaves. -/
abbrev Completes (i : Instr) (s : State) (P : State → Prop) : Prop := ∃ t, Machine.exec i s = .next t ∧ P t

/-- The guard of an instruction that has one (R217): SEL's fields select, and BR's are its condition. -/
def guardOf : Instr → Option Guard
  | .add g _ _ _ | .sub g _ _ _ | .mul g _ _ _ | .mulh g _ _ _ | .mulhu g _ _ _ | .div g _ _ _ | .divu g _ _ _
  | .rem g _ _ _ | .remu g _ _ _ | .and g _ _ _ | .or g _ _ _ | .xor g _ _ _ | .andn g _ _ _ | .shl g _ _ _
  | .shr g _ _ _ | .sra g _ _ _ | .rol g _ _ _ | .min g _ _ _ | .max g _ _ _ | .minu g _ _ _ | .maxu g _ _ _
  | .clz g _ _ | .ctz g _ _ | .popc g _ _ | .brev g _ _ | .sextB g _ _ | .sextH g _ _ | .sextW g _ _ | .zextB g _ _
  | .zextH g _ _ | .zextW g _ _ | .lea g _ _ _ _ | .pset g _ _ _ _ | .pand g _ _ _ | .por g _ _ _ | .pxor g _ _ _
  | .pnot g _ _ | .jr g _ | .callr g _ | .ret g | .trap g _ | .hret g | .dstop g | .nop g | .halt g
  | .aadd g _ _ _ _ _ | .aand g _ _ _ _ _ | .aor g _ _ _ _ _ | .axor g _ _ _ _ _ | .amin g _ _ _ _ _
  | .amax g _ _ _ _ _ | .aminu g _ _ _ _ _ | .amaxu g _ _ _ _ _ | .aswp g _ _ _ _ _ | .acas g _ _ _ _ _
  | .afmin g _ _ _ _ | .afmax g _ _ _ _ | .axadd g _ _ _ | .axrd g _ _ _ | .axclr g _ | .bld g _ _ _ _
  | .bst g _ _ _ _ | .halloc g _ _ _ | .hfree g _ | .hgive g _ _ | .htake g _ _ _ | .hqry g _ _ | .copy g _ _
  | .cpwait g _ | .cpqry g _ _ | .fence g _ | .fenceAcq g _ | .fenceRel g _ | .bara g _ _ _ | .barw g _ _ _
  | .bar g _ _ | .nmcmd g _ | .nmfence g | .nmstat g _ _ | .xsend g _ | .xrecv g _ _ _ | .xred g _ | .xrslt g _ _
  | .qpush g _ _ _ | .qpushw g _ _ | .qpop g _ _ _ | .qstat g _ _ | .doze g _ _ | .poke g _ | .tlbinv g _ _ _
  | .tlbinvAsid g _ _ | .tlbinvAll g _ | .icinv g _ | .icinvAll g | .clamp g | .ctxsave g _ _ _ | .ctxrest g _ _ _
  | .trcon g _ | .trcoff g | .trmark g _ => some g
  | _ => none

/-- Every memory keeps its canonical form: HBM4, host memory and each core's typed buffers. -/
def Canonical (s : State) : Bool :=
  Memory.wf s.hbm && Memory.wf s.hostMem && s.cores.all fun x => x.2.tbuf.all fun m => Memory.wf m.2

/-- A sequencer executes: a context's, or a service core's (R466). -/
def seqActs (s : State) : Bool := match s.cur with | .seq _ _ => true | .svc _ => true | _ => false

/-- The state without what an instruction of the executing sequencer may change of the sequencer itself: its registers,
and the watchdog's mark of its context (R399). -/
def hideSeq (s : State) : State :=
  match s.cur with
  | .seq c k => modCtx s c k fun x => { x with seq := Seq.reset, progress := 0 }
  | .svc n => modSvc s n fun v => { v with seq := Seq.reset }
  | _ => s

/-- Nothing but the executing sequencer's registers differs: no memory, no other register, no other unit. -/
def OnlySeq (s t : State) : Prop := hideSeq t = hideSeq s

/-- The executing sequencer has retired an instruction of `n` words that wrote no register (R215, R250). -/
def Retires (s t : State) (n : Nat) : Prop := curSeq t = seqRetired (curSeq s) n

/-- The executing sequencer has retired an instruction of `n` words, its scalars set aside. -/
def RetiresButS (s t : State) (n : Nat) : Prop := { curSeq t with s := (curSeq s).s } = seqRetired (curSeq s) n

/-- The same with its predicates set aside. -/
def RetiresButP (s t : State) (n : Nat) : Prop := { curSeq t with p := (curSeq s).p } = seqRetired (curSeq s) n

/-- Of the scalars, only `d` has changed, to `v`; S0 discards the write (R3). -/
def SetsS (s t : State) (d : Reg) (v : Word) : Prop :=
  ∀ r, readS (curSeq t) r = if r = d ∧ d ≠ 0 then v else readS (curSeq s) r

/-- Of the predicates, only `d` has changed; P0 stays true (R3). -/
def SetsP (s t : State) (d : Pred) (v : Bool) : Prop :=
  ∀ p, readP (curSeq t) p = if p = d ∧ d ≠ 0 then v else readP (curSeq s) p

/-- An instruction of `n` words that writes scalar `d`, with its frame. -/
def WritesS (s t : State) (d : Reg) (v : Word) (n : Nat) : Prop :=
  SetsS s t d v ∧ RetiresButS s t n ∧ OnlySeq s t

/-- An instruction of one word that writes predicate `d`, with its frame. -/
def WritesP (s t : State) (d : Pred) (v : Bool) : Prop :=
  SetsP s t d v ∧ RetiresButP s t 1 ∧ OnlySeq s t

end Sys2Proof.Safety
end

