-- ==== Sys2Proof/Certificates/Slice0/Obligations.lean ====
section
/-! DEFINITION. The statements for the provers. Each names the rules of spec/ it formalises; `Completes i s P` says that
`exec i s` answers a next state, of which P holds. -/
open Sys2Proof Sys2Proof.Machine Sys2Proof.Safety

/-! ### Sequencer arithmetic -/
namespace Sys2Proof.Claims

/-- Instructions of two scalar sources with the results R244 gives them, as a relation of x, y and r. -/
def twoSources : List ((Guard → Reg → Reg → Reg → Instr) × (Word → Word → Word → Prop)) :=
  [(.add, fun x y r => r.toNat = (x.toNat + y.toNat) % 2 ^ 64),
   (.sub, fun x y r => r.toInt = (x.toInt - y.toInt).bmod (2 ^ 64)),
   (.mul, fun x y r => r.toNat = x.toNat * y.toNat % 2 ^ 64),
   (.mulh, fun x y r => r.toInt = x.toInt * y.toInt / 2 ^ 64),
   (.mulhu, fun x y r => r.toNat = x.toNat * y.toNat / 2 ^ 64),
   (.div, fun x y r => if y = 0 then r = 0xFFFFFFFFFFFFFFFF
     else if x.toInt = -2 ^ 63 ∧ y.toInt = -1 then r.toInt = -2 ^ 63 else r.toInt = x.toInt.tdiv y.toInt),
   (.divu, fun x y r => if y = 0 then r = 0xFFFFFFFFFFFFFFFF else r.toNat = x.toNat / y.toNat),
   (.rem, fun x y r => if y = 0 then r = x
     else if x.toInt = -2 ^ 63 ∧ y.toInt = -1 then r = 0 else r.toInt = x.toInt - y.toInt * x.toInt.tdiv y.toInt),
   (.remu, fun x y r => if y = 0 then r = x else r.toNat = x.toNat % y.toNat),
   (.and, fun x y r => ∀ i, r.getLsbD i = (x.getLsbD i && y.getLsbD i)),
   (.or, fun x y r => ∀ i, r.getLsbD i = (x.getLsbD i || y.getLsbD i)),
   (.xor, fun x y r => ∀ i, r.getLsbD i = (x.getLsbD i != y.getLsbD i)),
   (.andn, fun x y r => ∀ i, r.getLsbD i = (x.getLsbD i && !y.getLsbD i)),
   (.shl, fun x y r => r.toNat = x.toNat * 2 ^ (y.toNat % 64) % 2 ^ 64),
   (.shr, fun x y r => r.toNat = x.toNat / 2 ^ (y.toNat % 64)),
   (.sra, fun x y r => r.toInt = x.toInt / 2 ^ (y.toNat % 64)),
   (.rol, fun x y r => let n := y.toNat % 64
     if n = 0 then r = x else r = (x <<< n) ||| (x >>> (64 - n))),
   (.min, fun x y r => r.toInt = min x.toInt y.toInt),
   (.max, fun x y r => r.toInt = max x.toInt y.toInt),
   (.minu, fun x y r => r.toNat = min x.toNat y.toNat),
   (.maxu, fun x y r => r.toNat = max x.toNat y.toNat),
   (fun g d a b => .lea g d a b 0, fun x y r => r.toNat = (x.toNat + y.toNat) % 2 ^ 64),
   (fun g d a b => .lea g d a b 1, fun x y r => r.toNat = (x.toNat + y.toNat * 2) % 2 ^ 64),
   (fun g d a b => .lea g d a b 2, fun x y r => r.toNat = (x.toNat + y.toNat * 4) % 2 ^ 64),
   (fun g d a b => .lea g d a b 3, fun x y r => r.toNat = (x.toNat + y.toNat * 8) % 2 ^ 64)]

/-- Instructions of one scalar source (R244). -/
def oneSource : List ((Guard → Reg → Reg → Instr) × (Word → Word → Prop)) :=
  [(.clz, fun x r => r.toNat ≤ 64 ∧ (∀ i, 64 - r.toNat ≤ i → x.getLsbD i = false) ∧
     (r.toNat < 64 → x.getLsbD (63 - r.toNat) = true)),
   (.ctz, fun x r => r.toNat ≤ 64 ∧ (∀ i, i < r.toNat → x.getLsbD i = false) ∧
     (r.toNat < 64 → x.getLsbD r.toNat = true)),
   (.popc, fun x r => r.toNat = ((List.range 64).filter fun i => x.getLsbD i).length),
   (.brev, fun x r => ∀ i, i < 64 → r.getLsbD i = x.getLsbD (63 - i)),
   (.sextB, fun x r => r.toInt = (x.toNat : Int).bmod (2 ^ 8)),
   (.sextH, fun x r => r.toInt = (x.toNat : Int).bmod (2 ^ 16)),
   (.sextW, fun x r => r.toInt = (x.toNat : Int).bmod (2 ^ 32)),
   (.zextB, fun x r => r.toNat = x.toNat % 2 ^ 8),
   (.zextH, fun x r => r.toNat = x.toNat % 2 ^ 16),
   (.zextW, fun x r => r.toNat = x.toNat % 2 ^ 32)]

/-- Instructions with a 16-bit immediate (R245). -/
def halfImmediate : List ((Reg → Reg → Half → Instr) × (Word → Half → Word → Prop)) :=
  [(.addi, fun x i r => r.toInt = (x.toInt + i.toInt).bmod (2 ^ 64)),
   (.andi, fun x i r => ∀ j, r.getLsbD j = (x.getLsbD j && i.getLsbD j)),
   (.ori, fun x i r => ∀ j, r.getLsbD j = (x.getLsbD j || i.getLsbD j)),
   (.xori, fun x i r => ∀ j, r.getLsbD j = (x.getLsbD j != i.getLsbD j))]

/-- Shifts by an immediate (R245). -/
def shiftImmediate : List ((Reg → Reg → BitVec 6 → Instr) × (Word → Nat → Word → Prop)) :=
  [(.shli, fun x n r => r.toNat = x.toNat * 2 ^ n % 2 ^ 64),
   (.shri, fun x n r => r.toNat = x.toNat / 2 ^ n),
   (.srai, fun x n r => r.toInt = x.toInt / 2 ^ n)]

end Sys2Proof.Claims
open Sys2Proof.Claims

/-- R244: each instruction of two scalar sources, its guard passed, writes its result to S[d] (discarded when d is 0),
retires one word, and changes nothing else. -/
def Sys2Proof.Claims.TwoSourceArithmetic : Prop :=
  ∀ p ∈ twoSources, ∀ (g : Guard) (d a b : Reg) (s : State), seqActs s = true → guardHolds (curSeq s) g = true →
    Completes (p.1 g d a b) s fun t =>
      ∃ r, p.2 (readS (curSeq s) a) (readS (curSeq s) b) r ∧ WritesS s t d r 1

/-- R244: the same for the instructions of one scalar source. -/
def Sys2Proof.Claims.OneSourceArithmetic : Prop :=
  ∀ p ∈ oneSource, ∀ (g : Guard) (d a : Reg) (s : State), seqActs s = true → guardHolds (curSeq s) g = true →
    Completes (p.1 g d a) s fun t => ∃ r, p.2 (readS (curSeq s) a) r ∧ WritesS s t d r 1

/-- R245: the immediate instructions. MOVI of the SX form has two words. -/
def Sys2Proof.Claims.ImmediateArithmetic : Prop :=
  ∀ (d a : Reg) (s : State), seqActs s = true →
    (∀ p ∈ halfImmediate, ∀ i : Half, Completes (p.1 d a i) s fun t =>
      ∃ r, p.2 (readS (curSeq s) a) i r ∧ WritesS s t d r 1) ∧
    (∀ p ∈ shiftImmediate, ∀ n : BitVec 6, Completes (p.1 d a n) s fun t =>
      ∃ r, p.2 (readS (curSeq s) a) n.toNat r ∧ WritesS s t d r 1) ∧
    (∀ i : Half, Completes (.lui d i) s fun t => ∃ r : Word, r.toInt = i.toInt * 2 ^ 16 ∧ WritesS s t d r 1) ∧
    (∀ i : Half, Completes (.movi d i) s fun t => ∃ r : Word, r.toInt = i.toInt ∧ WritesS s t d r 1) ∧
    (∀ i : W32, Completes (.moviSx d i) s fun t => ∃ r : Word, r.toInt = i.toInt ∧ WritesS s t d r 2)

/-- Sequencer arithmetic (R244, R245): two sources, one source, and immediates. -/
def Obligations.IntegerArithmetic : Prop :=
  Claims.TwoSourceArithmetic ∧ Claims.OneSourceArithmetic ∧ Claims.ImmediateArithmetic

namespace Sys2Proof.Claims
/-- The conditions of R246. -/
def cond (c : Cond) (x y : Word) : Prop :=
  match c with
  | .eq => x = y | .ne => x ≠ y
  | .lt => x.toInt < y.toInt | .ge => x.toInt ≥ y.toInt | .le => x.toInt ≤ y.toInt | .gt => x.toInt > y.toInt
  | .ltu => x.toNat < y.toNat | .geu => x.toNat ≥ y.toNat | .leu => x.toNat ≤ y.toNat | .gtu => x.toNat > y.toNat
end Sys2Proof.Claims

/-- R246, R247: the predicate instructions write one predicate; SEL copies one of two scalars, its guard fields
selecting, and never fails a guard. -/
def Obligations.PredicatesAndSelect : Prop :=
  ∀ (g : Guard) (s : State), seqActs s = true →
    (guardHolds (curSeq s) g = true →
      (∀ (p : Pred) (a b : Reg) (c : Cond), Completes (.pset g p a b c) s fun t =>
        ∃ v : Bool, (v = true ↔ cond c (readS (curSeq s) a) (readS (curSeq s) b)) ∧ WritesP s t p v) ∧
      (∀ d a b : Pred, Completes (.pand g d a b) s fun t =>
        WritesP s t d (readP (curSeq s) a && readP (curSeq s) b)) ∧
      (∀ d a b : Pred, Completes (.por g d a b) s fun t =>
        WritesP s t d (readP (curSeq s) a || readP (curSeq s) b)) ∧
      (∀ d a b : Pred, Completes (.pxor g d a b) s fun t =>
        WritesP s t d (readP (curSeq s) a != readP (curSeq s) b)) ∧
      (∀ d a : Pred, Completes (.pnot g d a) s fun t => WritesP s t d (!readP (curSeq s) a))) ∧
    (∀ (p : Pred) (a : Reg) (c : Cond) (i : BitVec 12), Completes (.pseti p a c i) s fun t =>
      ∃ (v : Bool) (y : Word), y.toInt = i.toInt ∧ (v = true ↔ cond c (readS (curSeq s) a) y) ∧ WritesP s t p v) ∧
    (∀ d a b : Reg, Completes (.sel g d a b) s fun t =>
      WritesS s t d (if guardHolds (curSeq s) g then readS (curSeq s) a else readS (curSeq s) b) 1)


/-! ### Transfers, traps and loops -/
namespace Sys2Proof.Claims

/-- A taken transfer from a sequencer `q` (R215, R252): the loops whose bodies do not hold the target have ended. -/
def Jumped (s t : State) (q : Seq) (target : Word) : Prop :=
  curSeq t = { q with pc := target, wait := .none
                      loops := q.loops.dropWhile fun f => !(f.first ≤ target && target ≤ f.last) } ∧ OnlySeq s t

/-- The executing sequencer has taken a trap at its instruction, which has not retired. On a service core (R249): HPC is
the instruction, HCAUSE the cause, PC the handler, with a loop stack of its own. In a context (R396, R398): TRAPREC names
cause and unit, the context stands at the trap, its sequencer is as it was, the clamp wave of its job is requested with
this cause; memory and every other context are unchanged. -/
def Trapped (s t : State) (cause : Cause) : Prop :=
  match s.cur with
  | .svc n =>
    let v := svcOf s n
    svcOf t n = { v with
      hpc := v.seq.pc, hcause := BitVec.ofNat 64 cause.code, inHandler := true
      hloops := if v.inHandler then v.hloops else v.seq.loops
      seq := { v.seq with pc := v.hvec, wait := .none, loops := if v.inHandler then v.seq.loops else [] } } ∧
    { t with svcs := s.svcs } = s
  | .seq c k =>
    let x := ctxOf s c k
    (ctxOf t c k).seq = { x.seq with wait := .none } ∧
    (x.trap = none → (ctxOf t c k).trap = some (plainTrap cause 0) ∧
      field (ctxOf t c k).r.traprec 56 8 = cause.code ∧ field (ctxOf t c k).r.traprec 53 3 = 0) ∧
    (∃ r, (jobOf t (asidOf x)).raised = (jobOf s (asidOf x)).raised ++ [r] ∧ r.cause = cause ∧ r.unit = 0 ∧
      r.core = c ∧ r.ctx = k) ∧
    (∀ c' k', (c', k') ≠ (c, k) → ctxOf t c' k' = ctxOf s c' k') ∧
    t.hbm = s.hbm ∧ t.hostMem = s.hostMem ∧ t.svcs = s.svcs ∧ t.queues = s.queues ∧ t.tasks = s.tasks
  | _ => True

/-- The target of a PC-relative transfer (R248). -/
def relative (s : State) (o : BitVec 22) : Word := BitVec.ofInt 64 ((curSeq s).pc.toNat + 4 * o.toInt)
end Sys2Proof.Claims

/-- R217, R224: an instruction that fails its guard retires with no other effect, whatever it is; but a TLBINV whose field
b a job context may not use raises ILLOP there whatever its guard. -/
def Obligations.FailedGuardOnlyRetires : Prop :=
  ∀ (i : Instr) (g : Guard) (s : State), guardOf i = some g → seqActs s = true →
    let reserved := (∃ c k, s.cur = .seq c k) ∧ ∃ z a b, b ≠ 0 ∧ (i = .tlbinv g z a b ∨ i = .tlbinvAsid g z b)
    (guardHolds (curSeq s) g = false → ¬ reserved → Completes i s fun t => Retires s t 1 ∧ OnlySeq s t) ∧
    (reserved → Completes i s fun t => Trapped s t .illop)

/-- R248, R252: BR, JMP, CALL, JR, CALLR and RET to a 4-byte aligned target; CALL and CALLR write PC + 4 to S31 after the
target is read; a BR whose condition does not hold only retires. -/
def Sys2Proof.Claims.TransfersReachTheirTarget : Prop :=
  ∀ s : State, seqActs s = true →
    let q := curSeq s
    let linked := { q with s := put q.s 31 (q.pc + 4) }
    (∀ o, (relative s o).toNat % 4 = 0 →
      (∀ g, guardHolds q g = true → Completes (.br g o) s fun t => Jumped s t q (relative s o)) ∧
      Completes (.jmp o) s (fun t => Jumped s t q (relative s o)) ∧
      Completes (.call o) s (fun t => Jumped s t linked (relative s o))) ∧
    (∀ g o, guardHolds q g = false → Completes (.br g o) s fun t => Retires s t 1 ∧ OnlySeq s t) ∧
    (∀ g, guardHolds q g = true →
      (∀ a, (readS q a).toNat % 4 = 0 →
        Completes (.jr g a) s (fun t => Jumped s t q (readS q a)) ∧
        Completes (.callr g a) s (fun t => Jumped s t linked (readS q a))) ∧
      ((readS q 31).toNat % 4 = 0 → Completes (.ret g) s fun t => Jumped s t q (readS q 31)))

/-- R215, R248: a transfer to a misaligned target traps ALIGN at the transfer, and no link is written. (A relative target
is misaligned when the PC is.) -/
def Sys2Proof.Claims.MisalignedTransferTraps : Prop :=
  ∀ s : State, seqActs s = true →
    let q := curSeq s
    (∀ o, (relative s o).toNat % 4 ≠ 0 →
      (∀ g, guardHolds q g = true → Completes (.br g o) s fun t => Trapped s t .align) ∧
      Completes (.jmp o) s (fun t => Trapped s t .align) ∧ Completes (.call o) s (fun t => Trapped s t .align)) ∧
    (∀ g, guardHolds q g = true →
      (∀ a, (readS q a).toNat % 4 ≠ 0 → Completes (.jr g a) s (fun t => Trapped s t .align) ∧
        Completes (.callr g a) s (fun t => Trapped s t .align)) ∧
      ((readS q 31).toNat % 4 ≠ 0 → Completes (.ret g) s fun t => Trapped s t .align))

/-- Transfers of control (R215, R248, R252): where they go, and the trap of a misaligned target. -/
def Obligations.TransfersOfControl : Prop :=
  Claims.TransfersReachTheirTarget ∧ Claims.MisalignedTransferTraps

/-- R249: NOP does nothing; HALT stops the sequencer after retiring; DSTOP raises BRKPT without retiring; TRAP asks for
service in a context, which waits, and enters the handler of a service core, which names the instruction after it. -/
def Sys2Proof.Claims.NopHaltDstopTrap : Prop :=
  ∀ (g : Guard) (s : State), seqActs s = true → guardHolds (curSeq s) g = true →
    Completes (.nop g) s (fun t => Retires s t 1 ∧ OnlySeq s t) ∧
    Completes (.halt g) s (fun t => curSeq t = { seqRetired (curSeq s) 1 with stopped := true } ∧ OnlySeq s t) ∧
    Completes (.dstop g) s (fun t => Trapped s t .brkpt) ∧
    (∀ (n : BitVec 5) (m : Nat), s.cur = .svc m → Completes (.trap g n) s fun t =>
      (svcOf t m).hpc = (curSeq s).pc + 4 ∧ (svcOf t m).seq.pc = (svcOf s m).hvec ∧
      (svcOf t m).hcause.getLsbD 63 = true ∧ field (svcOf t m).hcause 8 5 = n.toNat ∧ field (svcOf t m).hcause 0 8 = 0 ∧
      (svcOf t m).inHandler = true ∧ (svcOf t m).seq.s = (svcOf s m).seq.s ∧ { t with svcs := s.svcs } = s) ∧
    (∀ (n : BitVec 5) (c k : Nat), s.cur = .seq c k → (curSeq s).wait ≠ .trapped → Completes (.trap g n) s fun t =>
      (ctxOf t c k).r = { (ctxOf s c k).r with trapPend := true, trapCode := n } ∧
      curSeq t = { curSeq s with wait := .trapped } ∧ t.events = s.events ++ [.service "TRAPREQ" (c * 4 + k) n.toNat] ∧
      t.hbm = s.hbm ∧ t.hostMem = s.hostMem)

/-- R249: HRET returns a service core to HPC with the loop stack it interrupted; in a job context it raises PRIV. -/
def Sys2Proof.Claims.HandlerReturn : Prop :=
  ∀ (g : Guard) (s : State), guardHolds (curSeq s) g = true →
    (∀ n, s.cur = .svc n → (svcOf s n).hpc.toNat % 4 = 0 → (svcOf s n).inHandler = true →
      Completes (.hret g) s fun t =>
        svcOf t n = { svcOf s n with
          inHandler := false, hloops := []
          seq := { (svcOf s n).seq with pc := (svcOf s n).hpc, wait := .none, loops := (svcOf s n).hloops } } ∧
        { t with svcs := s.svcs } = s) ∧
    (∀ c k, s.cur = .seq c k → Completes (.hret g) s fun t => Trapped { s with vlogs := t.vlogs } t .priv)

/-- R224: a word with a reserved encoding raises ILLOP at its address without retiring. -/
def Sys2Proof.Claims.ReservedWordRaisesIllop : Prop :=
  ∀ s : State, seqActs s = true → Completes .reservedEncoding s fun t => Trapped s t .illop

/-- NOP, HALT, DSTOP, TRAP, HRET and words of no instruction (R224, R249). -/
def Obligations.NopsHaltsTrapsAndReturns : Prop :=
  Claims.NopHaltDstopTrap ∧ Claims.HandlerReturn ∧ Claims.ReservedWordRaisesIllop

namespace Sys2Proof.Claims
/-- What R251 refuses of a loop with counter `l` and a body whose last word is `len` words after its first. -/
def LoopRefused (s : State) (l : Lc) (len : Nat) : Prop :=
  let q := curSeq s
  3 ≤ q.loops.length ∨ (∃ f ∈ q.loops, f.lc = l.code) ∨
    (∃ f r, q.loops = f :: r ∧ f.last < q.pc + 4 + BitVec.ofNat 64 (4 * len)) ∨ endsInSx s (q.pc + 4) len = true
/-- The executing sequencer is as before but for the PC, the loop counters, the loop stack and its buffer. -/
def SameButLoops (s t : State) : Prop :=
  let q := curSeq s
  { curSeq t with pc := q.pc, loops := q.loops, lc := q.lc, loopBuf := q.loopBuf, wait := q.wait } = q
/-- A loop begun with a count that is not 0 (R250): the counter takes the count, the body is pushed, the PC is its first
word. -/
def LoopBegun (s t : State) (l : Lc) (len : Nat) (count : W32) : Prop :=
  let q := curSeq s
  readLC (curSeq t) l.code.toNat = count ∧ (∀ n, n ≠ l.code.toNat → readLC (curSeq t) n = readLC q n) ∧
  (curSeq t).pc = q.pc + 4 ∧
  (curSeq t).loops = { lc := l.code, first := q.pc + 4, last := q.pc + 4 + BitVec.ofNat 64 (4 * len) } :: q.loops ∧
  SameButLoops s t ∧ OnlySeq s t
/-- A loop of count 0 outside every body (R250): the counter is 0, nothing is pushed, the PC is at end. -/
def LoopSkipped (s t : State) (l : Lc) (len : Nat) : Prop :=
  let q := curSeq s
  readLC (curSeq t) l.code.toNat = 0 ∧ (∀ n, n ≠ l.code.toNat → readLC (curSeq t) n = readLC q n) ∧
  (curSeq t).pc = q.pc + 4 + BitVec.ofNat 64 (4 * len) + 4 ∧ (curSeq t).loops = [] ∧
  SameButLoops s t ∧ OnlySeq s t
end Sys2Proof.Claims

/-- R250, R251: LOOP and LOOPR begin a loop or skip its body, or raise ILLOP where R251 says, and where LOOPR's count is
above 0xFFFF_FFFF. -/
def Sys2Proof.Claims.LoopsBegin : Prop :=
  ∀ (l : Lc) (n : BitVec 8) (s : State), seqActs s = true →
    (¬ LoopRefused s l n.toNat →
      (∀ i : BitVec 10, i ≠ 0 → Completes (.loop l n i) s fun t => LoopBegun s t l n.toNat (i.setWidth 32)) ∧
      ((curSeq s).loops = [] → Completes (.loop l n 0) s fun t => LoopSkipped s t l n.toNat) ∧
      (∀ a, (readS (curSeq s) a).toNat < 2 ^ 32 →
        ((readS (curSeq s) a) ≠ 0 →
          Completes (.loopr l n a) s fun t => LoopBegun s t l n.toNat ((readS (curSeq s) a).setWidth 32)) ∧
        ((readS (curSeq s) a) = 0 → (curSeq s).loops = [] →
          Completes (.loopr l n a) s fun t => LoopSkipped s t l n.toNat))) ∧
    (LoopRefused s l n.toNat →
      (∀ i, Completes (.loop l n i) s fun t => Trapped s t .illop) ∧
      (∀ a, Completes (.loopr l n a) s fun t => Trapped s t .illop)) ∧
    (∀ a, (readS (curSeq s) a).toNat ≥ 2 ^ 32 → Completes (.loopr l n a) s fun t => Trapped s t .illop)

/-- R250: when the last body word of the innermost loop retires, the counter falls by one, not below 0; while it is not 0
the body is entered again, and at 0 the loop ends. -/
def Sys2Proof.Claims.LoopPassEnds : Prop :=
  ∀ (g : Guard) (s : State) (f : Frame), seqActs s = true → guardHolds (curSeq s) g = true →
    (curSeq s).loops = [f] → f.last = (curSeq s).pc →
    let left := (readLC (curSeq s) f.lc.toNat).toNat - 1
    Completes (.nop g) s fun t =>
      (readLC (curSeq t) f.lc.toNat).toNat = left ∧
      (if left = 0 then (curSeq t).loops = [] ∧ (curSeq t).pc = (curSeq s).pc + 4
       else (curSeq t).loops = [f] ∧ (curSeq t).pc = f.first) ∧ OnlySeq s t

/-- Hardware loops (R250, R251): how one begins, and what the end of a pass does. -/
def Obligations.HardwareLoops : Prop :=
  Claims.LoopsBegin ∧ Claims.LoopPassEnds

/-! ### Memory accesses of a sequencer -/
namespace Sys2Proof.Claims

/-- Nothing that an access, an ordering or a fence would have to wait for is under way. -/
def Calm (s : State) : Prop :=
  curWait s = .none ∧ s.deferred = false ∧ s.reqs = [] ∧ s.bufreqs = [] ∧ s.sends = [] ∧
  (∀ p ∈ s.hbmStacks, p.2.transit = [] ∧ p.2.slots = []) ∧
  (match s.cur with | .seq c _ => (coreOf s c).copies = [] ∧ (coreOf s c).bwEn = false | _ => True)

/-- An access of the executing sequencer to `n` aligned bytes at `va` reaches `p` (R11–R19): a context's through its
translation, which leaves the state `t` (R16, R30); a service core's by physical address in HBM4, untranslated (R18). -/
def Reaches (s : State) (va : Word) (n : Nat) (need : Need) (t : State) (p : Phys) : Prop :=
  va.toNat % n = 0 ∧
  match s.cur with
  | .seq c k => translate s c (ctxOf s c k).r.xlroot va need = (t, .ok p)
  | .svc _ => isHbm va.toNat = true ∧ t = s ∧ p = { pa := va.toNat, leaf := 0 }
  | _ => False

/-- A byte of the memory a translation leads to. -/
def byteAt (t : State) (p : Phys) (i : Nat) : Byte :=
  if p.host then readByte t.hostMem (p.pa + i) else readByte t.hbm (p.pa + i)
/-- The little-endian number in `n` bytes there. -/
def numberAt (t : State) (p : Phys) (n : Nat) : Nat :=
  ((List.range n).map fun i => (byteAt t p i).toNat * 256 ^ i).sum

/-- What an access leaves of the rest of the machine: only the executing sequencer, memory, the slices' lines and poison
marks, tasks' signatures and the jobs' undo logs may differ from `t`. -/
def OnlyMemory (t u : State) : Prop :=
  OnlySeq t { u with hbm := t.hbm, hostMem := t.hostMem, lines := t.lines, plru := t.plru, poison := t.poison
                     partials := t.partials, tasks := t.tasks, jobs := t.jobs }
/-- Every byte of memory is as in `t`. -/
def SameMemory (t u : State) : Prop := u.hbm = t.hbm ∧ u.hostMem = t.hostMem
/-- Every byte of memory but the `n` bytes at `p` is as in `t`. -/
def MemoryBut (t u : State) (p : Phys) (n : Nat) : Prop :=
  if p.host then u.hbm = t.hbm ∧ ∀ a, ¬(p.pa ≤ a ∧ a < p.pa + n) → readByte u.hostMem a = readByte t.hostMem a
  else u.hostMem = t.hostMem ∧ ∀ a, ¬(p.pa ≤ a ∧ a < p.pa + n) → readByte u.hbm a = readByte t.hbm a

/-- No byte read lies in a poisoned sector (R86). -/
def Clean (t : State) (p : Phys) (n : Nat) : Prop := p.host = true ∨ firstPoisoned t p.pa n = none
/-- A read of `n` bytes gives S[d] their number. -/
def Loads (s t u : State) (d : Reg) (v : Nat) (words : Nat) : Prop :=
  SetsS s u d (BitVec.ofNat 64 v) ∧ RetiresButS s u words ∧ OnlyMemory t u
/-- The address of a load or a store (R303, R305). -/
def address {w : Nat} (s : State) (a : Reg) (e : BitVec w) : Word :=
  BitVec.ofInt 64 ((readS (curSeq s) a).toNat + e.toInt)

end Sys2Proof.Claims

/-- R305: LDS of each size, form and ordering but SC gives S[d] the zero-extended little-endian bytes at its address, and
leaves memory as it was. -/
def Sys2Proof.Claims.LoadsReadMemory : Prop :=
  ∀ (s t : State) (p : Phys) (d a : Reg) (z : Size), seqActs s = true → Calm s →
    (∀ (o : BitVec 12) (q : Bool), Reaches s (address s a o) z.bytes needLoad t p → Clean t p z.bytes →
      Completes (.lds d a o z q) s fun u => Loads s t u d (numberAt t p z.bytes) 1 ∧ SameMemory t u) ∧
    (∀ (o : W32) (q : MemOrd), q ≠ .sc → Reaches s (address s a o) z.bytes needLoad t p → Clean t p z.bytes →
      Completes (.ldsSx d a z q o) s fun u => Loads s t u d (numberAt t p z.bytes) 2 ∧ SameMemory t u)

namespace Sys2Proof.Claims
/-- A store of the low `n` bytes of `v` at `p`, and no other byte. -/
def Stores (s t u : State) (p : Phys) (n : Nat) (v : Word) (words : Nat) : Prop :=
  (∀ i < n, byteAt u p i = v.extractLsb' (8 * i) 8) ∧ MemoryBut t u p n ∧ Retires s u words ∧ OnlyMemory t u
end Sys2Proof.Claims

/-- R305: STS of each size, form and ordering but SC stores the low bytes of S[d] at its address and no other byte. -/
def Sys2Proof.Claims.StoresWriteMemory : Prop :=
  ∀ (s t : State) (p : Phys) (d a : Reg) (z : Size), seqActs s = true → Canonical s = true → Calm s →
    (∀ (o : BitVec 12) (q : Bool), Reaches s (address s a o) z.bytes needStore t p →
      Completes (.sts d a o z q) s fun u => Stores s t u p z.bytes (readS (curSeq s) d) 1) ∧
    (∀ (o : W32) (q : MemOrd), q ≠ .sc → Reaches s (address s a o) z.bytes needStore t p →
      Completes (.stsSx d a z q o) s fun u => Stores s t u p z.bytes (readS (curSeq s) d) 2)

/-- Loads and stores (R305). -/
def Obligations.LoadsAndStores : Prop :=
  Claims.LoadsReadMemory ∧ Claims.StoresWriteMemory

namespace Sys2Proof.Claims
/-- The atomics of 4 or 8 bytes, with what R319 writes for the old value, the operand and the compare value of `n` bytes;
none when nothing is written; and whether a page of host memory will do (R14). -/
def atomics : List ((Guard → Reg → Reg → Reg → Bool → AtomOrd → Instr) × (Nat → Nat → Nat → Nat → Option Nat) × Bool) :=
  let less (n a b : Nat) : Bool := (a : Int).bmod (256 ^ n) < (b : Int).bmod (256 ^ n)
  [(.aadd, fun n old v _ => some ((old + v) % 256 ^ n), true),
   (.aand, fun _ old v _ => some (old &&& v), false),
   (.aor, fun _ old v _ => some (old ||| v), false),
   (.axor, fun _ old v _ => some (old ^^^ v), false),
   (.amin, fun n old v _ => some (if less n old v then old else v), false),
   (.amax, fun n old v _ => some (if less n old v then v else old), false),
   (.aminu, fun _ old v _ => some (min old v), false),
   (.amaxu, fun _ old v _ => some (max old v), false),
   (.aswp, fun _ _ v _ => some v, true),
   (.acas, fun _ old v c => if old = c then some v else none, true)]
/-- The larger or smaller of two FP32 patterns (R319): a NaN gives 0x7FC00000, and −0 lies below +0. -/
def fpPick (larger : Bool) (a b : Nat) : Nat :=
  let nan (x : Nat) : Bool := 0x7F800000 < x % 2 ^ 31
  let key (x : Nat) : Int := if 2 ^ 31 ≤ x then -(x % 2 ^ 31 : Nat) - 1 else x
  if nan a || nan b then 0x7FC00000 else if (key a < key b) = larger then b else a
/-- An atomic has read `old` at `p`, and written `new`, if anything. -/
def Atomic (s t u : State) (d : Reg) (p : Phys) (n : Nat) (old : Nat) (new : Option Nat) : Prop :=
  Loads s t u d old 1 ∧
  match new with
  | some x => numberAt u p n = x ∧ MemoryBut t u p n
  | none => SameMemory t u
end Sys2Proof.Claims

/-- R322: an SC load, store or atomic is sent to its slice as an SC operation and waits there, with nothing performed; once
the ring has answered it (R124), an SC load or atomic gives S[d] the value and an SC store retires, with no other effect. -/
def Obligations.ScOperationsTakeTheRingsAnswer : Prop :=
  ∀ (s : State) (d a b : Reg), seqActs s = true →
    let sent (i : Instr) (va : Word) (n : Nat) (need : Need) (op : ReqOp) : Prop :=
      ∀ (t : State) (p : Phys), Calm s → Reaches s va n need t p → Completes i s fun u =>
        (∃ r, u.reqs = [r] ∧ r.sc = true ∧ r.host = p.host ∧ r.pa = p.pa ∧ r.op = op ∧ r.who = seqWho s ∧ r.answer = none ∧
          curWait u = .request r.id) ∧ (curSeq u).pc = (curSeq s).pc ∧ (curSeq u).s = (curSeq s).s ∧ SameMemory t u
    let answered (ends : (List Req → Word → Prop)) : Prop :=
      ∀ (id : Nat) (r : Req) (v : Word), curWait s = .request id → s.reqs.find? (fun x => x.id == id) = some r →
        r.answer = some (v, false) → ends (s.reqs.filter fun x => x.id != id) v
    let gives (i : Instr) (n : Nat) : Prop := answered fun left v =>
      Completes i s fun t => SetsS s t d v ∧ RetiresButS s t n ∧ t.reqs = left ∧ OnlySeq s { t with reqs := s.reqs }
    let goesOn (i : Instr) (n : Nat) : Prop := answered fun left _ =>
      Completes i s fun t => Retires s t n ∧ t.reqs = left ∧ OnlySeq s { t with reqs := s.reqs }
    let stored (n : Nat) : ReqOp := .store (natLE n (readS (curSeq s) d).toNat) false
    (∀ o z, sent (.ldsc d a o z) (address s a o) z.bytes (needSc false) (.load z.bytes) ∧ gives (.ldsc d a o z) 1 ∧
      sent (.stsc d a o z) (address s a o) z.bytes (needSc true) (stored z.bytes) ∧ goesOn (.stsc d a o z) 1) ∧
    (∀ z o, sent (.ldsSx d a z .sc o) (address s a o) z.bytes (needSc false) (.load z.bytes) ∧ gives (.ldsSx d a z .sc o) 2 ∧
      sent (.stsSx d a z .sc o) (address s a o) z.bytes (needSc true) (stored z.bytes) ∧ goesOn (.stsSx d a z .sc o) 2) ∧
    (∀ g, guardHolds (curSeq s) g = true →
      let va := readS (curSeq s) a
      let op (i n : Nat) : ReqOp := .atomic i n (readS (curSeq s) b) (readS (curSeq s) d)
      (∀ i x, atomics[i]? = some x → ∀ z : Bool, let n := if z then 8 else 4
        sent (x.1 g d a b z .sc) va n (needSc true) (op i n) ∧ gives (x.1 g d a b z .sc) 1) ∧
      sent (.afmin g d a b .sc) va 4 (needSc true) (op 10 4) ∧ gives (.afmin g d a b .sc) 1 ∧
      sent (.afmax g d a b .sc) va 4 (needSc true) (op 11 4) ∧ gives (.afmax g d a b .sc) 1)

/-- R318, R319: an atomic other than SC gives S[d] the old value and writes what R319 gives, at its bytes only. -/
def Sys2Proof.Claims.AtomicsReadAndWrite : Prop :=
  ∀ (s t : State) (p : Phys) (g : Guard) (d a b : Reg) (q : AtomOrd), seqActs s = true → Canonical s = true → Calm s →
    guardHolds (curSeq s) g = true → q ≠ .sc →
    let val (r : Reg) (n : Nat) : Nat := (readS (curSeq s) r).toNat % 256 ^ n
    (∀ x ∈ atomics, ∀ z : Bool, let n := if z then 8 else 4
      Reaches s (readS (curSeq s) a) n { needStore with host := x.2.2 } t p → Clean t p n →
      Completes (x.1 g d a b z q) s fun u =>
        Atomic s t u d p n (numberAt t p n) (x.2.1 n (numberAt t p n) (val b n) (val d n))) ∧
    (Reaches s (readS (curSeq s) a) 4 { needStore with host := false } t p → Clean t p 4 →
      Completes (.afmin g d a b q) s (fun u =>
        Atomic s t u d p 4 (numberAt t p 4) (some (fpPick false (numberAt t p 4) (val b 4)))) ∧
      Completes (.afmax g d a b q) s (fun u =>
        Atomic s t u d p 4 (numberAt t p 4) (some (fpPick true (numberAt t p 4) (val b 4)))))

namespace Sys2Proof.Claims
/-- The fields of an accumulate object of 64 bytes (R214): ACC, STK, XB and COUNT. -/
def objAcc (t : State) (p : Phys) : Int := (BitVec.ofNat 320 (numberAt t p 40)).toInt
def objStk (t : State) (p : Phys) : Nat := numberAt t { p with pa := p.pa + 40 } 8 / 2 ^ 61
def objXb (t : State) (p : Phys) : Nat := numberAt t { p with pa := p.pa + 40 } 8 / 2 ^ 55 % 64
def objCount (t : State) (p : Phys) : Nat := numberAt t { p with pa := p.pa + 48 } 8
/-- The number format of an exact accumulate operation (R321). -/
def axFmt : AxFmt → Fmt | .fp32 => fp32 | .bf16 => bf16 | .fp16 => fp16
/-- A finite contribution in units of 2^−149 (R211). -/
def units (m : Nat) (neg : Bool) (e : Int) : Int := (if neg then -1 else 1) * ((m * 2 ^ (e + 149).toNat : Nat) : Int)
end Sys2Proof.Claims

/-- R211, R212, R214, R321: AXADD adds a finite value to ACC modulo 2^320 and 1 to COUNT; AXRD gives ACC rounded once to the
format and changes nothing; AXCLR clears the 64 bytes. -/
def Sys2Proof.Claims.ExactAccumulateObjects : Prop :=
  ∀ (s t : State) (p : Phys) (g : Guard) (d a b : Reg) (f : AxFmt), seqActs s = true → Canonical s = true → Calm s →
    guardHolds (curSeq s) g = true → Clean t p 64 →
    (Reaches s (readS (curSeq s) a) 64 { needStore with host := false } t p →
      (∀ neg m e, (axFmt f).read ((readS (curSeq s) b).toNat % 2 ^ 32) = .fin neg m e → -149 ≤ e →
        Completes (.axadd g a b f) s fun u =>
          objAcc u p = (objAcc t p + units m neg e).bmod (2 ^ 320) ∧ objStk u p = objStk t p ∧ objXb u p = objXb t p ∧
          objCount u p = (objCount t p + 1) % 2 ^ 64 ∧ MemoryBut t u p 64 ∧ Retires s u 1 ∧ OnlyMemory t u) ∧
      Completes (.axclr g a) s (fun u =>
        (∀ i < 64, byteAt u p i = 0) ∧ MemoryBut t u p 64 ∧ Retires s u 1 ∧ OnlyMemory t u)) ∧
    (Reaches s (readS (curSeq s) a) 64 { needLoad with host := false } t p →
      Completes (.axrd g d a f) s fun u =>
        Loads s t u d
          (exactRound (axFmt f) .rne (BitVec.ofNat 320 (numberAt t p 40)) (BitVec.ofNat 3 (objStk t p))).1 1 ∧
        SameMemory t u)

/-- Atomics and exact accumulate operations (R211, R212, R214, R318, R319, R321). -/
def Obligations.AtomicsAndAccumulates : Prop :=
  Claims.AtomicsReadAndWrite ∧ Claims.ExactAccumulateObjects

namespace Sys2Proof.Claims
/-- The executing context has faulted at its instruction (R35, R37, R39): a record lies in its ring where HEAD was, HEAD
and the count have advanced, and the sequencer waits before the instruction for the record. -/
def Recorded (s t : State) (c k : Nat) (cause : Cause) (kind space addr : Nat) : Prop :=
  let x := ctxOf s c k
  let at_ : Phys := { pa := field x.r.fqctl 11 41 * 2048 + x.r.head.toNat * 32, leaf := 0 }
  let w (n : Nat) : Word := BitVec.ofNat 64 (numberAt t { at_ with pa := at_.pa + 8 * n } 8)
  field (w 0) 56 8 = cause.code ∧ field (w 0) 52 4 = kind ∧ field (w 0) 49 3 = space ∧ field (w 0) 0 48 = addr % 2 ^ 48 ∧
  field (w 1) 52 12 = asidOf x ∧ field (w 1) 44 8 = c ∧ field (w 1) 25 3 = 0 ∧
  field (w 3) 16 48 = x.seq.pc.toNat % 2 ^ 48 ∧ field (w 3) 14 2 = k ∧ field (w 3) 0 8 = x.r.written % 256 ∧
  (ctxOf t c k).r.head = x.r.head + 1 ∧ (ctxOf t c k).r.written = x.r.written + 1 ∧
  (ctxOf t c k).seqStop = some (x.r.written + 1) ∧ (ctxOf t c k).seq = { x.seq with wait := .none } ∧
  MemoryBut s t at_ 32
end Sys2Proof.Claims

/-- R19, R35, R37, R305: a misaligned load, store, atomic or accumulate operation of a context makes a fault record of cause
ALIGN at its address, stops the sequencer before it, and performs no part of the access. -/
def Obligations.MisalignedAccessFaults : Prop :=
  ∀ (s : State) (c k : Nat) (g : Guard) (d a b : Reg) (z : Size) (o : BitVec 12) (e : W32) (q : Bool) (m : MemOrd)
      (y : Bool) (r : AtomOrd) (f : AxFmt),
    s.cur = .seq c k → c < 224 → k < 4 → curWait s = .none → guardHolds (curSeq s) g = true → Canonical s = true →
    (ctxOf s c k).r.fqctl.getLsbD 0 = true → (ctxOf s c k).pending = [] → unreleased (ctxOf s c k).r < 63 →
    m ≠ .sc → r ≠ .sc →
    let stops (i : Instr) (kind : Nat) (va : Word) : Prop :=
      Completes i s fun t => Recorded s t c k .align kind 0 va.toNat ∧ t.reqs = s.reqs
    ((address s a o).toNat % z.bytes ≠ 0 →
      stops (.lds d a o z q) 0 (address s a o) ∧ stops (.sts d a o z q) 1 (address s a o) ∧
      stops (.ldsc d a o z) 7 (address s a o) ∧ stops (.stsc d a o z) 7 (address s a o)) ∧
    ((address s a e).toNat % z.bytes ≠ 0 →
      stops (.ldsSx d a z m e) 0 (address s a e) ∧ stops (.stsSx d a z m e) 1 (address s a e)) ∧
    ((readS (curSeq s) a).toNat % (if y then 8 else 4) ≠ 0 →
      stops (.aadd g d a b y r) 2 (readS (curSeq s) a) ∧ stops (.acas g d a b y r) 2 (readS (curSeq s) a)) ∧
    ((readS (curSeq s) a).toNat % 64 ≠ 0 →
      stops (.axadd g a b f) 8 (readS (curSeq s) a) ∧ stops (.axrd g d a f) 8 (readS (curSeq s) a) ∧
      stops (.axclr g a) 8 (readS (curSeq s) a))

/-! ### Typed buffers, handles and copies -/
namespace Sys2Proof.Claims

/-- Nothing but what `h` hides and the executing sequencer differs. -/
def OnlySeqAnd (h : State → State) (s t : State) : Prop := hideSeq (h t) = hideSeq (h s)
/-- Hides what a core's narrow ports remember of the cycle's grants (R49). -/
def hidePorts (c : Nat) (s : State) : State := modCore s c fun x => { x with grants := [] }
/-- Hides the contents of a core's typed buffers, and its ports' grants. -/
def hideBuf (c : Nat) (s : State) : State := hidePorts c (modCore s c fun x => { x with tbuf := [], tpoison := [], tpart := [] })
/-- A narrow port that has granted nothing in this cycle (R49). -/
def PortFree (s : State) (c sp : Nat) : Prop :=
  (lookD (coreOf s c).grants sp (0, 0, [])).1 ≠ s.cycle ∨ (lookD (coreOf s c).grants sp (0, 0, [])).2 = (0, [])
/-- Hides a core's descriptor table and its clearing units. -/
def hideDescs (c : Nat) (s : State) : State := modCore s c fun x => { x with descs := [], clearing := [] }
/-- Hides a core's range scoreboard. -/
def hideCopies (c : Nat) (s : State) : State := modCore s c fun x => { x with copies := [] }

/-- A byte of a typed buffer. -/
def bufByte (s : State) (p : BufPlace) (i : Nat) : Byte := readByte (lookD (coreOf s p.core).tbuf p.space []) (p.at_ + i)
/-- A BLD of a context, after its checks, gives S[d] the zero-extended bytes (R308). -/
def BufLoads (s t : State) (p : BufPlace) (d : Reg) (n words : Nat) : Prop :=
  SetsS s t d (BitVec.ofNat 64 ((List.range n).map fun i => (bufByte s p i).toNat * 256 ^ i).sum) ∧ RetiresButS s t words ∧
  OnlySeqAnd (hidePorts p.core) s t
/-- A BST writes the low bytes of S[d] in its place, and no other byte of any typed buffer. -/
def BufStores (s t : State) (p : BufPlace) (v : Word) (n words : Nat) : Prop :=
  (∀ i < n, bufByte t p i = v.extractLsb' (8 * i) 8) ∧
  (∀ sp a, ¬(sp = p.space ∧ p.at_ ≤ a ∧ a < p.at_ + n) →
    readByte (lookD (coreOf t p.core).tbuf sp []) a = readByte (lookD (coreOf s p.core).tbuf sp []) a) ∧
  Retires s t words ∧ OnlySeqAnd (hideBuf p.core) s t
end Sys2Proof.Claims

/-- R28, R308: BLD and BST of an access that passes the checks of R28, at a port that has granted nothing in the cycle. -/
def Obligations.BufferLoadsAndStores : Prop :=
  ∀ (s : State) (c k : Nat) (d : Reg) (h : HReg) (z : Size) (p : BufPlace), s.cur = .seq c k → Canonical s = true → Calm s →
    PortFree s p.core p.space →
    let hv := readH (curSeq s) h
    (∀ (g : Guard) (b : Reg), guardHolds (curSeq s) g = true →
      (bufCheck s c k 0 hv none (readS (curSeq s) b).toNat z.bytes false = .ok p → (bufRead s p z.bytes).2 = none →
        Completes (.bld g d h b z) s fun t => BufLoads s t p d z.bytes 1) ∧
      (bufCheck s c k 0 hv none (readS (curSeq s) b).toNat z.bytes true = .ok p →
        Completes (.bst g d h b z) s fun t => BufStores s t p (readS (curSeq s) d) z.bytes 1)) ∧
    (∀ o : BitVec 20,
      (bufCheck s c k 0 hv none o.toNat z.bytes false = .ok p → (bufRead s p z.bytes).2 = none →
        Completes (.bldSx d h z o) s fun t => BufLoads s t p d z.bytes 2) ∧
      (bufCheck s c k 0 hv none o.toNat z.bytes true = .ok p →
        Completes (.bstSx d h z o) s fun t => BufStores s t p (readS (curSeq s) d) z.bytes 2))

namespace Sys2Proof.Claims
/-- A run of `n` granules from `b` that no allocated run and no run waiting to be cleared overlaps (R311). -/
def RunFree (x : Core) (sp n b : Nat) : Prop := b + n ≤ 256 ∧ ∀ u ∈ usedRuns x sp true, ¬(b < u.1 + u.2 ∧ u.1 < b + n)
/-- The descriptor a handle names, on the core whose buffer it is. -/
def named (s : State) (c : Nat) (h : Half) : Desc := descOf (coreOf s (handleCore c h)) (hSpace h) (hIndex h)
/-- The descriptor a handle names is now `e`; every other descriptor is as before. -/
def NowDesc (s t : State) (c : Nat) (h : Half) (e : Desc) : Prop :=
  named t c h = e ∧ ∀ i, i ≠ hSpace h * 64 + hIndex h →
    lookD (coreOf t (handleCore c h)).descs i Desc.reset = lookD (coreOf s (handleCore c h)).descs i Desc.reset
/-- A handle that names a descriptor of its generation. -/
def Valid (s : State) (c : Nat) (h : Half) : Prop :=
  hSpace h ≠ 3 ∧ hOwner h ≠ 7 ∧ (named s c h).gen.toNat = hGen h
end Sys2Proof.Claims

/-- R52, R311: HALLOC takes the lowest FREE descriptor and the lowest free run of granules and makes it HELD by the issuing
context's sequencer, or gives 0xFFFF when no descriptor is free, or the handle that a clearing has brought it; HFREE makes a held descriptor FREE with GEN + 1 and queues
its granules for clearing. -/
def Sys2Proof.Claims.HandlesAllocatedAndFreed : Prop :=
  ∀ (s : State) (c k : Nat) (g : Guard) (h : HReg), s.cur = .seq c k → guardHolds (curSeq s) g = true →
    (∀ (a : Reg) (sp : BitVec 2) (i b : Nat), let n := (readS (curSeq s) a).toNat
      curWait s = .none → 0 < n → n ≤ 256 → sp ≠ 3 → i < 64 → (descOf (coreOf s c) sp.toNat i).st = .free →
      (∀ j < i, (descOf (coreOf s c) sp.toNat j).st ≠ .free) → RunFree (coreOf s c) sp.toNat n b →
      (∀ b' < b, ¬ RunFree (coreOf s c) sp.toNat n b') →
      Completes (.halloc g h a sp) s fun t =>
        let hv := readH (curSeq t) h
        let d := descOf (coreOf s c) sp.toNat i
        hSpace hv = sp.toNat ∧ hOwner hv = bayPos c ∧ hGen hv = d.gen.toNat ∧ hIndex hv = i ∧
        NowDesc s t c hv { d with st := .held 0, base := b, size := n, key := (ctxOf s c k).r.key
                                  asid := BitVec.ofNat 12 (asidOf (ctxOf s c k)) } ∧
        { curSeq t with h := (curSeq s).h } = seqRetired (curSeq s) 1 ∧ OnlySeqAnd (hideDescs c) s t) ∧
    (∀ (a : Reg) (sp : BitVec 2) (v : Word), curWait s = .value v → Completes (.halloc g h a sp) s fun t =>
      readH (curSeq t) h = v.setWidth 16 ∧ { curSeq t with h := (curSeq s).h } = seqRetired (curSeq s) 1 ∧ OnlySeq s t) ∧
    (∀ (a : Reg) (sp : BitVec 2), let n := (readS (curSeq s) a).toNat
      curWait s = .none → 0 < n → n ≤ 256 → sp ≠ 3 → (∀ j < 64, (descOf (coreOf s c) sp.toNat j).st ≠ .free) →
      Completes (.halloc g h a sp) s fun t => readH (curSeq t) h = 0xFFFF ∧
        { curSeq t with h := (curSeq s).h } = seqRetired (curSeq s) 1 ∧ OnlySeq s t) ∧
    (let hv := readH (curSeq s) h
     Valid s c hv → hOwner hv = bayPos c → handleCore c hv = c →
      ((named s c hv).st = .held 0 ∨ (named s c hv).st = .held 1) → (named s c hv).key = (ctxOf s c k).r.key →
      Completes (.hfree g h) s fun t =>
        (named t c hv).st = .free ∧ (named t c hv).gen = (named s c hv).gen + 1 ∧
        NowDesc s t c hv (named t c hv) ∧
        lookD (coreOf t c).clearing (hSpace hv) [] = lookD (coreOf s c).clearing (hSpace hv) [] ++
          [((named s c hv).base, (named s c hv).size)] ∧
        Retires s t 1 ∧ OnlySeqAnd (hideDescs c) s t)

/-- R52, R311: HGIVE of a held handle makes it DRAINING to its target and retires when it has left DRAINING; HTAKE of an
offered handle by its target, or by its giver, makes it HELD there, writes the handle register and 0, and answers 6 where
R52 has no such move; HQRY reads the descriptor. -/
def Sys2Proof.Claims.HandlesGivenTakenAndRead : Prop :=
  ∀ (s : State) (c k : Nat) (g : Guard) (h : HReg), s.cur = .seq c k → guardHolds (curSeq s) g = true →
    (∀ b : Reg, let hv := readH (curSeq s) h
      let v := readS (curSeq s) b
      let giver := if handleCore c hv = c then field v 4 3 else 8 + bayPos c
      Valid s c hv → v.toNat < 128 → field v 4 3 ≤ 4 → targetRefused (field v 0 4) giver (handleCore c hv) = false →
      (Calm s → requester s c k (handleCore c hv) (named s c hv) (field v 4 3) = some giver →
        (named s c hv).st = .held giver → (field v 4 3 = 1 → (ctxOf s c k).late = [] ∧ commandTokens s c k = []) →
        Completes (.hgive g h b) s fun t =>
          NowDesc s t c hv { named s c hv with st := .draining giver (field v 0 4) } ∧
          curSeq t = { curSeq s with wait := .moving } ∧ OnlySeqAnd (hideDescs (handleCore c hv)) s t) ∧
      (curWait s = .moving → (named s c hv).st ≠ .draining giver (field v 0 4) →
        Completes (.hgive g h b) s fun t => Retires s t 1 ∧ OnlySeq s t)) ∧
    (∀ (d a : Reg) (giver t r : Nat), let v := readS (curSeq s) a
      let hv : Half := v.setWidth 16
      Valid s c hv → v.toNat < 2 ^ 19 → field v 16 3 ≤ 4 → curWait s = .none → s.deferred = false →
      requester s c k (handleCore c hv) (named s c hv) (field v 16 3) = some r →
      ((named s c hv).st = .offered giver t → r = t ∨ r = giver →
        Completes (.htake g d a h) s fun u =>
          NowDesc s u c hv { named s c hv with st := .held r } ∧ readH (curSeq u) h = hv ∧ SetsS s u d 0 ∧
          { curSeq u with h := (curSeq s).h, s := (curSeq s).s } = seqRetired (curSeq s) 1 ∧
          OnlySeqAnd (hideDescs (handleCore c hv)) s u) ∧
      ((named s c hv).st = .free ∨ (named s c hv).st = .held r →
        Completes (.htake g d a h) s fun u => WritesS s u d 6 1)) ∧
    (∀ d a : Reg, let hv : Half := (readS (curSeq s) a).setWidth 16
      curWait s = .none → s.deferred = false → (readS (curSeq s) a).toNat < 2 ^ 16 → hSpace hv ≠ 3 → hOwner hv ≠ 7 →
      (named s c hv).asid.toNat = asidOf (ctxOf s c k) → (named s c hv).size ≤ 256 →
      Completes (.hqry g d a) s fun t => ∃ w : Word, WritesS s t d w 1 ∧
        field w 30 34 = 0 ∧ field w 25 5 = (named s c hv).gen.toNat ∧
        match (named s c hv).st with
        | .free => field w 0 25 = 0xFFF0
        | .held p => p < 16 → field w 8 8 = 0xFF ∧ field w 0 8 = p * 16 + 1 ∧ field w 16 9 = (named s c hv).size
        | .draining p q => p < 16 → q < 16 → field w 0 16 = p * 4096 + q * 256 + 0xF2
        | .moving p q => p < 16 → q < 16 → field w 0 16 = p * 4096 + q * 256 + 0xF2
        | .offered p q => p < 16 → q < 16 → field w 0 16 = p * 4096 + q * 256 + 0xF3)

/-- Handles (R52, R311): allocated, freed, given, taken and read. -/
def Obligations.HandlesMove : Prop :=
  Claims.HandlesAllocatedAndFreed ∧ Claims.HandlesGivenTakenAndRead

/-- R50, R52, R311, R337: a remote access is performed at the owning core and answered; a DRAINING descriptor becomes OFFERED
once the giver's accesses are performed, and a completed move leaves it with its new holder; a cleared run reads as zero and
its granules are free. -/
def Obligations.DescriptorTableEvents : Prop :=
  ∀ (s : State) (c p i : Nat), Canonical s = true →
    (∀ (r : BufReq) (q : BufPlace), s.bufreqs = [r] → r.id = i → r.answer = none → s.packets = [] →
      bufCheckOf true s r.core r.slot r.unit r.handle none r.off r.n r.data.isSome = .ok q → PortFree s q.core q.space →
      (r.data = none → (bufRead s q r.n).2 = none →
        Completes (.remoteBufferRequest i) s fun t =>
          (∃ v : Word, t.bufreqs = [{ r with answer := some (v, .none) }] ∧
            v = BitVec.ofNat 64 ((List.range r.n).map fun j => (bufByte s q j).toNat * 256 ^ j).sum) ∧
          hidePorts q.core { t with bufreqs := s.bufreqs } = hidePorts q.core s) ∧
      (∀ v, r.data = some v → r.n ≤ 8 → Completes (.remoteBufferRequest i) s fun t =>
        t.bufreqs = [{ r with answer := some (0, .none) }] ∧
        (∀ j < r.n, bufByte t q j = v.extractLsb' (8 * j) 8) ∧
        hideBuf q.core { t with bufreqs := [] } = hideBuf q.core { s with bufreqs := [] })) ∧
    (∀ h u, (descOf (coreOf s c) p i).st = .draining h u →
      handleBusy s c (mkHandle p (bayPos c) (descOf (coreOf s c) p i).gen.toNat i) = false →
      Completes (.handleDrainComplete c p i) s fun t =>
        t = modCore s c fun x => setDesc x p i { descOf (coreOf s c) p i with st := .offered h u }) ∧
    (∀ h u, (descOf (coreOf s c) p i).st = .moving h u →
      handleBusy s c (mkHandle p (bayPos c) (descOf (coreOf s c) p i).gen.toNat i) = false →
      Completes (.handleMoveComplete c p i) s fun t =>
        (∀ j, lookD (coreOf t c).descs j Desc.reset = if j = p * 64 + i then { descOf (coreOf s c) p i with st := .held u }
          else lookD (coreOf s c).descs j Desc.reset) ∧
        (coreOf t c).tbuf = (coreOf s c).tbuf ∧ t.hbm = s.hbm) ∧
    (∀ b n r, lookD (coreOf s c).clearing p [] = (b, n) :: r → (∀ k sp m, (ctxOf s c k).seq.wait ≠ .halloc sp m) → Completes (.granuleClearComplete c p) s fun t =>
      lookD (coreOf t c).clearing p [] = r ∧
      (∀ a, b * granBytes p ≤ a → a < (b + n) * granBytes p →
        readByte (lookD (coreOf t c).tbuf p []) a = 0 ∧ rowPoisoned (coreOf t c) p a = false) ∧
      (∀ a, ¬(b * granBytes p ≤ a ∧ a < (b + n) * granBytes p) →
        readByte (lookD (coreOf t c).tbuf p []) a = readByte (lookD (coreOf s c).tbuf p []) a) ∧
      (coreOf t c).descs = (coreOf s c).descs ∧ t.hbm = s.hbm)

namespace Sys2Proof.Claims
/-- The copy a context's instruction puts on the scoreboard (R314). -/
def newCopy (s : State) (c k : Nat) (ws : List Word) (code : Nat) (tag : Option (Byte × Half)) (age : Nat) : Copy :=
  { id := (ctxOf s c k).copyId.toNat, key := (ctxOf s c k).r.key, elemIssued := tag, words := ws
    asid := BitVec.ofNat 12 (asidOf (ctxOf s c k)), code := code, chunks := [], xb := 0, poison := false, largest := 0
    stop := none, age := age, given := (copyHandles ws).any (draining s c), kept := [], fetch := none }
/-- The words of a record in memory. -/
def recordAt (t : State) (p : Phys) (n : Nat) : List Word :=
  (List.range n).map fun i => BitVec.ofNat 64 (numberAt t { p with pa := p.pa + 8 * i } 8)
end Sys2Proof.Claims

/-- R314, R317: COPY of a legal descriptor takes a scoreboard entry and gives S[d] the context's next copy id; CPWAIT
completes when the copy it names has retired; CPQRY tells chunks, exception bits and state. -/
def Sys2Proof.Claims.CopyInstructions : Prop :=
  ∀ (s : State) (c k : Nat) (g : Guard) (d a : Reg), s.cur = .seq c k → guardHolds (curSeq s) g = true →
    (∀ (t : State) (p : Phys), Calm s → Reaches s (readS (curSeq s) a) 64 needLoad t p → Clean t p 64 →
      copyIllegal (asidOf (ctxOf s c k)) (recordAt t p 8) = false →
      Completes (.copy g d a) s fun u =>
        (coreOf u c).copies = [newCopy s c k (recordAt t p 8) (curSeq s).pc.toNat none 0] ∧
        (ctxOf u c k).copyId = (ctxOf s c k).copyId + 1 ∧ SetsS s u d ((ctxOf s c k).copyId.setWidth 64) ∧
        RetiresButS s u 1 ∧ SameMemory t u) ∧
    (((readS (curSeq s) a).toNat < 256 ∧
        (∀ y ∈ (coreOf s c).copies, y.key = (ctxOf s c k).r.key → y.id ≠ (readS (curSeq s) a).toNat)) ∨
      ((readS (curSeq s) a) = BitVec.allOnes 64 ∧ ∀ y ∈ (coreOf s c).copies, y.key ≠ (ctxOf s c k).r.key) →
      Completes (.cpwait g a) s fun t => Retires s t 1 ∧ OnlySeq s t) ∧
    (∀ y ∈ (coreOf s c).copies, y.key = (ctxOf s c k).r.key → y.id = (readS (curSeq s) a).toNat % 256 →
      y.chunks.length < 2 ^ 32 → (∀ z ∈ (coreOf s c).copies, z.key = y.key → z.id = y.id → z = y) →
      Completes (.cpqry g d a) s fun t => ∃ w : Word, WritesS s t d w 1 ∧ field w 0 32 = y.chunks.length ∧
        field w 32 6 = y.xb.toNat ∧ field w 40 24 = 0 ∧
        field w 38 2 = if y.stop ≠ none then 3 else if copyWaits (coreOf s c).copies y then 2 else 1) ∧
    ((∀ y ∈ (coreOf s c).copies, y.key = (ctxOf s c k).r.key → y.id ≠ (readS (curSeq s) a).toNat % 256) →
      Completes (.cpqry g d a) s fun t => WritesS s t d (lookD (ctxOf s c k).copies ((readS (curSeq s) a).toNat % 256) 0) 1)

namespace Sys2Proof.Claims
/-- A resident context whose engines work, and which is the only one of its core. -/
def SoleContext (s : State) (c k : Nat) : Prop :=
  (∃ x, (coreOf s c).ctxs = [(k, x)]) ∧ (ctxOf s c k).r.state = .running ∧ (ctxOf s c k).gates = 0 ∧
  (ctxOf s c k).trap = none
end Sys2Proof.Claims

/-- R314–R317: the copy engine moves a chunk of a plain copy between typed buffers, bytes unchanged; a copy whose chunks are
complete retires and frees its entry, its words kept for CPQRY; a command token at hard port 22 issues a copy with the tag
of its completion token. -/
def Sys2Proof.Claims.CopyEngineEvents : Prop :=
  ∀ (s : State) (c k : Nat), SoleContext s c k → Canonical s = true → (coreOf s c).bwEn = false →
    (∀ (y : Copy) (ps pd : BufPlace), (coreOf s c).copies = [y] → y.key = (ctxOf s c k).r.key → y.stop = none →
      y.chunks = [] → y.kept = [] → y.fetch = none → y.elemIssued = none → cpConv y.words = 0 → cpRows y.words = 1 → 0 < cpRowBytes y.words →
      cpRowBytes y.words ≤ 4096 → (cpReads y).meets (cpWrites y) = false →
      field (dw y.words 0) 60 2 ≠ 0 → field (dw y.words 0) 62 2 ≠ 0 →
      bufCheck s c k 4 (BitVec.ofNat 16 (field (dw y.words 0) 32 16)) (some (field (dw y.words 0) 60 2 - 1))
        (field (dw y.words 0) 0 20) (cpRowBytes y.words) false = .ok ps →
      bufCheck s c k 4 (BitVec.ofNat 16 (field (dw y.words 1) 32 16)) (some (field (dw y.words 0) 62 2 - 1))
        (field (dw y.words 1) 0 20) (cpRowBytes y.words) true = .ok pd →
      ps.core = c → pd.core = c → (coreOf s c).tpoison = [] → PortFree s c ps.space → PortFree s c pd.space →
      Completes (.copyChunk c 0) s fun t =>
        (∀ i < cpRowBytes y.words, bufByte t pd i = bufByte s ps i) ∧
        (∀ sp a, ¬(sp = pd.space ∧ pd.at_ ≤ a ∧ a < pd.at_ + cpRowBytes y.words) →
          readByte (lookD (coreOf t c).tbuf sp []) a = readByte (lookD (coreOf s c).tbuf sp []) a) ∧
        (coreOf t c).copies = [{ y with chunks := [0] }] ∧ t.hbm = s.hbm ∧ t.hostMem = s.hostMem) ∧
    (∀ y, (coreOf s c).copies = [y] → y.key = (ctxOf s c k).r.key → y.stop = none → y.elemIssued = none →
      copyChunks y.words ≤ y.chunks.length → (dw y.words 4).getLsbD 61 = false → (dw y.words 5).getLsbD 63 = false →
      Completes (.copyRetire c 0) s fun t =>
        (coreOf t c).copies = [] ∧
        lookD (ctxOf t c k).copies y.id 0 = copyWord y.chunks.length y.xb 0 ∧ t.hbm = s.hbm ∧
        (coreOf t c).tbuf = (coreOf s c).tbuf) ∧
    (∀ (f : Flight) (r : List Flight) (t : State) (p : Phys),
      lookD (coreOf s c).hport (22 * 4 + k) [] = f :: r → (coreOf s c).copies.length < 16 → f.tok.lanes ≠ [] →
      (ctxOf s c k).cfgStop = [] → (ctxOf s c k).insts = [] → s.hbmStacks = [] → s.reqs = [] →
      s.bufreqs = [] →
      let va := (nth f.tok.lanes 0 0).toNat + 2 ^ 32 * field (nth f.tok.lanes 1 0) 0 16
      va % 64 = 0 → translate s c (ctxOf s c k).r.xlroot (BitVec.ofNat 64 va) needLoad = (t, .ok p) → Clean t p 64 →
      copyIllegal (asidOf (ctxOf s c k)) (recordAt t p 8) = false →
      Completes (.copyCommandToken c k) s fun u =>
        (coreOf u c).copies = (coreOf s c).copies ++
          [newCopy s c k (recordAt t p 8) 0 (some (f.tok.colour, f.tok.iter)) f.tok.src] ∧
        (ctxOf u c k).copyId = (ctxOf s c k).copyId + 1 ∧ lookD (coreOf u c).hport (22 * 4 + k) [] = r ∧
        SameMemory t u)

/-- Copies (R314–R317): the instructions, and the engine that carries them out. -/
def Obligations.CopiesRun : Prop :=
  Claims.CopyInstructions ∧ Claims.CopyEngineEvents

/-! ### Fences, barriers, pokes and system instructions -/

/-- R121, R323: a fence retires, changing nothing else, once nothing is left that it waits for. -/
def Sys2Proof.Claims.FencesRetire : Prop :=
  ∀ (s : State) (g : Guard) (z : Scope), seqActs s = true → Calm s → guardHolds (curSeq s) g = true →
    Completes (.fence g z) s (fun t => Retires s t 1 ∧ OnlySeq s t) ∧
    Completes (.fenceAcq g z) s (fun t => Retires s t 1 ∧ OnlySeq s t) ∧
    Completes (.fenceRel g z) s (fun t => Retires s t 1 ∧ OnlySeq s t)

/-- R114, R121, R323: a fence does not retire while a store of its party that a lock holds is still to be performed: it
waits. A FENCE.ACQ waits for such a store to a UO page, and for no other. -/
def Sys2Proof.Claims.FencesWaitForEarlierStores : Prop :=
  ∀ (s : State) (g : Guard) (z : Scope) (r : Req) (bs : List Byte), seqActs s = true → guardHolds (curSeq s) g = true →
    s.reqs = [r] → r.who = seqWho s → r.answer = none → r.op = .store bs false → r.sc = false → r.host = false →
    isLocked s r.pa bs.length = true →
    Completes (.fence g z) s (fun t => curSeq t = { curSeq s with wait := .none } ∧ t.reqs = [r] ∧ OnlySeq s t) ∧
    Completes (.fenceRel g z) s (fun t => curSeq t = { curSeq s with wait := .none } ∧ t.reqs = [r] ∧ OnlySeq s t) ∧
    (r.ord ≠ 2 → Completes (.fenceAcq g z) s fun t => Retires s t 1 ∧ t.reqs = [r] ∧ OnlySeq s t) ∧
    (r.ord = 2 → Completes (.fenceAcq g z) s fun t =>
      curSeq t = { curSeq s with wait := .none } ∧ t.reqs = [r] ∧ OnlySeq s t)

namespace Sys2Proof.Claims
/-- Arrivals in the current generation of a barrier, and the generations completed (R324). -/
def barrier (t : Task) (z : Scope) (c n : Nat) : Nat × Half := lookD t.bars (barKey z c n) (0, 0)
/-- A barrier of a task has counted an arrival: the last of a generation completes it. -/
def Counted (s u : State) (t : Task) (z : Scope) (c n : Nat) : Prop :=
  ∃ t', taskOf u t.id = some t' ∧
    barrier t' z c n = (if barMembers s.exid.toNat t z c ≤ (barrier t z c n).1 + 1 then (0, (barrier t z c n).2 + 1)
      else ((barrier t z c n).1 + 1, (barrier t z c n).2)) ∧
    (∀ key, key ≠ barKey z c n → lookD t'.bars key (0, 0) = lookD t.bars key (0, 0)) ∧
    { t' with bars := t.bars } = t ∧ u.hbm = s.hbm
end Sys2Proof.Claims

/-- R324, R325: BARA arrives and gives the generation it arrived in; BARW, and BAR after its arrival, retire once the
generation is complete; an arrival in flight, and one of another device's member of a POD task, is counted by BARRIER_ARRIVAL. A scope wider than the task's tier, or a barrier
number above 7, raises ILLOP. -/
def Sys2Proof.Claims.BarriersCountGenerations : Prop :=
  ∀ (s : State) (c k : Nat) (g : Guard) (d a b : Reg) (z : Scope) (t : Task), s.cur = .seq c k →
    guardHolds (curSeq s) g = true → taskOf s (ctxOf s c k).task = some t →
    let v := readS (curSeq s) a
    let done := (barrier t z c v.toNat).2
    (v.toNat < 8 → scopeRank z ≤ t.tier →
      (Calm s → (look (ctxOf s c k).arrived (z.code.toNat * 8 + v.toNat) = none ∨
          ∃ h, look (ctxOf s c k).arrived (z.code.toNat * 8 + v.toNat) = some h ∧ genComplete done h = true) →
        Completes (.bara g d a z) s fun u => SetsS s u d (done.setWidth 64) ∧ RetiresButS s u 1 ∧
          Counted s u t z c v.toNat) ∧
      ((readS (curSeq s) b).toNat < 2 ^ 16 → genComplete done ((readS (curSeq s) b).setWidth 16) = true →
        Completes (.barw g a b z) s fun u => Retires s u 1 ∧ OnlySeq s u) ∧
      (∀ h, curWait s = .generation h → genComplete done h = true →
        Completes (.bar g a z) s fun u => Retires s u 1 ∧ OnlySeq s u)) ∧
    (v.toNat ≥ 8 ∨ scopeRank z > t.tier → curWait s = .none →
      Completes (.bara g d a z) s (fun u => Trapped s u .illop) ∧ Completes (.barw g a b z) s (fun u => Trapped s u .illop) ∧
      Completes (.bar g a z) s (fun u => Trapped s u .illop)) ∧
    (∀ n r, n < 8 → c < 256 → (ctxOf s c k).arriving = (z.code.toNat * 8 + n) :: r →
      Completes (.barrierArrival c k) s fun u => (ctxOf u c k).arriving = r ∧ Counted s u t z c n) ∧
    (∀ n, t.tier = 4 → Completes (.barrierArrival (256 + t.id) n) s fun u => Counted s u t .pod 0 n)

/-- Fences and barriers (R121, R323–R325). -/
def Obligations.FencesAndBarriers : Prop :=
  Claims.FencesRetire ∧ Claims.FencesWaitForEarlierStores ∧ Claims.BarriersCountGenerations

/-- R254: POKE adds 1 to the event count of the task's context on a core, which stays at 0xFFFF; DOZE takes 1 from a count
that is not 0 and gives the count before; a DOZE whose cycles have passed gives 0; a poke under way is counted when it
arrives. -/
def Sys2Proof.Claims.PokesAndDozes : Prop :=
  ∀ (s : State) (c k : Nat) (g : Guard) (d a : Reg),
    (s.cur = .seq c k → guardHolds (curSeq s) g = true →
      (∀ (t : Task) (e j : Nat), Calm s → taskOf s (ctxOf s c k).task = some t → e ∈ t.cores → e < 224 →
        readS (curSeq s) a = BitVec.ofNat 64 e → taskSlot s e (ctxOf s c k).task = some j → (e, j) ≠ (c, k) →
        Completes (.poke g a) s fun u =>
          (ctxOf u e j).seq = { (ctxOf s e j).seq with
            evcnt := if (ctxOf s e j).seq.evcnt = 0xFFFF then 0xFFFF else (ctxOf s e j).seq.evcnt + 1 } ∧
          Retires s u 1 ∧ u.hbm = s.hbm) ∧
      ((curSeq s).evcnt ≠ 0 → Completes (.doze g d a) s fun u =>
        SetsS s u d ((curSeq s).evcnt.setWidth 64) ∧ (curSeq u).evcnt = (curSeq s).evcnt - 1 ∧
        { curSeq u with s := (curSeq s).s, evcnt := (curSeq s).evcnt } = seqRetired (curSeq s) 1 ∧ OnlySeq s u) ∧
      (∀ t, (curSeq s).evcnt = 0 → curWait s = .since t → readS (curSeq s) a ≠ 0 →
        t + (readS (curSeq s) a).toNat ≤ s.cycle → Completes (.doze g d a) s fun u => WritesS s u d 0 1)) ∧
    (∀ t n, waitingInstr s c k = (t, some (.doze g d a)) → t.cur = .seq c k → (curSeq t).evcnt = 0 →
      curWait t = .since n → readS (curSeq t) a ≠ 0 → n + (readS (curSeq t) a).toNat ≤ t.cycle →
      Completes (.dozeTimeout c k) s fun u => WritesS t { u with cur := .seq c k } d 0 1 ∧ u.cur = s.cur) ∧
    (∀ p, s.packets = [p] → p.load = .poke c (ctxOf s c k).task → p.node = p.dst →
      (ctxOf s c k).r.state = .running → Completes (.pokeDeliver c k) s fun u =>
        (ctxOf u c k).seq = { (ctxOf s c k).seq with
          evcnt := if (ctxOf s c k).seq.evcnt = 0xFFFF then 0xFFFF else (ctxOf s c k).seq.evcnt + 1 } ∧ u.packets = [])

namespace Sys2Proof.Claims
/-- System registers that every sequencer reads alike, with their values (R243). -/
def commonRegs (s : State) : List (Half × Word) :=
  let q := curSeq s
  let level (n : Nat) : Word := match (q.loops.reverse)[n]? with | some f => f.lc.setWidth 64 | none => 0
  [(0x10, (readLC q 0).setWidth 64), (0x11, (readLC q 1).setWidth 64), (0x12, (readLC q 2).setWidth 64),
   (0x13, BitVec.ofNat 64 q.loops.length + level 0 * 4 + level 1 * 16 + level 2 * 64),
   (0x20, BitVec.ofNat 64 s.cycle), (0x21, tickNow s), (0x30, q.qtmo), (0x31, q.evcnt.setWidth 64), (0x40, q.fpxen)]
/-- A register write that retires: the executing sequencer is as after the retirement of `q`. -/
def Becomes (s t : State) (q : Seq) : Prop := curSeq t = seqRetired q 1 ∧ OnlySeq s t
end Sys2Proof.Claims

/-- R243, R310: MFSR gives the named register; MTSR writes LC0–LC2, QTMO, FPXEN and, in a context, the handle registers, of
which bits [63:16] are ignored; on a service core it writes HPC and HCAUSE. -/
def Sys2Proof.Claims.SystemRegisters : Prop :=
  ∀ (s : State) (d a : Reg), seqActs s = true →
    let q := curSeq s
    let v := readS q a
    (q.loops.length ≤ 3 → ∀ x ∈ commonRegs s, Completes (.mfsr d x.1) s fun t => WritesS s t d x.2 1) ∧
    (∀ c k, s.cur = .seq c k →
      (c < 224 → k < 4 → Completes (.mfsr d 0) s fun t => ∃ w : Word, WritesS s t d w 1 ∧
        field w 52 12 = asidOf (ctxOf s c k) ∧ field w 44 8 = c ∧ field w 42 2 = k ∧ field w 16 26 = 0 ∧
        field w 0 16 = (ctxOf s c k).r.key.toNat) ∧
      Completes (.mfsr d 1) s (fun t => WritesS s t d (ctxOf s c k).r.xlroot 1) ∧
      (∀ h : HReg, Completes (.mfsr d (0x50 + h.setWidth 16)) s (fun t => WritesS s t d ((readH q h).setWidth 64) 1) ∧
        Completes (.mtsr a (0x50 + h.setWidth 16)) s fun t => Becomes s t (writeH q h (v.setWidth 16)))) ∧
    (∀ n, s.cur = .svc n →
      Completes (.mfsr d 0) s (fun t => WritesS s t d 0 1) ∧ Completes (.mfsr d 1) s (fun t => WritesS s t d 0 1) ∧
      Completes (.mfsr d 0x80) s (fun t => WritesS s t d (svcOf s n).hpc 1) ∧
      Completes (.mfsr d 0x81) s (fun t => WritesS s t d (svcOf s n).hcause 1) ∧
      Completes (.mfsr d 0x82) s (fun t => WritesS s t d (svcOf s n).hvec 1) ∧
      Completes (.mtsr a 0x80) s (fun t => (svcOf t n).hpc = v ∧ Retires s t 1) ∧
      Completes (.mtsr a 0x81) s (fun t => (svcOf t n).hcause = v ∧ Retires s t 1) ∧
      (v.toNat % 4 = 0 → Completes (.mtsr a 0x82) s fun t => (svcOf t n).hvec = v ∧ Retires s t 1)) ∧
    Completes (.mtsr a 0x10) s (fun t => Becomes s t (writeLC q 0 (v.setWidth 32))) ∧
    Completes (.mtsr a 0x11) s (fun t => Becomes s t (writeLC q 1 (v.setWidth 32))) ∧
    Completes (.mtsr a 0x12) s (fun t => Becomes s t (writeLC q 2 (v.setWidth 32))) ∧
    Completes (.mtsr a 0x30) s (fun t => Becomes s t { q with qtmo := v }) ∧
    (v &&& ~~~0x3E = 0 → Completes (.mtsr a 0x40) s fun t => Becomes s t { q with fpxen := v })

/-- R7, R243: MTSR to a read-only register, and to FPXEN with a bit outside [5:1], raises ILLOP; in a job context a write of
XLROOT and any access to HPC, HCAUSE or HVEC raises PRIV, and HRET, TLBINV.ALL, CTXSAVE and CTXREST do. -/
def Sys2Proof.Claims.PrivilegedAndReadOnly : Prop :=
  ∀ (s : State) (g : Guard) (d a b : Reg), seqActs s = true →
    (∀ n ∈ ([0x0, 0x13, 0x20, 0x21, 0x31] : List Half), Completes (.mtsr a n) s fun t => Trapped s t .illop) ∧
    (readS (curSeq s) a &&& ~~~0x3E ≠ 0 → Completes (.mtsr a 0x40) s fun t => Trapped s t .illop) ∧
    (∀ c k, s.cur = .seq c k →
      let priv (i : Instr) : Prop := Completes i s fun t => Trapped { s with vlogs := t.vlogs } t .priv
      priv (.mtsr a 1) ∧ (∀ n ∈ ([0x80, 0x81, 0x82] : List Half), priv (.mfsr d n) ∧ priv (.mtsr a n)) ∧
      (guardHolds (curSeq s) g = true → priv (.hret g) ∧ priv (.ctxsave g d a b) ∧ priv (.ctxrest g d a b) ∧
        (∀ z : Scope, z ≠ .pod → priv (.tlbinvAll g z))))

/-- System registers, and what R7 forbids (R7, R243, R310). -/
def Obligations.SystemRegistersAndPrivilege : Prop :=
  Claims.SystemRegisters ∧ Claims.PrivilegedAndReadOnly

namespace Sys2Proof.Claims
/-- A TLBINV has removed the entries that `drop` picks from the TLBs of cores and of their bays, and no other, and has
retired (R255). -/
def Invalidated (s t : State) (cores : List Nat) (drop : TlbEntry → Bool) : Prop :=
  let kept (b : Tlb) : Tlb := { b with ways := b.ways.filter fun e => !drop e.2 }
  (∀ d, (coreOf t d).utlb = if d ∈ cores then kept (coreOf s d).utlb else (coreOf s d).utlb) ∧
  (∀ i, lookD t.btlb i Tlb.reset = if i / 512 ∈ cores.map coreBay then kept (lookD s.btlb i Tlb.reset)
    else lookD s.btlb i Tlb.reset) ∧ Retires s t 1 ∧ t.hbm = s.hbm
/-- Whether an entry covers an address for an ASID, G entries included (R17, R255). -/
def covers (asid : Nat) (va : Word) (e : TlbEntry) : Bool :=
  decide (va.toNat < 2 ^ 48) && (e.leaf.getLsbD 52 || e.asid.toNat == asid) &&
    va.toNat / 4096 / 2 ^ e.span == e.vpn / 2 ^ e.span
/-- Whether an entry belongs to an ASID and is no G entry. -/
def ownedBy (asid : Nat) (e : TlbEntry) : Bool := e.asid.toNat == asid && !e.leaf.getLsbD 52
end Sys2Proof.Claims

/-- R255, R256: TLBINV removes, on the issuer's scope instance, the entries of its mode, and retires once nothing translated
with them is under way; ICINV drops the page of S[a], as large as the tables make it, or everything, of the context's ASID from the instruction cache, the
configuration cache and the exit predictor. -/
def Obligations.Invalidations : Prop :=
  ∀ (s : State) (g : Guard) (z : Scope) (a b : Reg), guardHolds (curSeq s) g = true → s.reqs = [] →
    (∀ c k, s.cur = .seq c k → z ≠ .pod →
      Completes (.tlbinv g z a 0) s (fun t =>
        Invalidated s t (scopeCores z c) (covers (asidOf (ctxOf s c k)) (readS (curSeq s) a))) ∧
      Completes (.tlbinvAsid g z 0) s (fun t => Invalidated s t (scopeCores z c) (ownedBy (asidOf (ctxOf s c k))))) ∧
    (∀ n, s.cur = .svc n →
      ((readS (curSeq s) b).toNat < 4096 →
        Completes (.tlbinv g .dev a b) s (fun t =>
          Invalidated s t (List.range 224) (covers (readS (curSeq s) b).toNat (readS (curSeq s) a))) ∧
        Completes (.tlbinvAsid g .dev b) s (fun t =>
          Invalidated s t (List.range 224) (ownedBy (readS (curSeq s) b).toNat))) ∧
      Completes (.tlbinvAll g .dev) s (fun t => Invalidated s t (List.range 224) fun _ => true)) ∧
    (∀ c k, s.cur = .seq c k →
      let asid := asidOf (ctxOf s c k)
      let size := 4096 * 2 ^ pageSpan s (readS (curSeq s) a)
      let gone (key : Nat) : Bool := key % 4096 == asid && key / 4096 / size == (readS (curSeq s) a).toNat / size
      Completes (.icinv g a) s (fun t =>
        (coreOf t c).icache = (coreOf s c).icache.filter (fun e => !gone e.1) ∧
        (coreOf t c).ccache = (coreOf s c).ccache.filter (fun e => !gone e.1) ∧
        (coreOf t c).pred = (coreOf s c).pred.filter (fun e => !gone e.1) ∧ Retires s t 1) ∧
      Completes (.icinvAll g) s (fun t =>
        (coreOf t c).icache = (coreOf s c).icache.filter (fun e => !(e.1 % 4096 == asid)) ∧
        (coreOf t c).ccache = (coreOf s c).ccache.filter (fun e => !(e.1 % 4096 == asid)) ∧
        (coreOf t c).pred = (coreOf s c).pred.filter (fun e => !(e.1 % 4096 == asid)) ∧ Retires s t 1))

/-- R257, R408, R423, R424: CLAMP retires, stops its sequencer and requests the job's clamp wave with cause BRKPT; TRCON and
TRCOFF set the enabled trace classes, TRCON refusing bits it does not name; TRMARK adds a MARK record with S[a]. -/
def Sys2Proof.Claims.ClampAndTrace : Prop :=
  ∀ (s : State) (c k : Nat) (g : Guard) (a : Reg), s.cur = .seq c k → guardHolds (curSeq s) g = true →
    let v := readS (curSeq s) a
    Completes (.clamp g) s (fun t => curSeq t = seqRetired (curSeq s) 1 ∧ (ctxOf t c k).trap ≠ none ∧
      seqRuns t c k = false ∧ (∃ r, (jobOf t (asidOf (ctxOf s c k))).raised =
        (jobOf s (asidOf (ctxOf s c k))).raised ++ [r] ∧ r.cause = .brkpt ∧ r.unit = 0 ∧ r.core = c ∧ r.ctx = k) ∧
      t.hbm = s.hbm) ∧
    (v.toNat < 2 ^ 13 → Completes (.trcon g a) s fun t =>
      (∀ e < 12, (ctxOf t c k).trace.getLsbD e = v.getLsbD e) ∧ Retires s t 1 ∧ t.hbm = s.hbm) ∧
    (v.toNat ≥ 2 ^ 13 → Completes (.trcon g a) s fun t => Trapped s t .illop) ∧
    Completes (.trcoff g) s (fun t => (ctxOf t c k).trace = 0 ∧ Retires s t 1 ∧ t.hbm = s.hbm) ∧
    ((coreOf s c).trbuf.length < 64 → k < 4 → Completes (.trmark g a) s fun t =>
      ∃ r, (coreOf t c).trbuf = (coreOf s c).trbuf ++ [r] ∧ field r.w0 60 4 = 11 ∧
        field r.w0 48 12 = asidOf (ctxOf s c k) ∧ field r.w0 46 2 = k ∧ r.w2 = 0 ∧ r.w3 = v ∧
        field r.w1 0 32 = s.cycle % 2 ^ 32 ∧ Retires s t 1 ∧ t.hbm = s.hbm)

/-- POKE and DOZE, CLAMP and the trace instructions (R254, R257, R408, R423, R424). -/
def Obligations.PokesClampsAndTrace : Prop :=
  Claims.PokesAndDozes ∧ Claims.ClampAndTrace

/-! ### Queues, tasks and members -/
namespace Sys2Proof.Claims
/-- A queue open to the executing job in a direction, and an operand that names it (R253). -/
def Opens (s : State) (c k : Nat) (a : Reg) (push : Bool) : Prop :=
  (readS (curSeq s) a).toNat < 128 ∧ queueOpen s c k (readS (curSeq s) a).toNat push = true
/-- The queue with a number is now `q`; every other queue is as before. -/
def NowQueue (s t : State) (n : Nat) (q : Queue) : Prop :=
  queueOf t n = q ∧ ∀ m, m ≠ n → queueOf t m = queueOf s m
/-- Hides the queues. -/
def hideQueues (s : State) : State := { s with queues := [] }
/-- A queue whose head has left it: what was counted for the head starts anew. -/
def withoutHead (q : Queue) : Queue :=
  { q with packets := q.packets.drop 1, checked := false, eprio := qPrio q, skips := 0, fails := 0, resv := none
           early := [] }
end Sys2Proof.Claims

/-- R253, R389: QPUSH appends the packet at S[b] and gives 0, or gives 1 when 64 packets wait; QPUSHW appends and retires;
QPOP stores the head packet, removes it and gives 1, or gives 0 when there is none; QSTAT reads the queue. -/
def Sys2Proof.Claims.QueueInstructions : Prop :=
  ∀ (s t : State) (c k : Nat) (g : Guard) (d a b : Reg) (p : Phys), s.cur = .seq c k →
    guardHolds (curSeq s) g = true → Canonical s = true → Calm s →
    let n := (readS (curSeq s) a).toNat
    let va := readS (curSeq s) b
    let q := queueOf s n
    (Opens s c k a true → Reaches s va 64 needLoad t p → Clean t p 64 →
      (q.packets.length < 64 →
        Completes (.qpush g d a b) s (fun u => NowQueue s u n { q with packets := q.packets ++ [recordAt t p 8] } ∧
          SetsS s u d 0 ∧ RetiresButS s u 1 ∧ SameMemory t u) ∧
        Completes (.qpushw g a b) s (fun u => NowQueue s u n { q with packets := q.packets ++ [recordAt t p 8] } ∧
          Retires s u 1 ∧ SameMemory t u)) ∧
      (q.packets.length ≥ 64 → Completes (.qpush g d a b) s fun u =>
        SetsS s u d 1 ∧ RetiresButS s u 1 ∧ u.queues = s.queues ∧ SameMemory t u)) ∧
    (Opens s c k a false →
      (∀ h r, q.packets = h :: r → h.length = 8 → Reaches s va 64 needStore t p →
        Completes (.qpop g d a b) s fun u =>
          recordAt u p 8 = h ∧ MemoryBut t u p 64 ∧ NowQueue s u n (withoutHead q) ∧ SetsS s u d 1 ∧
          RetiresButS s u 1) ∧
      (q.packets = [] → va.toNat % 64 = 0 → Completes (.qpop g d a b) s fun u => WritesS s u d 0 1)) ∧
    (n < 128 → q.packets.length ≤ 64 → Completes (.qstat g d a) s fun u => ∃ w : Word, WritesS s u d w 1 ∧
      field w 0 7 = q.packets.length ∧ w.getLsbD 7 = decide (q.packets.length = 64) ∧
      w.getLsbD 8 = queueOpen s c k n true ∧ w.getLsbD 9 = queueOpen s c k n false ∧ field w 10 3 = qPrio q ∧
      field w 13 51 = 0)

/-- R253, R389: a queue not open to the job raises PERM and makes a violation log entry; a QPUSHW that has waited QTMO cycles
for a full queue raises QFULLTMO. -/
def Sys2Proof.Claims.QueueTraps : Prop :=
  ∀ (s : State) (c k : Nat) (g : Guard) (d a b : Reg),
    (s.cur = .seq c k → guardHolds (curSeq s) g = true → (readS (curSeq s) a).toNat < 128 →
      (readS (curSeq s) b).toNat % 64 = 0 →
      let n := (readS (curSeq s) a).toNat
      let perm (i : Instr) : Prop := Completes i s fun t =>
        Trapped { s with vlogs := t.vlogs } t .perm ∧ (lookD s.vlogs (coreDie c) VLog.reset = VLog.reset →
          ∃ w, look (lookD t.vlogs (coreDie c) VLog.reset).entries 0 = some w ∧ field w.1 0 52 = n ∧
            field w.2 56 8 = 5 ∧ w.2.getLsbD 0 = true)
      (queueOpen s c k n true = false → perm (.qpush g d a b)) ∧ (queueOpen s c k n false = false → perm (.qpop g d a b)) ∧
      (∀ t, curWait s = .since t → (queueOf s n).packets.length ≥ 64 → (curSeq s).qtmo ≠ 0 →
        t + (curSeq s).qtmo.toNat ≤ s.cycle → Completes (.qpushw g a b) s fun u => Trapped s u .qfulltmo)) ∧
    (∀ t n, waitingInstr s c k = (t, some (.qpushw g a b)) → t.cur = .seq c k → curWait t = .since n →
      (readS (curSeq t) a).toNat < 128 → (queueOf t (readS (curSeq t) a).toNat).packets.length ≥ 64 →
      (curSeq t).qtmo ≠ 0 → n + (curSeq t).qtmo.toNat ≤ t.cycle →
      Completes (.qpushwTimeout c k) s fun u => Trapped t { u with cur := .seq c k } .qfulltmo ∧ u.cur = s.cur)

/-- Queue instructions, and their traps (R253, R389). -/
def Obligations.QueuesPushedAndPopped : Prop :=
  Claims.QueueInstructions ∧ Claims.QueueTraps

namespace Sys2Proof.Claims
/-- A packet stands at the head of an enabled queue, checked (R382), of a TYPE. -/
def AtHead (s : State) (n : Nat) (p : List Word) (type : Nat) : Prop :=
  (∃ r, (queueOf s n).packets = p :: r) ∧ (queueOf s n).qcfg.getLsbD 41 = true ∧ (queueOf s n).checked = true ∧
  pkType p = type
/-- No task is over that has not retired, no job of the queue's is held and none keeps a checkpoint. -/
def Settled (s : State) (n : Nat) : Prop :=
  (∀ t ∈ s.tasks, t.over = false) ∧ jobHeld s (qAsid (queueOf s n)) = false ∧
  (jobOf s (qAsid (queueOf s n))).ckValid = false
end Sys2Proof.Claims

/-- R382, R384: a packet at the head is refused with its reason, which the queue keeps, and an MSI-X message, and leaves; or
is taken into service. A MARK sets QMARK and leaves. A WAITSIG leaves when its word is at least v, and is read again after
1,024 cycles. A SIGNAL leaves and adds to its word once the queue's earlier tasks have retired. -/
def Sys2Proof.Claims.PacketsAtHead : Prop :=
  ∀ (s : State) (n : Nat) (p : List Word), let q := queueOf s n
    (∀ r, q.packets = p :: r → q.qcfg.getLsbD 41 = true → q.checked = false →
      (∀ m, checkPacket s n q p = m → 0 < m → m < 256 → Completes (.packetAtHead n) s fun t =>
        NowQueue s t n (withoutHead { q with refuse := BitVec.ofNat 8 m }) ∧
        t.events = s.events ++ [.msix (qFunc q) 0] ∧ { t with queues := s.queues, events := s.events } = s) ∧
      (checkPacket s n q p = 0 → pkType p = 1 ∨ pkType p = 2 ∨ pkType p = 3 ∨ pkType p = 5 →
        Completes (.packetAtHead n) s fun t =>
          (queueOf t n).checked = true ∧ (queueOf t n).packets = q.packets ∧ hideQueues t = hideQueues s) ∧
      (checkPacket s n q p = 0 → pkType p = 6 → Settled s n → Completes (.packetAtHead n) s fun t =>
        (queueOf t n).qmark = pw p 1 ∧ (queueOf t n).packets = r)) ∧
    (AtHead s n p 4 → Settled s n → q.polled + 1024 ≤ s.cycle → s.hbmStacks = [] → s.reqs = [] →
      ∀ t a, signalAt s (jobRoot s (qAsid q)) (field (pw p 1) 0 48) false = (t, some a) → Clean t a 8 →
        Completes (.waitsigPoll n) s fun u =>
          (if (pw p 2).toNat ≤ numberAt t a 8 then (queueOf u n).packets = q.packets.drop 1
           else (queueOf u n).packets = q.packets ∧ (queueOf u n).polled = s.cycle) ∧ SameMemory t u) ∧
    (AtHead s n p 5 → Settled s n → s.queues = [(n, q)] → q.started = [] → Canonical s = true →
      s.hbmStacks = [] → s.reqs = [] →
      ∀ t a, signalAt (popHead s n) (jobRoot s (qAsid q)) (field (pw p 1) 0 48) true = (t, some a) → Clean t a 8 →
        Completes (.signalPerform n) s fun u =>
          (queueOf u n).packets = q.packets.drop 1 ∧
          numberAt u a 8 = (numberAt t a 8 + (pw p 2).toNat) % 2 ^ 64 ∧ MemoryBut t u a 8)

/-- R391–R393, R430: a PHASE at the head, once the job's tasks have retired, leaves and, at levels 1 and 2, advances the phase
by 1, raising PHASECONF when two of them conflict; a DETLEVEL sets the level, level 2 at the next boundary. -/
def Sys2Proof.Claims.PhasesAndLevels : Prop :=
  ∀ (s : State) (n : Nat) (p : List Word), let q := queueOf s n
    let j := jobOf s (qAsid q)
    let mine := s.tasks.filter fun x => x.asid.toNat == qAsid q
    (AtHead s n p 2 → Settled s n → (∀ t ∈ mine, t.retired = true) →
      Completes (.phaseEnd n) s fun u =>
        (queueOf u n).packets = q.packets.drop 1 ∧ u.hbm = s.hbm ∧
        (∀ t ∈ u.tasks, t.asid.toNat ≠ qAsid q) ∧
        (if j.want = 0 then jobOf u (qAsid q) = j
         else (jobOf u (qAsid q)).phase = j.phase + 1 ∧
          (if (firstConflict mine).isSome
           then ∃ r, (jobOf u (qAsid q)).raised = j.raised ++ [r] ∧ r.cause = .phaseconf ∧ r.unit = 7
           else (jobOf u (qAsid q)).raised = j.raised))) ∧
    (AtHead s n p 3 → Settled s n → (∀ t ∈ q.early, taskOpen s t = false) → Completes (.detlevelApply n) s fun u =>
      (queueOf u n).packets = q.packets.drop 1 ∧ u.hbm = s.hbm ∧
      (if field (pw p 0) 0 2 = 2 then (jobOf u (qAsid q)).levelNext = some 2 ∧ (jobOf u (qAsid q)).level = j.level
       else (jobOf u (qAsid q)).level = BitVec.ofNat 2 (field (pw p 0) 0 2) ∧ (jobOf u (qAsid q)).levelNext = none))

/-- R393: two tasks conflict exactly when one's write signature meets the other's reads or writes; the pair found first has
the lower-numbered task that conflicts with a later one. -/
def Sys2Proof.Claims.ConflictsAreFound : Prop :=
  ∀ l : List Task,
    (firstConflict l = none ↔ l.Pairwise fun a b => a.wsig &&& (b.rsig ||| b.wsig) = 0 ∧ b.wsig &&& (a.rsig ||| a.wsig) = 0) ∧
    (∀ t, firstConflict l = some t → ∃ l1 l2, l = l1 ++ t :: l2 ∧ (∃ u ∈ l2, conflict t u = true) ∧
      ∀ x l3 l4, l1 = l3 ++ x :: l4 → ∀ y ∈ l4 ++ t :: l2, conflict x y = false)

/-- The dispatcher (R382, R384, R391–R393, R430): packets, phases, levels and conflicts. -/
def Obligations.DispatcherWork : Prop :=
  Claims.PacketsAtHead ∧ Claims.PhasesAndLevels ∧ Claims.ConflictsAreFound

/-- R383–R386, R388: when the LAUNCH of the one queue that can start fits an instance, a task starts there: its packet leaves,
and on each core of the instance its member stands in a free slot at ENTRY, with ARG in S1, its tables, tenant, fault ring,
overflow region, and colour 0. -/
def Sys2Proof.Claims.LaunchStartsMembers : Prop :=
  ∀ (s : State) (n i : Nat) (p : List Word), AtHead s n p 1 → Settled s n → n < 128 → s.lastStart ≤ s.cycle →
    (∀ m, m ≠ n → startable s m = none) → startable s n = some p → fitsIn s n p = some i →
    (tierCores (pkTier p) i).Nodup →
    Completes .dispatchDecision s fun t =>
      (queueOf t n).packets = (queueOf s n).packets.drop 1 ∧ t.lastStart = s.cycle + 16 ∧ t.nextTask = s.nextTask + 1 ∧
      (∃ task, t.tasks = s.tasks ++ [task] ∧ task.id = s.nextTask ∧ task.cores = tierCores (pkTier p) i ∧
        task.queue = n ∧ task.asid.toNat = qAsid (queueOf s n) ∧ task.done = field (pw p 6) 0 48 ∧ task.ended = []) ∧
      (∀ m c, (tierCores (pkTier p) i)[m]? = some c → ∃ k, freeSlot (coreOf s c) = some k ∧
        let x := ctxOf t c k
        x.r.state = .running ∧ x.r.xlroot = pw p 2 ∧ x.r.tenant.toNat = qFunc (queueOf s n) ∧
        field x.r.ovfbase 0 52 = (pkArea p m + 0x40000 + 1) % 2 ^ 52 ∧
        field x.r.fqctl 0 52 = (pkArea p m + 0x50000 + 2 * field (pw p 3) 0 2 + 1) % 2 ^ 52 ∧
        x.seq.pc.toNat = field (pw p 1) 0 48 ∧ readS x.seq 1 = pw p 5 ∧
        (∀ r, r ≠ 1 → readS x.seq r = 0) ∧ x.seq.p = 0 ∧ x.seq.loops = [] ∧ readH x.seq 0 = 0xFFFF ∧ x.seq.evcnt = 0 ∧
        x.task = s.nextTask ∧ x.member = m ∧
        look x.colours 0 = some (min (pkWidth p) (4 * pkQuota p), false)) ∧ t.hbm = s.hbm

/-- R388, R399: a member whose HALT has retired and which has nothing under way ends: its slot is FREE and its task counts it;
a context without progress for LIMIT cycles traps WATCHDOG with UNIT 7. -/
def Sys2Proof.Claims.MembersEnd : Prop :=
  ∀ (s : State) (c k : Nat), let x := ctxOf s c k
    ((∀ t ∈ s.tasks, t.over = false) → s.reqs = [] → s.bufreqs = [] → x.seq.stopped = true → x.r.state = .running → x.trap = none →
      instancesDone x = true → enginesDone s c k = true →
      (∀ t, taskOf s x.task = some t → t.ended.length + 1 < t.cores.length) →
      Completes (.memberEnd c k) s fun u =>
        (ctxOf u c k).r.state = .free ∧ (ctxOf u c k).quota = 0 ∧ (ctxOf u c k).colours = [] ∧
        (∀ t, taskOf s x.task = some t → taskOf u x.task = some { t with ended := t.ended ++ [x.member] }) ∧
        u.hbm = s.hbm) ∧
    (x.r.state = .running → x.trap = none → x.r.wdlim ≠ 0 → x.progress + x.r.wdlim.toNat ≤ s.cycle →
      Completes (.watchdogExpire c k) s fun u =>
        (ctxOf u c k).trap = some (plainTrap .watchdog 7) ∧ field (ctxOf u c k).r.traprec 56 8 = 15 ∧
        field (ctxOf u c k).r.traprec 53 3 = 7 ∧ (ctxOf u c k).seq = x.seq ∧
        (∃ r, (jobOf u (asidOf x)).raised = (jobOf s (asidOf x)).raised ++ [r] ∧ r.cause = .watchdog ∧ r.unit = 7) ∧
        u.hbm = s.hbm)

/-- Members of a task (R383–R386, R388, R399): how they start and end. -/
def Obligations.MembersStartAndEnd : Prop :=
  Claims.LaunchStartsMembers ∧ Claims.MembersEnd

/-- R402, R407: the drain stage of gating ends after 1,024 cycles or with nothing matched or in flight; the stop stage ends
with the stranded tokens captured; the tree then reports the context QUIESCENT. -/
def Sys2Proof.Claims.QuiescenceStages : Prop :=
  ∀ (s : State) (c k : Nat), (ctxOf s c k).r.state = .gated →
    let x := ctxOf s c k
    (x.gates = 1 → (x.gateAt + 1024 ≤ s.cycle ∨ (wayMatched (coreOf s c) k = false ∧ wayFiring (coreOf s c) k = false)) →
      Completes (.quiescenceDrainEnd c k) s fun t =>
        t = modCtx s c k fun y => { y with gates := 2, gateAt := s.cycle }) ∧
    (x.gates = 2 → deliveryPending (coreOf s c) k = false → x.insts = [] → x.r.ovfbase.getLsbD 0 = false →
      Completes (.quiescenceStopEnd c k) s fun t =>
        (ctxOf t c k).gates = 3 ∧ (ctxOf t c k).seq = x.seq ∧ t.hbm = s.hbm ∧
        (∀ f, stranded (coreOf s c) k = [(none, f)] → ckptUsed x + ckptBytes f.tok ≤ 16384 →
          (ctxOf t c k).ckpt = x.ckpt ++ [f]) ∧
        (∀ e m, m ∈ (elemOf t c e).store → m.way ≠ k) ∧
        (∀ e r, r ∈ (elemOf t c e).ready → r.way ≠ k)) ∧
    (x.gates = 3 → Completes (.quiescenceReport c k) s fun t =>
      (ctxOf t c k).r.state = .quiescent ∧ (ctxOf t c k).seq = x.seq ∧ t.hbm = s.hbm)

/-- R257, R403–R407: CTXSAVE of a quiescent context starts its save and gives its key once it is saved; the save writes its sections to the
member area and frees the slot, keeping the context under its key; CTXREST takes the lowest free slot and gives it once the
restore, which puts back the state held before, is complete. -/
def Sys2Proof.Claims.SaveAndRestore : Prop :=
  ∀ (s : State) (g : Guard) (d a b : Reg) (n c k : Nat) (key : Half),
    (s.cur = .svc n → guardHolds (curSeq s) g = true → readS (curSeq s) a = BitVec.ofNat 64 c → c < 224 → k < 4 →
      (curWait s = .none → readS (curSeq s) b = BitVec.ofNat 64 k → (ctxOf s c k).r.state = .quiescent →
        Completes (.ctxsave g d a b) s fun t => curWait t = .saving c (ctxOf s c k).r.key ∧
          (ctxOf t c k).r.state = .saving) ∧
      (curWait s = .saving c key → keySlot s c key = none → (∃ v ∈ (coreOf s c).saved, v.key = key) →
        Completes (.ctxsave g d a b) s fun t => WritesS s t d (key.setWidth 64) 1) ∧
      (∀ v, curWait s = .none → readS (curSeq s) b = v.key.setWidth 64 → (coreOf s c).saved = [v] → v.ctx.pending = [] →
        freeSlot (coreOf s c) = some k → (jobOf s (asidOf v.ctx)).clamped = false →
        quotaSum (coreOf s c) + v.ctx.quota ≤ 64 →
        Completes (.ctxrest g d a b) s fun t => curWait t = .restoring v.key ∧ (coreOf t c).saved = [] ∧
          (ctxOf t c k).r.state = .restoring ∧ (ctxOf t c k).seq = v.ctx.seq ∧ (ctxOf t c k).r.key = v.ctx.r.key) ∧
      (curWait s = .restoring key → keySlot s c key = some k → (ctxOf s c k).r.state ≠ .restoring →
        Completes (.ctxrest g d a b) s fun t => WritesS s t d (BitVec.ofNat 64 k) 1)) ∧
    (let x := ctxOf s c k
     x.r.state = .saving → enginesQuiet s c k = true → s.reqs = [] → s.bufreqs = [] → s.hbmStacks = [] → x.late = [] →
      x.lam = [] → x.places = [] → x.binds = [] →
      (coreOf s c).elems = [] → (coreOf s c).smPair = none → x.area % 1048576 = 0 → isHbm x.area = true →
      isHbm (x.area + 1048575) = true → s.poison = [] → Canonical s = true →
      Completes (.contextSaved c k) s fun t =>
        (ctxOf t c k).r.state = .free ∧
        (∃ v, (coreOf t c).saved = (coreOf s c).saved ++ [v] ∧ v.key = x.r.key ∧ v.ctx.seq = x.seq ∧
          v.ctx.r.state = .saved ∧ v.ctx.colours = x.colours) ∧
        readLE t.hbm (x.area + 0xF8) 8 = x.r.key.toNat ∧ readLE t.hbm x.area 8 = x.r.xlroot.toNat ∧
        readLE t.hbm (x.area + 0x48) 8 = x.r.traprec.toNat) ∧
    (let x := ctxOf s c k
     x.r.state = .restoring → x.side = none → x.image = 0 → x.places = [] → x.insts = [] → x.r.prev = .gated →
      readLE s.hbm (x.area + 0x60000) 8 < 2 ^ 63 →
      (jobOf s (asidOf x)).clamped = false → Completes (.restoreComplete c k) s fun t =>
        (ctxOf t c k).r.state = .gated ∧ (ctxOf t c k).seq = x.seq ∧ (ctxOf t c k).progress = s.cycle ∧ t.hbm = s.hbm)

/-- Quiescence, saving and restoring (R257, R402–R407). -/
def Obligations.ContextsSavedAndRestored : Prop :=
  Claims.QuiescenceStages ∧ Claims.SaveAndRestore

/-! ### Blocks, fabric commands and streams -/
namespace Sys2Proof.Claims
/-- Hides a context; a core. -/
def hideCtx (c k : Nat) (s : State) : State := modCtx s c k fun _ => Ctx.reset
def hideCore (c : Nat) (s : State) : State := setCore s c Core.reset
/-- Only context `k` of core `c` differs. -/
def OnlyCtx (s t : State) (c k : Nat) : Prop := hideCtx c k t = hideCtx c k s
/-- A new instance: of a placement and a tag, live, with nothing done (R158). -/
def Fresh (i : Inst) (p : Placement) (col : Byte) (n : Half) : Prop :=
  i.place = p.id ∧ i.va = p.va ∧ i.colour = col ∧ i.iter = n ∧ i.state = .live ∧ i.effects = [] ∧ i.fired = 0 ∧
  i.trap = none ∧ i.fault = none
/-- One more instance stands in the age order of a context: last, but before those of its cycle that R158 puts after it; the
context's registers are as before. -/
def MadeInst (s t : State) (c k : Nat) (p : Placement) (col : Byte) (n : Half) : Prop :=
  ∃ i l m, (ctxOf t c k).insts = l ++ i :: m ∧ (ctxOf s c k).insts = l ++ m ∧
    (∀ j, m.head? = some j → j.born = s.cycle ∧ agesBefore (ctxOf s c k) i j = true) ∧
    (∀ j ∈ l, ¬(j.born = s.cycle ∧ agesBefore (ctxOf s c k) i j = true)) ∧ Fresh i p col n ∧ (ctxOf t c k).places = (ctxOf s c k).places ∧
    (ctxOf t c k).r = (ctxOf s c k).r ∧ hideCore c t = hideCore c s
/-- The operands of a block command: a block address of 128 bytes, and a colour that is ACTIVE. -/
def BlockOperands (s : State) (c k : Nat) (a col : Reg) : Prop :=
  (readS (curSeq s) a).toNat % 128 = 0 ∧ (readS (curSeq s) col).toNat < 256 ∧
  colourActive (ctxOf s c k) ((readS (curSeq s) col).extractLsb' 0 8) = true
end Sys2Proof.Claims

/-- R162, R259: BLKRUN of count 0 retires at once; of a placed block it creates an instance for its first iteration and,
while more are to come, waits with the next one, as INSTANCE_CREATE does; with CHAIN the chain takes the colour's next
iteration. A block that is not placed is asked of the jig. BLKPIN and BLKUNPIN retire when the block is placed under the
pin, and when the placement is gone. JIGMAP stores the map words. -/
def Sys2Proof.Claims.BlockCommands : Prop :=
  ∀ (s : State) (c k : Nat) (a b col : Reg) (h : Bool) (p : Placement), s.cur = .seq c k → curWait s = .none → Calm s →
    let x := ctxOf s c k
    let va := (readS (curSeq s) a).toNat
    let n := field (readS (curSeq s) b) 16 16
    let first : Half := (readS (curSeq s) b).extractLsb' 0 16
    let w : Byte := (readS (curSeq s) col).extractLsb' 0 8
    (BlockOperands s c k a col → (readS (curSeq s) b).toNat < 2 ^ 32 →
      (n = 0 → Completes (.blkrun a b col false) s fun t => Retires s t 1 ∧ OnlySeq s t) ∧
      (placedAt x va = some p → placeOf x p.id = some p → mayCreate s c k w first = true →
        (n = 1 → Completes (.blkrun a b col false) s fun t => MadeInst s t c k p w first ∧ Retires s t 1) ∧
        (2 ≤ n → Completes (.blkrun a b col false) s fun t => MadeInst s t c k p w first ∧
          curSeq t = { curSeq s with wait := .creating p.id w false (first + 1) (n - 1) }) ∧
        (n = 1 → (∀ i ∈ x.insts, i.state ≠ .discarded) → Completes (.blkrun a b col true) s fun t =>
          MadeInst s t c k p w first ∧ Retires s t 1 ∧
          (ctxOf t c k).chain = some { colour := w, next := first + 1, active := true, waiting := none, predicted := none })) ∧
      (n = 1 → placedAt x va = none → x.jig = none → Completes (.blkrun a b col h) s fun t =>
        curSeq t = { curSeq s with wait := .placing } ∧ (ctxOf t c k).jig = some { va := va, pin := none, front := false } ∧
        OnlyCtx s t c k)) ∧
    (BlockOperands s c k a col → (readS (curSeq s) b).toNat < 16 → pinnedAt x (readS (curSeq s) b).toNat = none →
      (x.places = [p] → p.va = va → p.pin = none → Completes (.blkpin a b col) s fun t => Retires s t 1 ∧
        (ctxOf t c k).places = [{ p with pin := some ((readS (curSeq s) b).toNat, w) }] ∧ OnlyCtx s t c k)) ∧
    ((readS (curSeq s) b).toNat < 16 → pinnedAt x (readS (curSeq s) b).toNat = some p → (∀ i ∈ x.insts, i.place ≠ p.id) →
      Completes (.blkunpin b) s fun t => Retires s t 1 ∧ (∀ q, q ∈ (ctxOf t c k).places ↔ q ∈ x.places ∧ q.id ≠ p.id) ∧
        (ctxOf t c k).r = x.r ∧ hideCore c t = hideCore c s) ∧
    (∀ u o, va % 128 = 0 → placedAt x va = some p → p.map.length = 1 → Canonical s = true →
      Reaches s (readS (curSeq s) b) 4 needStore u o → Completes (.jigmap a b) s fun t => Retires s t 1 ∧
        numberAt t o 4 = (nth p.map 0 0).toNat ∧ MemoryBut u t o 4)

/-- R162, R259, R163: INSTANCE_CREATE makes the next instance of a BLKRUN under way, which retires with the last; the jig's
placement of a block whose attempt succeeds joins the context's placements and JIGSTAT reports SUCCESS; one that no
arrangement fits raises JIGFAIL; the front end of a chain creates the successor that its EXIT named. -/
def Sys2Proof.Claims.BlocksPlacedAndCreated : Prop :=
  ∀ (s : State) (c k : Nat), let x := ctxOf s c k
    (∀ id p w n left, seqRuns s c k = true → x.seq.wait = .creating id w false n left → placeOf x id = some p →
      mayCreate s c k w n = true → Completes (.instanceCreate c k) s fun t =>
        MadeInst s t c k p w n ∧ (left ≤ 1 → (ctxOf t c k).seq = seqRetired x.seq 1) ∧
        (1 < left → (ctxOf t c k).seq = { x.seq with wait := .creating id w false (n + 1) (left - 1) })) ∧
    (∀ j t b u, x.jig = some j → ctxMoves s c k = true → x.trap = none → readBlock s c k j.va = (t, .got b) →
      blockBad (ctxOf t c k).hportv b = false → fetchAll t c k (List.range 64) = (u, .got ()) →
      (∀ q, attempt (coreOf u c) k b = .ok q → ctxIn q.core k = ctxOf u c k → q.cycles < 2 ^ 32 → Completes (.jigPlacement c k) s fun v =>
        (∃ p, (ctxOf v c k).places = (ctxOf u c k).places ++ [p] ∧ p.va = j.va ∧ p.pin = j.pin ∧ p.map = q.map ∧
          p.count = b.count ∧ p.scount = b.scount) ∧
        (ctxOf v c k).jig = none ∧ field (ctxOf v c k).r.jigstat 56 8 = 0 ∧ (ctxOf v c k).r.jigstat.getLsbD 0 = false) ∧
      (∀ f, attempt (coreOf u c) k b = .error f → f.reason < 256 → f.index < 256 → f.cycles < 2 ^ 32 → (ctxOf u c k).places = [] → j.front = false →
        (ctxOf u c k).trap = none → Completes (.jigPlacement c k) s fun v =>
          (ctxOf v c k).jig = none ∧ field (ctxOf v c k).r.jigstat 56 8 = f.reason ∧
          (ctxOf v c k).trap = some (plainTrap .jigfail 0) ∧ (ctxOf v c k).places = [])) ∧
    (∀ h va p, x.chain = some h → regionMoves s c k = true → x.gates = 0 → x.trap = none → x.feStop = none →
      h.waiting = some va → (chainInsts x).length < 3 → placedAt x va = some p → mayCreate s c k h.colour h.next = true →
      (∀ i ∈ x.insts, i.state ≠ .discarded) → Completes (.frontEndFetch c k) s fun t =>
        MadeInst s t c k p h.colour h.next ∧
        (ctxOf t c k).chain = some { h with next := h.next + 1, waiting := none })

/-- Blocks (R162, R163, R259): the commands, and the jig that places them. -/
def Obligations.BlocksRun : Prop :=
  Claims.BlockCommands ∧ Claims.BlocksPlacedAndCreated

/-- R187, R260: CFGSWAP of 0, with nothing pinned, no binding at hard ports, no operation bound and nothing of the context
under way, leaves the context
without an image and retires. -/
def Sys2Proof.Claims.ConfigurationLeaves : Prop :=
  ∀ (s : State) (c k : Nat) (a : Reg), s.cur = .seq c k → readS (curSeq s) a = 0 → boundOps s c k = false →
    (∀ p ∈ (ctxOf s c k).places, p.pin = none) → (ctxOf s c k).binds = [] → (ctxOf s c k).late = [] →
    commandTokens s c k = [] → s.reqs = [] → s.bufreqs = [] →
    (∀ e, ((elemOf s c e).ways.map (·.1)).Nodup) → Completes (.cfgswap a) s fun t =>
      Retires s t 1 ∧ (ctxOf t c k).image = 0 ∧ (ctxOf t c k).places = [] ∧ (ctxOf t c k).counters = [] ∧
      (∀ e, (wayOf (coreOf t c) e k).v = false) ∧ (∀ e j, j ≠ k → wayOf (coreOf t c) e j = wayOf (coreOf s c) e j) ∧
      (ctxOf t c k).r = (ctxOf s c k).r ∧ hideCore c t = hideCore c s

/-- R261–R263: INJ sends a token of the colour's width to an element; SNKRD gives a sink's oldest committed token, its lane
and its metadata, and removes it but for KEEP; ARGW stages a constant; ROUND requests the round boundary, where the values staged so
far take effect. -/
def Sys2Proof.Claims.InjectionSinksAndConstants : Prop :=
  ∀ (s : State) (c k : Nat) (a b d : Reg), s.cur = .seq c k → curWait s = .none → Calm s →
    let x := ctxOf s c k
    let q := curSeq s
    (∀ last, let w : Byte := (readS q d).extractLsb' 0 8
      (readS q b).toNat < 2 ^ 32 → field (readS q b) 13 3 = 0 → (readS q d).toNat < 256 → colourActive x w = true →
      x.gates = 0 → tagOpen s c k w ((readS q b).extractLsb' 16 16) = true → Completes (.inj a b d last) s fun t =>
        ∃ f, (coreOf t c).door = (coreOf s c).door ++ [(k, f)] ∧ f.tok.colour = w ∧
          f.tok.iter = (readS q b).extractLsb' 16 16 ∧ f.tok.lanes.length = colourWidth x w ∧
          (∀ l ∈ f.tok.lanes, l = (readS q a).setWidth 32) ∧ f.tok.xb = 0 ∧ f.tok.last = last ∧
          f.dest = { elem := field (readS q b) 0 6, slot := field (readS q b) 6 5, opnd := field (readS q b) 11 2 } ∧
          Retires s t 1 ∧ OnlySeqAnd (fun z => modCore z c fun y => { y with door := [] }) s t) ∧
    (∀ (lane : BitVec 5) r l, let e := field (readS q a) 0 6
      let slot := field (readS q a) 6 5
      (readS q a).toNat < 4096 → (wayOf (coreOf s c) e k).v = true → slotValid (coreOf s c) e k slot = true →
      wordOpc (slotWord (coreOf s c) e k slot) = 0x94 → lookD x.sinks (e * 32 + slot) [] = r :: l → b ≠ d →
      r.tok.lanes.length ≤ 32 → commandTokens s c k = [] → Completes (.snkrd a b d lane) s fun t =>
        readS (curSeq t) d = (if d = 0 then 0 else (nth r.tok.lanes lane.toNat 0).setWidth 64) ∧
        (b ≠ 0 → field (readS (curSeq t) b) 0 6 = r.tok.xb.toNat ∧ (readS (curSeq t) b).getLsbD 6 = r.tok.last ∧
          field (readS (curSeq t) b) 8 8 = r.tok.colour.toNat ∧ field (readS (curSeq t) b) 16 16 = r.tok.iter.toNat ∧
          field (readS (curSeq t) b) 32 32 = r.tok.lanes.length) ∧
        (∀ z, z ≠ b → z ≠ d → readS (curSeq t) z = readS q z) ∧ RetiresButS s t 1 ∧
        lookD (ctxOf t c k).sinks (e * 32 + slot) [] = (if (readS q a).getLsbD 11 then r :: l else l) ∧ OnlyCtx s t c k) ∧
    ((readS q b).toNat < 512 → field (readS q b) 6 3 ≠ 7 → Completes (.argw a b) s fun t =>
      (ctxOf t c k).staged = put x.staged (field (readS q b) 0 6 * 8 + field (readS q b) 6 3) ((readS q a).setWidth 32) ∧ Retires s t 1 ∧ OnlyCtx s t c k) ∧
    (field (readS q b) 6 3 = 7 → Completes (.argw a b) s fun t => Trapped s t .illop) ∧
    (x.roundReq = false → Completes .round s fun t => (ctxOf t c k).roundReq = true ∧
      (ctxOf t c k).ripe = x.staged ∧ (ctxOf t c k).staged = [] ∧ Retires s t 1 ∧ OnlyCtx s t c k) ∧
    (x.roundReq = true → Completes .round s fun t => t = s)

namespace Sys2Proof.Claims
/-- The GATE operands that name context `k` of core `c` (R264). -/
def Names (s : State) (a b : Reg) (c k : Nat) : Prop :=
  (s.cur = .seq c k ∧ a = 0 ∧ b = 0) ∨
  (∃ n, s.cur = .svc n ∧ (readS (curSeq s) a).toNat = c ∧ (readS (curSeq s) b).toNat = k ∧ c < 224 ∧ k < 4)
end Sys2Proof.Claims

/-- R264, R402: GATE closes the sources of a running context and retires; GATE.WAIT retires when the context is quiescent;
GATE.OPEN opens them again; on a service core a slot without a context is left as it is, and a core above 223 or a slot
above 3 raises ILLOP. -/
def Sys2Proof.Claims.GatesOpenAndClose : Prop :=
  ∀ (s : State) (a b : Reg) (c k : Nat),
    (Names s a b c k → let x := ctxOf s c k
      (x.r.state = .running → x.gates = 0 → Completes (.gate a b) s fun t =>
        (ctxOf t c k).gates = 1 ∧ (ctxOf t c k).gateAt = s.cycle ∧ (ctxOf t c k).r.state = .gated ∧ Retires s t 1) ∧
      (x.r.state = .quiescent → Completes (.gateWait a b) s fun t => Retires s t 1 ∧ OnlySeq s t) ∧
      (x.r.state = .quiescent → x.gates ≠ 0 → x.ckpt = [] → x.ckptPort = [] → x.insts = [] →
        Completes (.gateOpen a b) s fun t =>
          (ctxOf t c k).gates = 0 ∧ (ctxOf t c k).r.state = .running ∧ Retires s t 1) ∧
      (x.r.state = .free ∨ x.r.state = .ending → ∀ n, s.cur = .svc n →
        Completes (.gate a b) s (fun t => Retires s t 1 ∧ OnlySeq s t) ∧
        Completes (.gateWait a b) s (fun t => Retires s t 1 ∧ OnlySeq s t) ∧
        Completes (.gateOpen a b) s (fun t => Retires s t 1 ∧ OnlySeq s t))) ∧
    (∀ n, s.cur = .svc n → 224 ≤ (readS (curSeq s) a).toNat ∨ 4 ≤ (readS (curSeq s) b).toNat →
      Completes (.gate a b) s (fun t => Trapped s t .illop) ∧ Completes (.gateWait a b) s (fun t => Trapped s t .illop) ∧
      Completes (.gateOpen a b) s (fun t => Trapped s t .illop))

/-- Commands to the region (R187, R260–R264, R402). -/
def Obligations.RegionCommands : Prop :=
  Claims.ConfigurationLeaves ∧ Claims.InjectionSinksAndConstants ∧ Claims.GatesOpenAndClose

namespace Sys2Proof.Claims
/-- Where a byte stands: in HBM4 (0), in host memory (1), or in a space of a core's typed buffers (2). -/
abbrev Loc := Nat × Nat × Nat × Nat
/-- The places of the bytes of a piece of an engine's access. -/
def locs : Spot × Nat → List Loc
  | (.phys p, n) => (List.range n).map fun i => (if p.host then 1 else 0, 0, 0, p.pa + i)
  | (.buf p, n) => (List.range n).map fun i => (2, p.core, p.space, p.at_ + i)
/-- The byte at a place. -/
def locByte (t : State) : Loc → Byte
  | (0, _, _, a) => readByte t.hbm a
  | (1, _, _, a) => readByte t.hostMem a
  | (_, c, sp, a) => readByte (lookD (coreOf t c).tbuf sp []) a
/-- The little-endian number in the bytes of an access. -/
def numberIn (t : State) (l : List (Spot × Nat)) : Nat := leNat ((l.flatMap locs).map (locByte t))
/-- What a place holds after writes in order. -/
def lastWrite (ws : List (Loc × Byte)) (z : Loc) (old : Byte) : Byte :=
  match ws.reverse.find? fun w => w.1 == z with | some w => w.2 | none => old
end Sys2Proof.Claims

/-- R266, R268: STRM queues the stream its descriptor describes at a port with room; SBAR waits for the commands queued on its
ports and retires when none of them is left; SPOS reads the port. -/
def Sys2Proof.Claims.StreamInstructions : Prop :=
  ∀ (s : State) (c k : Nat) (a d : Reg) (p : BitVec 4), s.cur = .seq c k → let x := ctxOf s c k
    let l := lookD (coreOf s c).ports p.toNat []
    (∀ (t : State) (o : Phys) ws, Calm s → Reaches s (readS (curSeq s) a) 64 needLoad t o → Clean t o 64 →
      ws = recordAt t o 8 → streamIllegal ws = false → colourActive x ((dw ws 1).extractLsb' 56 8) = true →
      x.hportv.getLsbD p.toNat = true → x.gates = 0 → l.length < 4 →
      Completes (.strm a p) s fun u => Retires s u 1 ∧ SameMemory t u ∧
        ∃ q : StreamCmd, lookD (coreOf u c).ports p.toNat [] = l ++ [q] ∧ q.space = field (dw ws 0) 62 2 ∧
          q.sz = field (dw ws 0) 60 2 ∧ q.write = (dw ws 0).getLsbD 59 ∧ q.resv = (dw ws 0).getLsbD 58 ∧
          q.lastdim = field (dw ws 0) 56 2 ∧ q.base = field (dw ws 0) 0 (if q.space = 0 then 48 else 20) ∧
          q.handle.toNat = field (dw ws 0) 32 16 ∧ q.colour = (dw ws 1).extractLsb' 56 8 ∧
          q.width = colourWidth x q.colour ∧ q.next = (dw ws 1).extractLsb' 40 16 ∧ q.done = 0 ∧ q.part = [] ∧
          q.stop = none ∧ q.key = x.r.key ∧ q.dims.map (·.1) = ((List.range 4).map fun i => field (dw ws (2 + i)) 32 32) ∧
          q.dims.map (·.2) = (List.range 4).map fun i => ((dw ws (2 + i)).extractLsb' 0 32).toInt) ∧
    (let mine := barredBy (coreOf s c) (field (readS (curSeq s) a) 0 16)
     curWait s = .none →
      (mine = [] → Completes (.sbar a) s fun t => Retires s t 1 ∧ OnlySeq s t) ∧
      (mine ≠ [] → Completes (.sbar a) s fun t => curSeq t = { curSeq s with wait := .ports mine } ∧ OnlySeq s t)) ∧
    (∀ m, curWait s = .ports m → (∀ z ∈ m, ∀ q ∈ lookD (coreOf s c).ports z.1 [], q.number ≠ z.2) →
      Completes (.sbar a) s fun t => Retires s t 1 ∧ OnlySeq s t) ∧
    (l.length ≤ 4 → Completes (.spos d p) s fun t => ∃ v : Word, WritesS s t d v 1 ∧
      field v 0 32 = (match l with | q :: _ => (q.done + q.part.length) % 2 ^ 32 | [] => 0) ∧
      field v 32 3 = l.length ∧ field v 35 29 = 0)

/-- R265–R267: the command at the head of a port, its elements found, makes its next run. A read stream sends one token of
the run's elements, its width filled up with zeros; a write stream takes the next token at the port and writes its lanes to
the run's elements in order. The run is counted. A finished command leaves its port. -/
def Sys2Proof.Claims.StreamRuns : Prop :=
  ∀ (s : State) (c k p : Nat) (q : StreamCmd) (more : List StreamCmd), let x := ctxOf s c k
    let out := lookD (coreOf s c).hpOut (p * 4 + k) []
    lookD (coreOf s c).ports p [] = q :: more → slotOf (coreOf s c) q.key = some k →
    (streamMoves s c k q = true → q.done < q.total → q.part.length ≤ q.run → (coreOf s c).bwEn = false →
      s.hbmStacks = [] → s.reqs = [] →
      let had := q.part.length
      let after (u : State) : Prop := lookD (coreOf u c).ports p [] =
        { q with done := q.done + q.run, part := [], next := q.next + 1, stop := none, fault := none } :: more
      ∀ t g ls, findRun s c k q (rangeFrom had (q.run - had)) = (t, ls, none) →
        grantSpots t portEdge (ls.flatMap (·.2)) = some g →
        (q.write = false → colourActive x q.colour = true → tagOpen s c k q.colour q.next = true → out.length < 2 →
          (∀ e ∈ ls, ∀ b ∈ readSpots t e.2, b.2 = false) → (∀ b ∈ q.part, b.2 = false) →
          Completes (.streamRun c p) s fun u => after u ∧ SameMemory t u ∧
            ∃ f, lookD (coreOf u c).hpOut (p * 4 + k) [] = out ++ [f] ∧ f.tok.colour = q.colour ∧ f.tok.iter = q.next ∧
              f.tok.last = q.lastRun ∧ f.tok.xb = 0 ∧ f.tok.lanes.length = q.width ∧
              ∀ i < q.width, nth f.tok.lanes i 0 =
                if i < had then (nth q.part i (0, false)).1
                else if i < q.run then BitVec.ofNat 32 (numberIn t (nth ls (i - had) (0, [])).2) else 0) ∧
        (∀ f r, q.write = true → lookD (coreOf s c).hport (p * 4 + k) [] = f :: r → q.run ≤ f.tok.lanes.length →
          Canonical s = true → Completes (.streamRun c p) s fun u => after u ∧
            lookD (coreOf u c).hport (p * 4 + k) [] = r ∧
            ∀ z, locByte u z = lastWrite (ls.flatMap fun e =>
              (e.2.flatMap locs).zip (natLE (2 ^ q.sz) (nth f.tok.lanes e.1 0).toNat)) z (locByte t z))) ∧
    (q.total ≤ q.done → q.write = true ∨ out = [] → Completes (.streamComplete c p) s fun u =>
      lookD (coreOf u c).ports p [] = more ∧ hideCore c u = hideCore c s ∧ (ctxOf u c k).seq = x.seq)

/-- R265, R305: an element of a stream in global memory stands at its base displaced by the sweep, aligned to its size; a
misaligned one is a fault. -/
def Sys2Proof.Claims.StreamElements : Prop :=
  ∀ (s t : State) (c k i : Nat) (q : StreamCmd) (o : Phys), q.space = 0 →
    let z : Nat := 2 ^ q.sz
    let at_ := q.base + elemOffset q.dims (q.done + i)
    (at_ % (z : Int) = 0 → 0 ≤ at_ → at_ < 2 ^ 48 → z ≤ 4 →
      translate s c (ctxOf s c k).r.xlroot (BitVec.ofInt 64 at_) (if q.write then needStore else needLoad) = (t, .ok o) →
      streamSpot s c k q i = (t, .ok [(.phys o, z)])) ∧
    (at_ % (z : Int) ≠ 0 → ∃ f, (streamSpot s c k q i).2 = .error f ∧ f.cause = .align)

/-- Streams (R265–R268): the instructions, the runs, and where the elements stand. -/
def Obligations.StreamsRun : Prop :=
  Claims.StreamInstructions ∧ Claims.StreamRuns ∧ Claims.StreamElements

/-! ### Element instructions that compute lanes -/
namespace Sys2Proof.Claims
/-- A firing of an instruction under way that takes its effect (R274), and whose destinations are on its task's cores. -/
def Fires (s : State) (h : EHdr) (f : Fire) : Prop := fireOf h s = some f ∧ f.void = false ∧ strays s f = false
/-- The frame of a firing: its issue port is free, it is counted, and beside its element, its results and its context's
FIRSTX latch and instances nothing differs: no sequencer, no other context, no memory. -/
def Fired (s t : State) (f : Fire) : Prop :=
  (elemOf t f.c f.e).issuing = none ∧ (ctxOf t f.c f.k).fires = (ctxOf s f.c f.k).fires + 1 ∧
  (ctxOf t f.c f.k).seq = (ctxOf s f.c f.k).seq ∧
  { (ctxOf t f.c f.k).r with firstx := (ctxOf s f.c f.k).r.firstx } = (ctxOf s f.c f.k).r ∧
  (∀ j, j ≠ f.k → ctxOf t f.c j = ctxOf s f.c j) ∧ (∀ e, e ≠ f.e → elemOf t f.c e = elemOf s f.c e) ∧
  hideCore f.c t = hideCore f.c s
/-- A token of a firing's iteration under a colour, with the operands' bits and the bits raised (R274). -/
def result (f : Fire) (col : Byte) (lanes : List W32) (xb : Xb) : Token :=
  { colour := col, iter := f.set.iter, lanes := lanes, xb := f.xb ||| xb, last := f.last, src := f.set.inst }
/-- Two tokens are on their way to the even and the odd entries of the port registers, due after a latency. -/
def Delivers (s t : State) (f : Fire) (lat : Nat) (even odd : Token) : Prop :=
  (coreOf t f.c).results = (coreOf s f.c).results ++ [f.firing even odd (s.cycle + lat)] ∧ Fired s t f
/-- A result with some lanes is on its way to the port registers, due after a latency, with the operands' bits and the
bits raised. -/
def Delivered (s t : State) (f : Fire) (lat : Nat) (lanes : List W32) (xb : Xb) : Prop :=
  Delivers s t f lat (result f f.set.colour lanes xb) (result f f.set.colour lanes xb)
/-- A firing with a null operand, or whose predicate forbids its effect, and the null token it sends (R274). -/
def FiresNull (s : State) (h : EHdr) (f : Fire) : Prop := fireOf h s = some f ∧ f.void = true ∧ strays s f = false
def SendsNull (s t : State) (f : Fire) (lat : Nat) : Prop := Delivered s t f lat [] 0
/-- The lanes 0 to g − 1 are computed one by one; the bits of all are raised. -/
def LaneByLane (s t : State) (f : Fire) (lat : Nat) (R : Nat → W32 → Xb → Prop) : Prop :=
  ∃ (v : Nat → W32) (b : Nat → Xb), (∀ l < f.g, R l (v l) (b l)) ∧
    Delivered s t f lat ((List.range f.g).map v) ((List.range f.g).foldl (fun x l => x ||| b l) 0)

/-- The low bits of a lane as a number of W bits, signed or not. -/
def ival (w : Nat) (u : Bool) (x : W32) : Int := if u then ((x.toNat % 2 ^ w : Nat) : Int) else (x.toNat : Int).bmod (2 ^ w)
/-- A lane that holds v modulo 2^W, extended to 32 bits by sign, or by zeros when unsigned (R272). -/
def Holds (w : Nat) (u : Bool) (v : Int) (r : W32) : Prop := if u then (r.toNat : Int) = v % 2 ^ w else r.toInt = v.bmod (2 ^ w)
/-- An exact sum wrapped, or clipped with OF under SAT (R282). -/
def Fits (w : Nat) (u sat : Bool) (e : Int) (r : W32) (b : Xb) : Prop :=
  let lo : Int := if u then 0 else -2 ^ (w - 1)
  let hi : Int := if u then 2 ^ w - 1 else 2 ^ (w - 1) - 1
  if sat then Holds w u (max lo (min hi e)) r ∧ b = (if lo ≤ e ∧ e ≤ hi then 0 else 0x08) else Holds w u e r ∧ b = 0

/-- The integer instructions of a width, their latency, and what a result lane holds of three operand lanes (R282). -/
def integers (y : Ty) : List ((EHdr → Instr) × Nat × (W32 → W32 → W32 → W32 → Xb → Prop)) :=
  let w := tyBits y
  let plain (u : Bool) (e : Int) (r : W32) (b : Xb) : Prop := Holds w u e r ∧ b = 0
  let bits (op : Nat → Nat → Nat) (x z r : W32) (b : Xb) : Prop :=
    plain false (op (x.toNat % 2 ^ w) (z.toNat % 2 ^ w) : Nat) r b
  ([true, false].flatMap fun u =>
    ([true, false].flatMap fun sat =>
      [(fun h => .iadd h y u sat, 1, fun x z _ r b => Fits w u sat (ival w u x + ival w u z) r b),
       (fun h => .isub h y u sat, 1, fun x z _ r b => Fits w u sat (ival w u x - ival w u z) r b),
       (fun h => .imad h y u sat, 3, fun x z c r b => Fits w u sat (ival w u x * ival w u z + ival w u c) r b)]) ++
    [(fun h => .imulh h y u, 3, fun x z _ r b => plain u (ival w u x * ival w u z / 2 ^ w) r b),
     (fun h => .imin h y u, 1, fun x z _ r b => plain u (min (ival w u x) (ival w u z)) r b),
     (fun h => .imax h y u, 1, fun x z _ r b => plain u (max (ival w u x) (ival w u z)) r b)]) ++
  [(fun h => .imul h y, 3, fun x z _ r b => plain false (ival w false x * ival w false z) r b),
   (fun h => .iand h y, 1, fun x z _ r b => bits (· &&& ·) x z r b),
   (fun h => .ior h y, 1, fun x z _ r b => bits (· ||| ·) x z r b),
   (fun h => .ixor h y, 1, fun x z _ r b => bits (· ^^^ ·) x z r b),
   (fun h => .ishl h y, 1, fun x z _ r b => bits (fun p q => p * 2 ^ (q % w)) x z r b),
   (fun h => .ishr h y, 1, fun x z _ r b => bits (fun p q => p / 2 ^ (q % w)) x z r b),
   (fun h => .isra h y, 1, fun x z _ r b => plain false (ival w false x / 2 ^ (z.toNat % 2 ^ w % w)) r b)]
/-- The conditions of R223 on values of W bits. -/
def icond (c : Cond) (w : Nat) (x z : W32) : Prop :=
  let p := ival w false x
  let q := ival w false z
  let m := ival w true x
  let n := ival w true z
  match c with
  | .eq => p = q | .ne => p ≠ q | .lt => p < q | .ge => p ≥ q | .le => p ≤ q | .gt => p > q
  | .ltu => m < n | .geu => m ≥ n | .leu => m ≤ n | .gtu => m > n
end Sys2Proof.Claims

/-- R274, R282, R283: the integer instructions compute every lane on the low W bits, and deliver after their latency; ICMP
gives 1 or 0. One that takes no effect sends a null token. -/
def Obligations.IntegerLanes : Prop :=
  ∀ (s : State) (h : EHdr) (f : Fire) (y : Ty), y = .i32 ∨ y = .i16 ∨ y = .i8 →
    (FiresNull s h f → (∀ p ∈ integers y, Completes (p.1 h) s fun t => SendsNull s t f p.2.1) ∧
      ∀ c, Completes (.icmp h y c) s fun t => SendsNull s t f 1) ∧
    (Fires s h f → (∀ p ∈ integers y, Completes (p.1 h) s fun t => LaneByLane s t f p.2.1 fun l => p.2.2 (f.x 0 l) (f.x 1 l) (f.x 2 l)) ∧
    (∀ c, Completes (.icmp h y c) s fun t => LaneByLane s t f 1 fun l r b =>
      (icond c (tyBits y) (f.x 0 l) (f.x 1 l) → r = 1) ∧ (¬ icond c (tyBits y) (f.x 0 l) (f.x 1 l) → r = 0) ∧ b = 0))

namespace Sys2Proof.Claims
/-- The bits of a format in a lane; whether they are a NaN; and their order, −0 below +0 (R278). -/
def fbits (y : Ty) (x : W32) : Nat := x.toNat % 2 ^ tyBits y
def fnan (y : Ty) (x : W32) : Bool := (tyFmt y).read (fbits y x) = .nan
def forder (y : Ty) (x : W32) : Int :=
  let n := fbits y x
  if 2 ^ (tyBits y - 1) ≤ n then -((n - 2 ^ (tyBits y - 1) : Nat) : Int) - 1 else n
/-- A lane holds a value rounded once to a format, with the bits of the operation and of the rounding (R200, R277). -/
def Rounded (y : Ty) (m : Rnd) (v : Machine.Num × Xb) (r : W32) (b : Xb) : Prop :=
  r.toNat = (roundTo (tyFmt y) m v.1).1 ∧ b = v.2 ||| (roundTo (tyFmt y) m v.1).2
/-- The floating instructions of a format: the arithmetic ones under a mode, and those that pick or change a sign. A NaN that
is added gives the NaN and raises nothing, whatever the product is (R198). -/
def floats (y : Ty) (m : RMode) : List ((EHdr → Instr) × Nat × (W32 → W32 → W32 → W32 → Xb → Prop)) :=
  let n (x : W32) : Machine.Num := (tyFmt y).read x.toNat
  let sum (p q : Machine.Num) : Machine.Num × Xb := addNum (modeRnd m) p q
  let plus (c : Machine.Num) (p : Machine.Num × Xb) : Machine.Num × Xb :=
    ((sum c p.1).1, if c = .nan then 0 else p.2 ||| (sum c p.1).2)
  let quiet (x : W32) (v : Nat) (r : W32) (b : Xb) : Prop := r.toNat = (if fnan y x then (tyFmt y).nan else v) ∧ b = 0
  let half := 2 ^ (tyBits y - 1)
  [(fun h => .fadd h y m, 4, fun x z _ r b => Rounded y (modeRnd m) (sum (n x) (n z)) r b),
   (fun h => .fsub h y m, 4, fun x z _ r b => Rounded y (modeRnd m) (sum (n x) (negNum (n z))) r b),
   (fun h => .fmul h y m, 4, fun x z _ r b => Rounded y (modeRnd m) (mulNum (n x) (n z)) r b),
   (fun h => .ffma h y m, 4, fun x z c r b => Rounded y (modeRnd m) (plus (n c) (mulNum (n x) (n z))) r b),
   (fun h => .ffms h y m, 4, fun x z c r b =>
      Rounded y (modeRnd m) (plus (n c) (negNum (mulNum (n x) (n z)).1, (mulNum (n x) (n z)).2)) r b),
   (fun h => .fabs h y, 2, fun x _ _ r b => quiet x (fbits y x % half) r b),
   (fun h => .fneg h y, 2, fun x _ _ r b => quiet x (if half ≤ fbits y x then fbits y x - half else fbits y x + half) r b),
   (fun h => .fmin h y, 2, fun x z _ r b => r.toNat = (if fnan y x || fnan y z then (tyFmt y).nan
      else if forder y x ≤ forder y z then fbits y x else fbits y z) ∧ b = 0),
   (fun h => .fmax h y, 2, fun x z _ r b => r.toNat = (if fnan y x || fnan y z then (tyFmt y).nan
      else if forder y z ≤ forder y x then fbits y x else fbits y z) ∧ b = 0)]
/-- The conditions of R280. -/
def fcond (c : FCond) (p q : Machine.Num) : Prop :=
  let un := p = .nan ∨ q = .nan
  match c with
  | .un => un | .or => ¬ un | .ne => un ∨ cmpNum p q ≠ 0 | .eq => ¬ un ∧ cmpNum p q = 0
  | .lt => ¬ un ∧ cmpNum p q < 0 | .ge => ¬ un ∧ 0 ≤ cmpNum p q | .le => ¬ un ∧ cmpNum p q ≤ 0 | .gt => ¬ un ∧ 0 < cmpNum p q
/-- The special functions of FP32 (R209, R279). -/
def specials : List ((EHdr → Instr) × Nat × (Machine.Num → Machine.Num × Xb)) :=
  [(.frcp, 12, rcpNum), (.fsqrt, 12, sqrtNum), (.frsq, 12, rsqNum), (.fexp2, 16, exp2Num), (.flog2, 16, log2Num),
   (.ftanh, 16, tanhNum)]
end Sys2Proof.Claims

/-- R198, R277–R281: the floating instructions compute every lane and deliver after their latency; each arithmetic result is
the exact value rounded once. CVT rounds under its mode; under SR the firing draws once from its way's generator, and lane l
takes the word drawn rotated by l (R206). One that takes no effect sends a null token (R274). -/
def Obligations.FloatLanes : Prop :=
  ∀ (s : State) (h : EHdr) (f : Fire),
    (FiresNull s h f → (∀ y, y = .fp32 ∨ y = .bf16 ∨ y = .fp16 →
        (∀ m, m = .rne ∨ m = .rtz ∨ m = .rup ∨ m = .rdn → ∀ p ∈ floats y m, Completes (p.1 h) s fun t => SendsNull s t f p.2.1) ∧
        ∀ c, Completes (.fcmp h y c) s fun t => SendsNull s t f 2) ∧
      (∀ p ∈ specials, Completes (p.1 h) s fun t => SendsNull s t f p.2.1) ∧
      ∀ to_ src m us v, Completes (.cvt h to_ m src us v) s fun t => SendsNull s t f 3) ∧
    (Fires s h f →
    (∀ y, y = .fp32 ∨ y = .bf16 ∨ y = .fp16 →
      (∀ m, m = .rne ∨ m = .rtz ∨ m = .rup ∨ m = .rdn → ∀ p ∈ floats y m, Completes (p.1 h) s fun t =>
        LaneByLane s t f p.2.1 fun l => p.2.2 (f.x 0 l) (f.x 1 l) (f.x 2 l)) ∧
      (∀ c, let n (i l : Nat) : Machine.Num := (tyFmt y).read (f.x i l).toNat
        Completes (.fcmp h y c) s fun t => LaneByLane s t f 2 fun l r b =>
          (fcond c (n 0 l) (n 1 l) → r = 1) ∧ (¬ fcond c (n 0 l) (n 1 l) → r = 0) ∧ b = 0)) ∧
    (∀ p ∈ specials, Completes (p.1 h) s fun t => LaneByLane s t f p.2.1 fun l =>
      Rounded .fp32 .rne (p.2.2 (fp32.read (f.x 0 l).toNat))) ∧
    (∀ (to_ src : Ty) (m : RMode) (us v : Bool), m ≠ .dr → let g := genOf (elemOf s f.c f.e) f.k
      let mode (l : Nat) : Rnd := if m = .sr then .sr ((g.extractLsb' 32 32).rotateLeft l).toNat else modeRnd m
      Completes (.cvt h to_ m src us v) s fun t =>
        (LaneByLane s t f 3 fun l r b => (r, b) = convert src us to_ (v && to_ == .i8) (v && to_ != .i8) (mode l) (f.x 0 l)) ∧
        (if m = .sr then lookD (elemOf t f.c f.e).gen f.k 0 = nextGen g
         else (elemOf t f.c f.e).gen = (elemOf s f.c f.e).gen)))

namespace Sys2Proof.Claims
/-- Magnitude bits of a format in units of 2^q, for q at or below its least weight. -/
def inUnits (f : Fmt) (mag : Nat) (q : Int) : Nat :=
  match f.read mag with | .fin _ m e => m * 2 ^ (e - q).toNat | _ => 0
end Sys2Proof.Claims

/-- R205, R208: a finite value that does not overflow is rounded once: towards zero to the next magnitude at or below it,
away to the next at or above it, to nearest to the nearer of the two, and to the even one of two equally near. -/
def Obligations.RoundedOnce : Prop :=
  ∀ (f : Fmt) (r : Rnd) (neg : Bool) (m : Nat) (e q : Int), f = fp32 ∨ f = bf16 ∨ f = fp16 → m ≠ 0 → q ≤ e → q ≤ f.qmin →
    let out := roundTo f r (.fin neg m e)
    out.2 &&& xOF = 0 →
    let mag := out.1 % 2 ^ (f.eb + f.mb)
    let x := m * 2 ^ (e - q).toNat
    let v := inUnits f mag q
    (out.1 / 2 ^ (f.eb + f.mb) = if neg then 1 else 0) ∧ mag ≤ f.maxf ∧
    (r = .rtz ∨ (r = .rup ∧ neg = true) ∨ (r = .rdn ∧ neg = false) → v ≤ x ∧ (mag < f.maxf → x < inUnits f (mag + 1) q)) ∧
    ((r = .rup ∧ neg = false) ∨ (r = .rdn ∧ neg = true) → x ≤ v ∧ (0 < mag → inUnits f (mag - 1) q < x)) ∧
    (r = .rne → (0 < mag → v + inUnits f (mag - 1) q ≤ 2 * x ∧ (v + inUnits f (mag - 1) q = 2 * x → mag % 2 = 0)) ∧
      (mag < f.maxf → 2 * x ≤ v + inUnits f (mag + 1) q ∧ (2 * x = v + inUnits f (mag + 1) q → mag % 2 = 0))) ∧
    (out.2 &&& xNX = 0 ↔ v = x)

/-! ### Element instructions that move lanes, and that make, steer and end tokens -/
namespace Sys2Proof.Claims
/-- Whether a type suits a reduction (R286). -/
def suits (z : RedOp) (y : Ty) : Prop :=
  match z with
  | .addx | .maxabs => y = .fp32 ∨ y = .bf16 ∨ y = .fp16
  | .max | .min => y = .fp32 ∨ y = .bf16 ∨ y = .fp16 ∨ y = .i32 ∨ y = .i16 ∨ y = .i8
  | _ => y = .i32 ∨ y = .i16 ∨ y = .i8
/-- One of the lanes, no other of which comes after it in an order. -/
def Pick (xs : List W32) (key : W32 → Int) (x : W32) : Prop := x ∈ xs ∧ ∀ z ∈ xs, key z ≤ key x
/-- The contribution of one value to the exact accumulator and its flags (R211). -/
def accOf1 (v : Machine.Num) : Int := match v with | .fin s m e => atExp s m e (-149) | _ => 0
def flagOf (v : Machine.Num) : BitVec 3 := match v with | .nan => 1 | .inf s => if s then 2 else 4 | _ => 0
/-- What R286 makes of a list of lanes, and the bits it raises. -/
def Reduced (z : RedOp) (y : Ty) (xs : List W32) (r : W32) (b : Xb) : Prop :=
  let w := tyBits y
  let n (x : W32) : Machine.Num := (tyFmt y).read x.toNat
  let bits (op : Nat → Nat → Nat) (e : Nat) : Prop := Holds w false ((xs.foldl (fun v x => op v (x.toNat % 2 ^ w)) e : Nat) : Int) r ∧ b = 0
  let float (key : W32 → Int) (v : W32 → Nat) : Prop :=
    if xs.any (fnan y) then r.toNat = (tyFmt y).nan ∧ b = 0 else ∃ x, Pick xs key x ∧ r.toNat = v x ∧ b = 0
  match z with
  | .addx => (r.toNat, b) = exactRound (tyFmt y) .rne (BitVec.ofInt 320 (xs.map fun x => accOf1 (n x)).sum)
      (xs.foldl (fun k x => k ||| flagOf (n x)) 0)
  | .iadd => Holds w false (xs.map (ival w false)).sum r ∧ b = 0
  | .and => bits (· &&& ·) (2 ^ w - 1)
  | .or => bits (· ||| ·) 0
  | .xor => bits (· ^^^ ·) 0
  | .max => if y.isInt then ∃ x, Pick xs (ival w false) x ∧ Holds w false (ival w false x) r ∧ b = 0 else float (forder y) (fbits y)
  | .min => if y.isInt then ∃ x, Pick xs (fun x => -ival w false x) x ∧ Holds w false (ival w false x) r ∧ b = 0
      else float (fun x => -forder y x) (fbits y)
  | .maxabs => float (fun x => (fbits y x % 2 ^ (w - 1) : Nat)) (fun x => fbits y x % 2 ^ (w - 1))
end Sys2Proof.Claims

/-- R274, R284–R286: SEL, MOV, LBC and LSHF move lanes; LRED puts the reduction of all lanes in every lane; one that takes no
effect sends a null token. -/
def Sys2Proof.Claims.LanesMovedAndReduced : Prop :=
  ∀ (s : State) (h : EHdr) (f : Fire),
    (FiresNull s h f → (∀ i, i = .selE h ∨ i = .mov h ∨ (∃ n, i = .lbc h n) ∨ (∃ z n, i = .lshf h z n) →
        Completes i s fun t => SendsNull s t f 1) ∧
      ∀ z y, suits z y → Completes (.lred h y z) s fun t => SendsNull s t f 6) ∧
    (Fires s h f → 0 < f.g →
    let moves (i : Instr) (v : Nat → W32) : Prop := Completes i s fun t => LaneByLane s t f 1 fun l r b => r = v l ∧ b = 0
    moves (.selE h) (fun l => if f.x 0 l ≠ 0 then f.x 1 l else f.x 2 l) ∧
    moves (.mov h) (f.x 0) ∧
    (∀ n : BitVec 5,
      moves (.lbc h n) (fun _ => if n.toNat < f.g then f.x 0 n.toNat else 0) ∧
      moves (.lshf h .rot n) (fun l => f.x 0 (((l : Int) - n.toNat) % f.g).toNat) ∧
      moves (.lshf h .up n) (fun l => if l < n.toNat then 0 else f.x 0 (l - n.toNat)) ∧
      moves (.lshf h .down n) (fun l => if f.g ≤ l + n.toNat then 0 else f.x 0 (l + n.toNat)) ∧
      moves (.lshf h .xor n) (fun l => if f.g ≤ l ^^^ n.toNat then 0 else f.x 0 (l ^^^ n.toNat))) ∧
    (∀ z y, suits z y → Completes (.lred h y z) s fun t => ∃ r b, Reduced z y ((List.range f.g).map (f.x 0)) r b ∧
      Delivered s t f 6 ((List.range f.g).map fun _ => r) b))

namespace Sys2Proof.Claims
/-- A firing of an instruction that null operands do not stop (R274), its destinations on its task's cores. -/
def FiresAny (s : State) (h : EHdr) (f : Fire) : Prop := fireOf h s = some f ∧ strays s f = false
/-- A firing under way outside any instance, and in one that finds some entries of the commit buffer (R59). -/
def Alone (s : State) (f : Fire) : Prop := f.set.inst = 0 ∧ (ctxOf s f.c f.k).late = []
def InInst (s : State) (f : Fire) (i : Inst) (entries : Nat) : Prop :=
  f.set.inst ≠ 0 ∧ instOf (ctxOf s f.c f.k) f.set.inst = some i ∧ commitRoom s f.c f.k f.set.inst entries = true
/-- The instance of a firing is now `j`. -/
def NowInst (t : State) (f : Fire) (j : Inst) : Prop := instOf (ctxOf t f.c f.k) f.set.inst = some j
/-- The colour of a context in a lane. -/
def colourOfLane (x : W32) : Byte := x.extractLsb' 0 8
/-- Operand n's lanes over the width. -/
def lanesOf (f : Fire) (n : Nat) : List W32 := (List.range f.g).map (f.x n)
end Sys2Proof.Claims

/-- R150, R155, R274, R287–R289: PACK joins the lanes of two colours, UNPACK splits them by its constant, both under the window
of the tags they make; CTXA grants the lowest inactive colour and min(w, 4F) lanes, or refuses and changes nothing; CTXF takes
a colour to DRAINING, at its instance's commit. One that takes no effect sends a null token of its own tag, CTXF none. -/
def Sys2Proof.Claims.ColourInstructions : Prop :=
  ∀ (s : State) (h : EHdr) (f : Fire), FiresAny s h f →
    (f.void = true → (∀ col, Completes (.pack h col) s fun t => SendsNull s t f 1) ∧
      (Completes (.unpack h) s fun t => SendsNull s t f 1) ∧ (Completes (.ctxa h) s fun t => SendsNull s t f 2) ∧
      Completes (.ctxf h) s fun t => Fired s t f ∧ (ctxOf t f.c f.k).colours = (ctxOf s f.c f.k).colours) ∧
    (f.void = false → let x := ctxOf s f.c f.k
    (∀ col : Byte, let ga := colourWidth x (nth (f.set.toks.map (·.colour)) 0 0)
      let gb := colourWidth x (nth (f.set.toks.map (·.colour)) 1 0)
      let lanes := (List.range (colourWidth x col)).map fun l => if l < ga then f.x 0 l else if l < ga + gb then f.x 1 (l - ga) else 0
      let open_ := tagOpen s f.c f.k col f.set.iter
      colourActive x col = true → ga + gb ≤ colourWidth x col → open_ = true → Completes (.pack h col) s fun t =>
        Delivers s t f 1 (result f col lanes 0) (result f col lanes 0)) ∧
    (∀ w, w = lookD (wayOf (coreOf s f.c) f.e f.k).k h.ks.toNat 0 → w.extractLsb' 16 16 = 0 →
      let a := colourOfLane w
      let b : Byte := w.extractLsb' 8 8
      let lane (l : Nat) : W32 := nth (nth f.set.toks 0 f.null).lanes l 0
      colourActive x a = true → colourActive x b = true → colourWidth x a + colourWidth x b ≤ f.g →
      tagOpen s f.c f.k a f.set.iter = true → tagOpen s f.c f.k b f.set.iter = true →
      Completes (.unpack h) s fun t => Delivers s t f 1 (result f a ((List.range (colourWidth x a)).map lane) 0)
        (result f b ((List.range (colourWidth x b)).map fun l => lane (colourWidth x a + l)) 0)) ∧
    (let w := (f.x 0 0).toNat
     let first (v : Nat) : List W32 := (List.range f.g).map fun l => if l = 0 then BitVec.ofNat 32 v else 0
     1 ≤ w → w ≤ 32 →
      (∀ n, n < 255 → look x.colours n = none → (∀ m < n, look x.colours m ≠ none) → freeReserve x ≠ 0 →
        coreColours (coreOf s f.c) < 64 → Completes (.ctxa h) s fun t =>
          Delivered s t f 2 (first (n + 256 * min w (4 * freeReserve x))) 0 ∧
          (ctxOf t f.c f.k).colours = put x.colours n (min w (4 * freeReserve x), false)) ∧
      (freeReserve x = 0 ∨ 64 ≤ coreColours (coreOf s f.c) → Completes (.ctxa h) s fun t =>
          Delivered s t f 2 (first 0xFF) 0 ∧ (ctxOf t f.c f.k).colours = x.colours)) ∧
    (∀ g, let col := colourOfLane (f.x 0 0)
      (Alone s f → look x.colours col.toNat = some (g, false) → Completes (.ctxf h) s fun t =>
        look (ctxOf t f.c f.k).colours col.toNat = some (g, true) ∧ Fired s t f) ∧
      (∀ i, InInst s f i 0 → Completes (.ctxf h) s fun t =>
        NowInst t f { i with effects := i.effects ++ [.ctxf col], fired := i.fired + 1 } ∧
        (ctxOf t f.c f.k).colours = x.colours ∧ Fired s t f)))

/-- Lane movement and colours (R150, R284–R289). -/
def Obligations.LanesAndColours : Prop :=
  Claims.LanesMovedAndReduced ∧ Claims.ColourInstructions

/-- R290–R293, R159: NULL delivers a null token; MERGE its one non-null operand; STEER its operand one way and null the
other; EXIT counts an exit and, with a non-null token, makes an instance whose counts are closed COMPLETE; SINK holds its
token until its instance commits, and drops a null one. The youngest instance of a chain gives the chain its successor. -/
def Sys2Proof.Claims.TokensSteeredAndEnded : Prop :=
  ∀ (s : State) (h : EHdr) (f : Fire), FiresAny s h f →
    let x := ctxOf s f.c f.k
    let tok (n : Nat) : Token := result f f.set.colour (lanesOf f n) 0
    let nul : Token := result f f.set.colour [] 0
    Completes (.null h) s (fun t => Delivers s t f 1 nul nul) ∧
    (colourActive x f.set.colour = true →
      ((f.op 0).isNull = false → (f.op 1).isNull = true → Completes (.merge h) s fun t => Delivers s t f 1 (tok 0) (tok 0)) ∧
      ((f.op 0).isNull = true → (f.op 1).isNull = false → Completes (.merge h) s fun t => Delivers s t f 1 (tok 1) (tok 1)) ∧
      ((f.op 0).isNull = true → (f.op 1).isNull = true → Completes (.merge h) s fun t => Delivers s t f 1 nul nul) ∧
      (f.void = false → f.x 1 0 ≠ 0 → Completes (.steer h) s fun t => Delivers s t f 1 (tok 0) nul) ∧
      (f.void = false → f.x 1 0 = 0 → Completes (.steer h) s fun t => Delivers s t f 1 nul (tok 0)) ∧
      (f.void = true → Completes (.steer h) s fun t => Delivers s t f 1 nul nul)) ∧
    (∀ i, instOf x f.set.inst = some i →
      let value := exitValue (tok 0)
      let left (t : State) (tk : Option (Nat × Token)) : Prop := (∃ j, NowInst t f j ∧ j.exits = i.exits + 1 ∧ j.exitTok = tk ∧
          (∀ p, placeOf x i.place = some p → i.state = .live →
            (j.state = .complete ↔ i.closedE.length = p.scount ∧ i.closedL.length = p.lcount ∧ i.exits + 1 = p.exits ∧
              tk ≠ none ∧ loadsDone (coreOf s f.c) f.k p i = true))) ∧ Fired s t f
      ((f.op 0).isNull = true → Completes (.exit h) s fun t => left t i.exitTok) ∧
      ((f.op 0).isNull = false → i.exitTok = none → i.chain = false → Completes (.exit h) s fun t =>
        left t (some (f.e * 32 + f.set.slot, tok 0)) ∧ (ctxOf t f.c f.k).chain = x.chain) ∧
      ((f.op 0).isNull = false → i.exitTok = none → i.chain = true → value % 128 = 0 → (fromInst x i.age).drop 1 = [] →
        Completes (.exit h) s fun t => left t (some (f.e * 32 + f.set.slot, tok 0)) ∧
          ∀ z, x.chain = some z → (ctxOf t f.c f.k).chain =
            some { z with waiting := if value = 0 then none else some value, predicted := none })) ∧
    ((f.op 0).isNull = true → Completes (.sink h) s fun t => Fired s t f ∧ (ctxOf t f.c f.k).sinks = x.sinks) ∧
    ((f.op 0).isNull = false → sinkHolds x f.e f.set.slot < 8 →
      (Alone s f → Completes (.sink h) s fun t => ∃ r, r.tok = tok 0 ∧
        lookD (ctxOf t f.c f.k).sinks (f.e * 32 + f.set.slot) [] = lookD x.sinks (f.e * 32 + f.set.slot) [] ++ [r] ∧ Fired s t f) ∧
      (∀ i, InInst s f i 0 → Completes (.sink h) s fun t =>
        NowInst t f { i with effects := i.effects ++ [.sink f.e f.set.slot (tok 0)], fired := i.fired + 1 } ∧ Fired s t f))

namespace Sys2Proof.Claims
/-- A counter node of a chain has emitted (R301): its token, in every lane its value, takes the chain's next iteration and
waits in the port registers of the node that lead somewhere. -/
def Emitted (s t : State) (c k e m : Nat) (ch : CntChain) (slot : Nat) (v : W32) (last : Bool) : Prop :=
  let w := wayOf (coreOf s c) e k
  let col : Byte := (cntConst w slot 2).extractLsb' 24 8
  (∃ ch', look (ctxOf t c k).counters (e * 4 + m) = some ch' ∧ ch'.next = ch.next + 1) ∧
  ∀ p < 4, (BitVec.ofNat 4 (wordOm (lookD w.slots slot 0))).getLsbD p = true → branches w p ≠ [] →
    ∃ r, look (elemOf t c e).ports (k * 4 + p) = some r ∧ r.done = 0 ∧ r.slot = slot ∧ r.odd = r.even ∧
      r.even.colour = col ∧ r.even.iter = ch.next ∧ r.even.last = last ∧ r.even.xb = 0 ∧
      r.even.lanes = List.replicate (colourWidth (ctxOf s c k) col) v
/-- A chain can emit: it runs, its sources are open, a node has an emission left, its ports are free and R155 allows it. -/
def MayEmit (s : State) (c k e m : Nat) (ch : CntChain) (slot : Nat) (v : W32) (last : Bool) : Prop :=
  let w := wayOf (coreOf s c) e k
  let col : Byte := (cntConst w slot 2).extractLsb' 24 8
  look (ctxOf s c k).counters (e * 4 + m) = some ch ∧ ch.running = true ∧ (ctxOf s c k).gates = 0 ∧
  (∃ l, emitNext w ch.nodes = some (slot, v, last, l)) ∧ colourActive (ctxOf s c k) col = true ∧
  portsFree (coreOf s c) e k (BitVec.ofNat 4 (wordOm (lookD w.slots slot 0))) = true ∧ tagOpen s c k col ch.next = true
end Sys2Proof.Claims

/-- R301, R302: a counter chain that may emit sends its next token and takes one iteration; an ACC without runs opens one
that holds each lane's contribution, and its LAST token's tag closes it; a chain's order of emissions is Sweep's, innermost
first, outer nodes when the inner ones are exhausted. -/
def Sys2Proof.Claims.CountersAndAccumulators : Prop :=
  ∀ (s : State),
    (∀ (c k e m : Nat) ch slot v last, regionMoves s c k = true → (wayOf (coreOf s c) e k).v = true → MayEmit s c k e m ch slot v last →
      Completes (.counterEmit c k e m) s fun t => Emitted s t c k e m ch slot v last) ∧
    (∀ (h : EHdr) (f : Fire) (lv ch : BitVec 2) n slot v last, fireOf h s = some f →
      cntSlot (wayOf (coreOf s f.c) f.e f.k) ch.toNat lv.toNat ≠ none →
      MayEmit (doneIssue s f) f.c f.k f.e ch.toNat n slot v last → Completes (.cnt h ch lv) s fun t =>
        Emitted (doneIssue s f) t f.c f.k f.e ch.toNat n slot v last) ∧
    (∀ (h : EHdr) (f : Fire) (y : Ty) (z : RedOp), let key := f.k * 32 + f.set.slot
      fireOf h s = some f → lookD (elemOf s f.c f.e).acc key [] = [] → Completes (.acc h y z) s fun t =>
        Fired s t f ∧ ∃ r, lookD (elemOf t f.c f.e).acc key [] = [r] ∧ r.xb = f.xb ∧
          r.held = (if f.last then some (f.set.colour, f.set.iter) else none) ∧
          ∀ l < f.g, nth r.lanes l emptyRec = if (f.op 0).isNull then emptyRec else redRec z y (f.x 0 l) 0) ∧
    (∀ (w : Way) (n : Node) (r : List Node),
      (n.left ≠ 0 → emitNext w (n :: r) = some (n.slot, n.value, decide (n.left = 1),
        { n with value := n.value + cntConst w n.slot 1, left := n.left - 1 } :: r)) ∧
      (n.left = 0 → emitNext w r = none → emitNext w (n :: r) = none) ∧
      (∀ q l, n.left = 0 → r = q :: l → q.left ≠ 0 → ∃ r', emitNext w (n :: r) = some (q.slot, q.value, decide (q.left = 1),
        { n with value := cntConst w n.slot 0, left := field (cntConst w n.slot 2) 0 24 } :: r')))

/-- Tokens steered, counted and accumulated (R159, R290–R293, R301, R302). -/
def Obligations.TokensAndCounters : Prop :=
  Claims.TokensSteeredAndEnded ∧ Claims.CountersAndAccumulators

/-! ### Laminated registers -/
namespace Sys2Proof.Claims
/-- The rest of a context's laminated state is as before: every other register, and what the units hold of it. -/
def OtherRegisters (s t : State) (c k n : Nat) : Prop :=
  ∀ m, m ≠ n → lamOf (ctxOf t c k) m = lamOf (ctxOf s c k) m ∧ present (ctxOf t c k) m = present (ctxOf s c k) m
/-- A register's declaration, home lanes, transit bit, and plies. -/
def NowReg (t : State) (c k n : Nat) (m : Lam) (ps : List Ply) : Prop := lamOf (ctxOf t c k) n = m ∧ present (ctxOf t c k) n = ps
/-- The executing sequencer waits at its instruction, and nothing else has changed. -/
def WaitsAt (s t : State) (w : Wait) : Prop := curSeq t = { curSeq s with wait := w } ∧ OnlySeq s t
/-- Hides how many plies a core has opened. -/
def hidePlyNo (c : Nat) (s : State) : State := modCore s c fun x => { x with plyNo := 0 }
/-- The plies of the sequencer's buffer of a core, of every context; and whether they respect its limits (R62). -/
def seqPlies (s : State) (c : Nat) : List Ply := (unitPlies (coreOf s c) 64).map (·.2)
def PliesFit (l : List Ply) : Prop := l.length ≤ 4 ∧ (l.map fun p => p.lanes.length).sum ≤ 32
end Sys2Proof.Claims

/-- R63, R64, R132, R133, R294, R297, R299, R403: the sequencer's LDECL discards a register's plies and declares it anew; RDL
gives a gathered lane and leaves the plies; SETTLE writes the combination into the home ply and clears the plies; each waits
for the transit bit, and each raises ILLOP where R299 says. A push in transit lands in the home ply. -/
def Sys2Proof.Claims.SequencerLaminatedRegisters : Prop :=
  ∀ (s : State) (c k : Nat) (a d : Reg) (l : LReg) (lane : BitVec 5) (m : RdlMode), s.cur = .seq c k →
    let x := ctxOf s c k
    let n := l.toNat
    let r := lamOf x n
    let v := readS (curSeq s) a
    let w : W32 := v.setWidth 32
    let legal : Prop := v.toNat < 2 ^ 32 ∧ declOk w = true ∧ budgetOk s c k (declWidth w * 48 - declWidth r.decl * 48) = true
    let readable : Prop := declared r.decl = true ∧ (m = .hi → declFmt r.decl = 3)
    let value (g : List Rec) : Word := if declWidth r.decl ≤ lane.toNat then 0 else lamScalar r.decl m (nth g lane.toNat emptyRec)
    (inTransit x n = false →
      (legal → Completes (.ldecl a l) s fun t =>
        NowReg t c k n { decl := w, home := List.replicate (declWidth w) emptyRec, transit := none } [] ∧
        OtherRegisters s t c k n ∧ Retires s t 2 ∧ OnlyCtx s t c k) ∧
      (¬ legal → Completes (.ldecl a l) s fun t => Trapped s t .illop) ∧
      (declared r.decl = true → Completes (.settle l) s fun t =>
        NowReg t c k n { r with home := gatherLanes x n } [] ∧ OtherRegisters s t c k n ∧ Retires s t 2 ∧ OnlyCtx s t c k) ∧
      (curWait s = .none → readable → Completes (.rdl d l lane m) s fun t => WritesS s t d (value (gatherLanes x n)) 2)) ∧
    (inTransit x n = true → Completes (.ldecl a l) s (fun t => WaitsAt s t .none) ∧
      (declared r.decl = true → Completes (.settle l) s fun t => WaitsAt s t .none) ∧
      (curWait s = .none → readable → Completes (.rdl d l lane m) s fun t => WaitsAt s t (.gather n))) ∧
    (∀ g, curWait s = .gathered g → Completes (.rdl d l lane m) s fun t => WritesS s t d (value g) 2) ∧
    (declared r.decl = false → Completes (.settle l) s fun t => Trapped s t .illop) ∧
    (curWait s = .none → ¬ readable → Completes (.rdl d l lane m) s fun t => Trapped s t .illop) ∧
    (∀ p at_, r.transit = some (p, at_) → Completes (.plyPushArrive c k l) s fun t =>
      lamOf (ctxOf t c k) n = { r with home := combineLanes (declKind r.decl) (fitLanes (declWidth r.decl) r.home) p, transit := none } ∧
      (ctxOf t c k).plies = x.plies ∧ (ctxOf t c k).seq = x.seq ∧ OnlyCtx s t c k) ∧
    (x.seq.wait = .gather n → inTransit x n = false → Completes (.laminatedGather c k l) s fun t =>
      (ctxOf t c k).seq = { x.seq with wait := .gathered (gatherLanes x n) } ∧ (ctxOf t c k).lam = x.lam ∧
      (ctxOf t c k).plies = x.plies ∧ OnlyCtx s t c k)

/-- R62, R63, R299: the sequencer's PLY adds one lane's contribution to its unit's ply of the register, or opens one while the
unit's buffer, which the core's contexts share, has room; where it has none, older plies are pushed until its limits hold. It
raises ILLOP for a register that is not declared, a type that does not suit it, and a lane it does not have. -/
def Sys2Proof.Claims.SequencerContributes : Prop :=
  ∀ (s : State) (c k : Nat) (a : Reg) (l : LReg) (lane : BitVec 5) (ty : BitVec 3), s.cur = .seq c k →
    let x := ctxOf s c k
    let n := l.toNat
    let r := lamOf x n
    let v := readS (curSeq s) a
    let legal : Prop := declared r.decl = true ∧ plySuits ty.toNat (declFmt r.decl) = true ∧ lane.toNat < declWidth r.decl
    let one := (List.range (declWidth r.decl)).map fun i =>
      if i = lane.toNat then lamRec r.decl (plyValue ty.toNat v).1 (plyValue ty.toNat v).2 0 0x7F else emptyRec
    let ps := lookD x.plies 64 []
    (legal → (∃ p ∈ ps, p.reg = n) → Completes (.ply a l lane ty) s fun t =>
      (∀ i, lookD (ctxOf t c k).plies i [] = if i = 64 then
        updFirst ps (fun p => p.reg == n) fun p => { p with lanes := combineLanes (declKind r.decl) p.lanes one } else lookD x.plies i []) ∧
      (ctxOf t c k).lam = x.lam ∧ Retires s t 2 ∧ OnlyCtx s t c k) ∧
    (legal → (∀ p ∈ ps, p.reg ≠ n) → PliesFit ({ reg := n, born := 0, lanes := one } :: seqPlies s c) →
      Completes (.ply a l lane ty) s fun t =>
        (∀ i, lookD (ctxOf t c k).plies i [] = if i = 64 then ps ++ [{ reg := n, born := (coreOf s c).plyNo, lanes := one }]
          else lookD x.plies i []) ∧
        (ctxOf t c k).lam = x.lam ∧ Retires s t 2 ∧ OnlyCtx (hidePlyNo c s) (hidePlyNo c t) c k) ∧
    (legal → (∀ p ∈ ps, p.reg ≠ n) → PliesFit (seqPlies s c) → ((coreOf s c).ctxs.map (·.1)).Pairwise (· < ·) →
      Completes (.ply a l lane ty) s fun t => PliesFit (seqPlies t c) ∧ Retires s t 2) ∧
    (¬ legal → Completes (.ply a l lane ty) s fun t => Trapped s t .illop)

/-- R213, R296: contributions to one register combine to the same record in any order and any grouping. -/
def Obligations.ContributionsCombineInAnyOrder : Prop :=
  ∀ (d : W32) (p q r : Machine.Num × Int × Xb × BitVec 7), declOk d = true →
    let one (z : Machine.Num × Int × Xb × BitVec 7) : Rec := lamRec d z.1 z.2.1 z.2.2.1 z.2.2.2
    let add := combineRec (declKind d)
    add (one p) (one q) = add (one q) (one p) ∧ add (add (one p) (one q)) (one r) = add (one p) (add (one q) (one r)) ∧
    add (one p) emptyRec = one p ∧ add emptyRec (one p) = one p

/-- R294–R298, R159: the element forms: LDECL, PLY and SETTLE record their write in the instance and close its count, which one
that takes no effect closes too; RDL delivers the gathered lanes, after the gather of R64 and four cycles, and the bits of the
lanes read. While something that must come first is still to be performed, the RDL waits in its element. -/
def Sys2Proof.Claims.ElementLaminatedRegisters : Prop :=
  ∀ (s : State) (h : EHdr) (f : Fire) (l : LReg), FiresAny s h f →
    let x := ctxOf s f.c f.k
    let n := l.toNat
    let d := (lamOf x n).decl
    let w := declWidth d
    let closes (i : Instr) (es : List Effect) : Prop := ∀ j, InInst s f j 1 → Completes i s fun t =>
      Fired s t f ∧ (ctxOf t f.c f.k).lam = x.lam ∧ (ctxOf t f.c f.k).plies = x.plies ∧ ∃ j', NowInst t f j' ∧
        j'.effects = j.effects ++ es ∧ j'.closedL = j.closedL ++ [f.e * 32 + f.set.slot] ∧ j'.fired = j.fired + 1
    (f.void = true → closes (.ldeclE h l) [] ∧ closes (.settleE h l) [] ∧ (∀ y, closes (.plyE h y l) []) ∧
      ∀ m, Completes (.rdlE h m l) s fun t => SendsNull s t f 1) ∧
    (f.void = false →
      (declOk (f.x 0 0) = true → closes (.ldeclE h l) [.ldecl n (f.x 0 0)]) ∧
      (declared d = true → closes (.settleE h l) [.settle n]) ∧
      (∀ y, declared d = true → tySuits y (declFmt d) = true →
        let xb := (f.op 0).xb
        closes (.plyE h y l) [.ply n f.e ((List.range w).map fun i =>
          if i < f.g then lamRec d ((tyFmt y).read (f.x 0 i).toNat) (ival (tyBits y) false (f.x 0 i)) xb
            (if xb = 0 then 0x7F else BitVec.ofNat 7 f.e)
          else emptyRec)]) ∧
      (∀ m, declared d = true → (m = .hi → declFmt d = 3) → rdlWaits s f.c f.k f.set.inst n = false → Completes (.rdlE h m l) s fun t =>
        let g := gatherLanes x n
        let lane (i : Nat) : Nat × Xb := lamRead d m (nth g i emptyRec)
        let all := (List.range w).foldl (fun b i => b ||| recXb (nth g i emptyRec)) 0
        let read := (List.range f.g).foldl (fun b i => if w ≤ i then b else b ||| (lane i).2) 0
        Delivered s t f (10 + (present x n).length * ((w + 7) / 8))
          ((List.range f.g).map fun i => if w ≤ i then 0 else BitVec.ofNat 32 (lane i).1) (all ||| read) ∧
        (ctxOf t f.c f.k).plies = x.plies ∧ (ctxOf t f.c f.k).lam = x.lam) ∧
      (∀ m, rdlWaits s f.c f.k f.set.inst n = true → Completes (.rdlE h m l) s fun t =>
        (elemOf t f.c f.e).issuing = none ∧ ∃ r, (elemOf t f.c f.e).ready = r :: (elemOf s f.c f.e).ready ∧
          r = { f.set with charges := [] } ∧ ctxOf t f.c f.k = x ∧ t.hbm = s.hbm))

/-- Laminated registers from the sequencer and from elements (R62–R64, R132, R133, R294–R299). -/
def Obligations.LaminatedRegisters : Prop :=
  Claims.SequencerLaminatedRegisters ∧ Claims.SequencerContributes ∧ Claims.ElementLaminatedRegisters

/-! ### Memory instructions of an element -/
namespace Sys2Proof.Claims
/-- An address's page stands in the core's micro-TLB and allows the access: it translates to `p`, with no walk. -/
def Hot (s : State) (c k : Nat) (need : Need) (va : Nat) (p : Phys) : Prop :=
  let root := (ctxOf s c k).r.xlroot
  root.getLsbD 0 = true ∧ va < 2 ^ 48 ∧ ∃ w e, utlbFind s c (field root 52 12) (va / 4096) need.write = some (w, e) ∧
    leafCheck need e.leaf (e.pa va) = none ∧ p = { pa := e.pa va, leaf := e.leaf }
/-- Nothing holds the accesses of the region: no copy, lock, bandwidth limit, request in flight or faulted atomic. -/
def Unheld (s : State) (c k : Nat) : Prop :=
  (coreOf s c).copies = [] ∧ s.hbmStacks = [] ∧ (coreOf s c).bwEn = false ∧ s.reqs = [] ∧ s.deferred = false ∧
  (ctxOf s c k).late = []
/-- What a load may change outside its core: the slices' lines and tasks' signatures. -/
def butLines (s t : State) : State := { t with lines := s.lines, plru := s.plru, tasks := s.tasks }
/-- Lane l's address, with the hi operand at position n (R304). -/
def laneVa (f : Fire) (n l : Nat) : Nat := (f.x 0 l).toNat + 2 ^ 32 * ((f.x n 0).toNat % 2 ^ 16)
/-- The hi operand, if any, names a canonical address. -/
def HiOk (f : Fire) (n : Nat) : Prop := (f.x n 0).toNat < 2 ^ 16
/-- Every lane's access passes its checks, in increasing order (R306), and lane l's reaches `p l`; the translations leave `u`. -/
def LanesReach (s : State) (f : Fire) (need : Need) (op : ReqOp) (p : Nat → Phys) (u : State) : Prop :=
  ∃ t, lanesFault s f.c f.k need (f.cells 1 op.bytes) = (t, none) ∧
    findLanes t f.c f.k need ((f.cells 1 op.bytes).map fun x => (x.1, op)) =
      (u, (List.range f.g).map fun l => { va := f.va 1 l, op := op, p := p l })
/-- The byte a load sees: the last of the stores that precede it in program order, or what is there (R113). -/
def seen (stores : List Effect) (space a : Nat) (there : Byte) : Byte :=
  match forwarded stores space a with | some v => v | none => there
/-- The little-endian number of n bytes from the i-th on. -/
def num (b : Nat → Byte) (i n : Nat) : Nat := ((List.range n).map fun j => (b (i + j)).toNat * 256 ^ j).sum
/-- A load's token waits for LOAD_RESPONSE (R307) with all its lanes: it will carry these lanes and bits. -/
def LoadTokens (s t : State) (f : Fire) (y : Ty) (lanes : List W32) (xb : Xb) : Prop :=
  ∃ w, (coreOf t f.c).loads = (coreOf s f.c).loads ++ [w] ∧ (∀ z ∈ w.lanes, z.req = none) ∧ w.trap = none ∧ w.again = none ∧ w.ty = y ∧
    loadFiring w w.lanes = f.firing (result f f.set.colour lanes xb) (result f f.set.colour lanes xb) s.cycle
/-- A lane of a loaded value: sign-extended for the integers, zero-extended for the others (R306). -/
def LoadedLane (y : Ty) (v : Nat) (r : W32) : Prop := if y.isInt then r.toInt = (v : Int).bmod (2 ^ tyBits y) else r.toNat = v
end Sys2Proof.Claims

/-- R113, R304, R306, R309, R321: a load that nothing holds, whose lanes pass their checks, gives every lane the little-endian
bytes that the stores before it in program order, or else memory, hold there; AXRD the object rounded once, with its bits; BLD
the buffer's bytes. One that takes no effect sends a null token. -/
def Sys2Proof.Claims.ElementLoads : Prop :=
  ∀ (s : State) (h : EHdr) (f : Fire) (y : Ty) (i : BitVec 5) (q : ElemOrd),
    (FiresNull s h f → ∀ j, j = .lde h y i q ∨ (∃ m, j = .axrdE h m i q) ∨ j = .bldE h y i q ∨ j = .ldscE h y i →
      Completes j s fun t => SendsNull s t f 1) ∧
    (Fires s h f → laterLoads (ctxOf s f.c f.k) f.set.inst i.toNat = [] →
      let before := earlierStores (ctxOf s f.c f.k) f.set.inst i.toNat
      (∀ (op : ReqOp) (p : Nat → Phys) (need : Need) (u : State), HiOk f 1 → Unheld s f.c f.k → need = { needLoad with host := need.host } →
        loadHeld s f q.code.toNat (globalRec s f i.toNat (f.cells 1 op.bytes)) = false → LanesReach s f need op p u →
        (∀ l < f.g, Clean u (p l) op.bytes) →
        let b (l j : Nat) : Byte := seen (if (p l).ord = 2 then [] else before) 0 (f.va 1 l + j) (byteAt u (p l) j)
        (op = .load (tyBits y / 8) → need.host = true → Completes (.lde h y i q) s fun t => ∃ v : Nat → W32,
          (∀ l < f.g, LoadedLane y (num (b l) 0 (tyBits y / 8)) (v l)) ∧ LoadTokens s t f y ((List.range f.g).map v) 0 ∧
          Fired u (butLines u t) f) ∧
        (∀ m : AxFmt, op = .axrd m.code.toNat → need.host = false → Completes (.axrdE h m i q) s fun t => ∃ (v : Nat → W32) (x : Nat → Xb),
          (∀ l < f.g, let o := exactRound (axFmt m) .rne (BitVec.ofNat 320 (num (b l) 0 40)) (BitVec.ofNat 3 (num (b l) 40 8 / 2 ^ 61))
            (v l).toNat = o.1 ∧ x l = o.2 ||| BitVec.ofNat 6 (num (b l) 40 8 / 2 ^ 55)) ∧
          LoadTokens s t f (axTy m) ((List.range f.g).map v) ((List.range f.g).foldl (fun z l => z ||| x l) 0) ∧
          Fired u (butLines u t) f)) ∧
      (∀ p : Nat → BufPlace, let hd : Half := (f.x 0 0).extractLsb' 0 16
        let n := tyBits y / 8
        let o := handleCore f.c hd
        let r : LoadRec := { LoadRec.bare (f.e * 32 + f.set.slot) i.toNat with
          space := 1 + hd.toNat, cells := (List.range f.g).map fun l => ((f.x 1 l).toNat, n) }
        let b (l j : Nat) : Byte := seen before (1 + hd.toNat) ((f.x 1 l).toNat + j) (bufByte s (p l) j)
        loadHeld s f q.code.toNat r = false → farBusy s f.c f.k hd = false → (coreOf s f.c).copies = [] → (coreOf s f.c).bwEn = false →
        s.deferred = false → PortFree s o (hSpace hd) →
        (∀ l < f.g, bufCheckOf f.set.held s f.c f.k 1 hd none (f.x 1 l).toNat n false = .ok (p l) ∧ (bufRead s (p l) n).2 = none) →
        Completes (.bldE h y i q) s fun t => ∃ v : Nat → W32, (∀ l < f.g, LoadedLane y (num (b l) 0 n) (v l)) ∧
          LoadTokens s t f y ((List.range f.g).map v) 0 ∧ Fired (hidePorts o s) (hidePorts o t) f))

namespace Sys2Proof.Claims
/-- The atomics of an element (R320): the instruction, its code, and its data, compare and hi operands. -/
def elemAtomics : List ((EHdr → BitVec 5 → ElemOrd → Instr) × Nat × Nat × Nat × Nat) :=
  [(.aaddE, 0, 1, 1, 2), (.aandE, 1, 1, 1, 2), (.aorE, 2, 1, 1, 2), (.axorE, 3, 1, 1, 2), (.aminE, 4, 1, 1, 2),
   (.amaxE, 5, 1, 1, 2), (.aminuE, 6, 1, 1, 2), (.amaxuE, 7, 1, 1, 2), (.aswpE, 8, 1, 1, 2), (.acasE, 9, 2, 1, 3),
   (.afminE, 10, 1, 1, 2), (.afmaxE, 11, 1, 1, 2)]
/-- What the twelve atomics write for an old value, an operand and a compare value of 4 bytes (R319). -/
def atomWrites (op old v cmp : Nat) : Option Nat :=
  match op with
  | 10 => some (fpPick false old v) | 11 => some (fpPick true old v)
  | _ => match atomics[op]? with | some x => x.2.1 4 old v cmp | none => none
/-- A firing's effects, if any, are recorded in its instance, whose count it closes (R159, R307); nothing is stored before the
commit. -/
def RecordedIn (s t : State) (f : Fire) (j : Inst) (es : List Effect) (closes : Bool) : Prop :=
  Fired s t f ∧ ∃ j', NowInst t f j' ∧ j'.effects = j.effects ++ es ∧ j'.fired = j.fired + 1 ∧
    j'.closedE = (if closes then j.closedE ++ [f.e * 32 + f.set.slot] else j.closedE)
end Sys2Proof.Claims

/-- R59, R304, R306, R307, R309, R320–R322, R314: a store, SC operation, atomic, accumulate operation, typed-buffer store or COPY
of an instance whose accesses pass their checks waits in the commit buffer, where it finds room, with its addresses and data,
and closes its count (LDSC and COPY close none). One that takes no effect closes its count too; an atomic then sends a null. -/
def Sys2Proof.Claims.ElementEffectsAreRecorded : Prop :=
  ∀ (s : State) (h : EHdr) (f : Fire) (y : Ty) (i : BitVec 5) (q : ElemOrd) (j : Inst),
    (FiresNull s h f → InInst s f j 0 →
      let shut (ins : Instr) : Prop := Completes ins s fun t => RecordedIn s t f j [] true
      shut (.ste h y i q) ∧ shut (.stscE h y i) ∧ shut (.bstE h y i q) ∧ (∀ m, shut (.axaddE h m i q)) ∧ shut (.axclrE h i q) ∧
      (∀ a ∈ elemAtomics, Completes (a.1 h i q) s fun t => RecordedIn s t f j [] true ∧
        (h.om ≠ 0 → SendsNull s t f 1)) ∧
      Completes (.copyE h) s fun t => RecordedIn s t f j [] false) ∧
    (Fires s h f → laterLoads (ctxOf s f.c f.k) f.set.inst i.toNat = [] →
    let at_ := f.e * 32 + f.set.slot
    let n := tyBits y / 8
    let lane {α : Type} (g : Nat → α) : List α := (List.range f.g).map g
    let low (x : W32) (m : Nat) : List Byte := (List.range m).map fun b => BitVec.ofNat 8 (x.toNat / 256 ^ b)
    let after : Firing :=
      let t : Token := { result f f.set.colour (lane fun _ => 0) 0 with src := 0 }
      f.firing t t 0
    let global (e : Effect) (hi m : Nat) (need : Need) (ins : Instr) (closes : Bool) : Prop :=
      ∀ u, InInst s f j e.entries → HiOk f hi → lanesFault s f.c f.k need (lane fun l => (laneVa f hi l, m)) = (u, none) →
      Completes ins s fun t => RecordedIn u t f j [e] closes
    (q ≠ .sc → global (.store at_ i.toNat q.code.toNat (lane fun l => (laneVa f 2 l, low (f.x 1 l) n))) 2 n needStore (.ste h y i q) true) ∧
    global (.store at_ i.toNat 6 (lane fun l => (laneVa f 2 l, low (f.x 1 l) n))) 2 n (needSc true) (.stscE h y i) true ∧
    global (.scload at_ i.toNat y (lane fun l => laneVa f 1 l) after) 1 n (needSc false) (.ldscE h y i) false ∧
    (∀ a ∈ elemAtomics,
      let cells := lane fun l => (laneVa f a.2.2.2.2 l, f.x a.2.2.1 l, f.x a.2.2.2.1 l)
      ∀ b, b = (List.range f.g).any (fun l => orderedAt s f q.code.toNat (laneVa f a.2.2.2.2 l)) →
        global (.atomic at_ i.toNat q.code.toNat a.2.1 b cells after) a.2.2.2.2 4
          { needStore with host := q.code.toNat != 6 && hostAtomic a.2.1 } (a.1 h i q) true) ∧
    (∀ m : AxFmt, global (.axadd at_ i.toNat q.code.toNat m.code.toNat (lane fun l => (laneVa f 2 l, f.x 1 l)) f.xb) 2 64
      { needStore with host := false } (.axaddE h m i q) true) ∧
    global (.axclr at_ i.toNat q.code.toNat (lane fun l => laneVa f 1 l)) 1 64 { needStore with host := false } (.axclrE h i q) true ∧
    (let hd : Half := (f.x 0 0).extractLsb' 0 16
     let e : Effect := .bst at_ i.toNat q.code.toNat hd (lane fun l => ((f.x 1 l).toNat, low (f.x 2 l) n))
     InInst s f j e.entries → (∀ l < f.g, ∃ p, bufCheck s f.c f.k 1 hd none (f.x 1 l).toNat n true = .ok p) →
      Completes (.bstE h y i q) s fun t => RecordedIn s t f j [e] true) ∧
    (HiOk f 1 → InInst s f j 0 → Completes (.copyE h) s fun t => RecordedIn s t f j [.copy (
      let tok := result f f.set.colour ((List.range (max f.g 2)).map fun l =>
        if l = 0 then f.x 0 0 else if l = 1 then BitVec.ofNat 32 ((f.x 1 0).toNat % 2 ^ 16) else 0) 0
      f.firing tok tok 0)] false))

/-- Element loads, and recorded effects (R304, R306, R307, R309, R314, R320–R322). -/
def Obligations.ElementMemory : Prop :=
  Claims.ElementLoads ∧ Claims.ElementEffectsAreRecorded

/-- R160, R307, R319–R321: the oldest instance, when it is COMPLETE and nothing traps or faults, commits: it is gone, and its
effects are performed: a store writes its bytes, an atomic writes what R319 gives and its old value waits for its token. -/
def Obligations.InstancesCommit : Prop :=
  ∀ (s : State) (c k : Nat) (i : Inst) (r : List Inst) (at_ : Nat) (tok : Token),
    let x := ctxOf s c k
    commitSlot s c = some (k, i) → x.insts = i :: r → i.exitTok = some (at_, tok) → exitTrap x tok.xb = none → i.chain = false →
    (∀ j ∈ r, j.age ≠ i.age) → blockSteps s c k = false → Canonical s = true → Unheld s c k →
    (∀ j < 4, (ctxOf s c j).late = []) →
    let gone (t : State) : Prop := (ctxOf t c k).insts = r ∧ (ctxOf t c k).progress = s.cycle ∧ (ctxOf t c k).seq = x.seq
    (i.effects = [] → Completes (.instanceCommit c) s fun t => gone t ∧ t.hbm = s.hbm ∧ t.hostMem = s.hostMem) ∧
    (∀ a n va bs p, i.effects = [.store a n 0 [(va, bs)]] → n < 32 → bs.length ∈ [1, 2, 4] → va % bs.length = 0 → Hot s c k needStore va p →
      Completes (.instanceCommit c) s fun t => gone t ∧ (∀ b < bs.length, byteAt t p b = nth bs b 0) ∧ MemoryBut s t p bs.length) ∧
    (∀ a n op va v cmp fr p, i.effects = [.atomic a n 0 op false [(va, v, cmp)] fr] → n < 32 → op < 12 → va % 4 = 0 →
      Hot s c k { needStore with host := hostAtomic op } va p → Clean s p 4 → Completes (.instanceCommit c) s fun t =>
        gone t ∧ (coreOf t c).loads = (coreOf s c).loads ++ (if fr.om = 0 then [] else
          [{ firing := fr, ty := .i32, at_ := none, trap := none, again := none,
             lanes := [{ req := none, v := BitVec.ofNat 32 (numberAt s p 4), xb := 0, bad := false }] }]) ∧
        (match atomWrites op (numberAt s p 4) v.toNat cmp.toNat with
         | some w => numberAt t p 4 = w ∧ MemoryBut s t p 4
         | none => SameMemory s t))

/-! ### The dataflow region at work -/
namespace Sys2Proof.Claims
/-- A token waits before its element, at the only place of the region that offers it one, its context not traced. -/
def Offered (s : State) (c k : Nat) (f : Flight) : Prop :=
  (coreOf s c).door = [(k, f)] ∧ f.dest.elem < 64 ∧ arrivals s c f.dest.elem = [.door 0] ∧ regionMoves s c k = true ∧
  (ctxOf s c k).trace = 0
/-- Its slot holds an instruction of NT operands that belongs to no block (R158), and no operand is stored. -/
def OpenSlot (s : State) (c k : Nat) (f : Flight) (nt : Nat) : Prop :=
  (wayOf (coreOf s c) f.dest.elem k).v = true ∧ slotValid (coreOf s c) f.dest.elem k f.dest.slot = true ∧
  placeAt (ctxOf s c k) f.dest.elem f.dest.slot = none ∧ wordNt (slotWord (coreOf s c) f.dest.elem k f.dest.slot) = nt ∧
  wordOpc (slotWord (coreOf s c) f.dest.elem k f.dest.slot) ≠ 0x88 ∧ f.dest.opnd < nt ∧ (elemOf s c f.dest.elem).store = []
/-- The ready set of a one-operand instruction in no block. -/
def loneSet (k : Nat) (f : Flight) (t : Token) : RSet :=
  { way := k, slot := f.dest.slot, colour := f.tok.colour, iter := f.tok.iter, toks := [t], inst := 0, charges := [], held := false }
/-- The rest of an element's queue and store is as before. -/
def ElementSame (s t : State) (c e : Nat) : Prop :=
  (elemOf t c e).issuing = (elemOf s c e).issuing ∧ (elemOf t c e).ports = (elemOf s c e).ports ∧ (elemOf t c e).ways = (elemOf s c e).ways
end Sys2Proof.Claims

/-- R171, R173, R174: a token of a one-operand instruction enters the ready queue as a set; one of a two-operand instruction
is stored in its colour's reserve, or, with no entry free, is written as an overflow record; one for an empty slot raises
ILLOP; an overflow record that completes a set is re-injected, its lanes, bits and mark as memory holds them, and its slot is
free again. -/
def Sys2Proof.Claims.TokensMatched : Prop :=
  ∀ (s : State) (c k : Nat) (f : Flight), let e := f.dest.elem
    let x := elemOf s c e
    (Offered s c k f →
      (OpenSlot s c k f 1 → x.ready.length < 8 → Completes (.tokenArrive c e 0) s fun t =>
        (coreOf t c).door = [] ∧ (elemOf t c e).store = [] ∧ ElementSame s t c e ∧ (ctxOf t c k).seq = (ctxOf s c k).seq ∧
        hideCore c t = hideCore c s ∧ (elemOf t c e).ready = x.ready ++ [loneSet k f f.tok]) ∧
      (∀ h, OpenSlot s c k f 2 → chargeFor (coreOf s c) e k f.tok = some h → Completes (.tokenArrive c e 0) s fun t =>
        (coreOf t c).door = [] ∧ (elemOf t c e).ready = x.ready ∧ ElementSame s t c e ∧ hideCore c t = hideCore c s ∧
        (elemOf t c e).store = [{ way := k, colour := f.tok.colour, iter := f.tok.iter, slot := f.dest.slot
                                  opnds := [(f.dest.opnd, f.tok)], charges := [h], first := s.cycle }]) ∧
      (OpenSlot s c k f 2 → chargeFor (coreOf s c) e k f.tok = none → (ctxOf s c k).r.ovfbase.getLsbD 0 = true →
        (ctxOf s c k).ovf = [] → Canonical s = true → f.tok.lanes.length ≤ 32 → f.dest.slot < 32 → f.dest.opnd < 4 → Completes (.tokenArrive c e 0) s fun t =>
          let a : Phys := { pa := field (ctxOf s c k).r.ovfbase 16 36 * 65536, leaf := 0 }
          let w : Word := BitVec.ofNat 64 (numberAt t a 8)
          (coreOf t c).door = [] ∧ (elemOf t c e).store = [] ∧ (∃ g, (ctxOf t c k).ovf = [(0, g)] ∧ g.tok = f.tok ∧ g.dest = f.dest) ∧
          ((lookD x.ovfs k 0) ≠ 0xFFFFFFFF → field w 48 16 = f.tok.iter.toNat ∧ field w 40 8 = f.tok.colour.toNat ∧
            field w 34 6 = e ∧ field w 29 5 = f.dest.slot ∧ field w 27 2 = f.dest.opnd ∧ field w 21 6 = f.tok.lanes.length ∧
            w.getLsbD 14 = f.tok.last)) ∧
      ((wayOf (coreOf s c) e k).v = true → slotValid (coreOf s c) e k f.dest.slot = false → (ctxOf s c k).trap = none →
        placeAt (ctxOf s c k) e f.dest.slot = none → Completes (.tokenArrive c e 0) s fun t =>
          (coreOf t c).door = [] ∧
          (ctxOf t c k).trap = some { cause := .illop, unit := 1, elem := e, slot := f.dest.slot, xb := 0, colour := f.tok.colour, iter := f.tok.iter })) ∧
    (let a : Phys := { pa := field (ctxOf s c k).r.ovfbase 16 36 * 65536, leaf := 0 }
     let n := f.tok.lanes.length
     let w : Word := BitVec.ofNat 64 (numberAt s a 8)
     (ctxOf s c k).ovf = [(0, f)] → regionMoves s c k = true → OpenSlot s c k f 1 → x.ready.length < 8 → Clean s a (16 + 16 * ((n + 3) / 4)) →
      Completes (.overflowReinject c k e) s fun t => (ctxOf t c k).ovf = [] ∧ ElementSame s t c e ∧
        (elemOf t c e).ready = x.ready ++ [loneSet k f
          { f.tok with lanes := (List.range n).map fun l => BitVec.ofNat 32 (numberAt s { a with pa := a.pa + 16 + 4 * l } 4)
                       xb := BitVec.ofNat 6 (field w 15 6), last := w.getLsbD 14 }])

/-- R172, R276, R307, R178: the oldest set that may issue takes the issue port for ceil(g/8) cycles; a result enters the port
registers its OM names, a load's token follows its responses; a token hops to the next box, which has room for it. -/
def Sys2Proof.Claims.FiringsIssueAndMove : Prop :=
  ∀ (s : State) (c k e : Nat), let x := elemOf s c e
    (∀ r l, x.issuing = none → x.busyTo ≤ s.cycle → x.ready = r :: l → r.way = k → regionMoves s c k = true →
      (ctxOf s c k).gates < 2 → (ctxOf s c k).trace = 0 → mayIssue s c e r = true → replayLets s c e r = true → Completes (.elementIssue c e) s fun t =>
        (elemOf t c e).issuing = some { r with charges := [] } ∧ (elemOf t c e).ready = l ∧
        (elemOf t c e).busyTo = s.cycle + (colourWidth (ctxOf s c k) r.colour + 7) / 8 ∧ (elemOf t c e).store = x.store ∧
        (ctxOf t c k) = ctxOf s c k ∧ hideCore c t = hideCore c s) ∧
    (∀ r, (coreOf s c).results = [r] → r.way = k → r.elem = e → regionMoves s c k = true → r.due ≤ s.cycle →
      Completes (.firingResult c 0) s fun t => (coreOf t c).results = [] ∧ (ctxOf t c k) = ctxOf s c k ∧
        hideCore c t = hideCore c s ∧ (∀ q, q ≠ e → elemOf t c q = elemOf s c q) ∧
        ∀ p < 4, look (elemOf t c e).ports (k * 4 + p) =
          if r.om.getLsbD p ∧ branches (wayOf (coreOf s c) e k) p ≠ [] then
            some { even := r.even, odd := r.odd, slot := r.slot, done := 0, freeAt := s.cycle }
          else look x.ports (k * 4 + p)) ∧
    (∀ w l, (coreOf s c).hold = [] → (coreOf s c).loads = [w] → w.firing.way = k → regionMoves s c k = true →
      loadAnswers s w = some l → loadRefusal s w = none → w.trap = none →
      (∀ a i r, w.at_ = some a → instOf (ctxOf s c k) w.firing.even.src = some i → i.loads.find? (fun q => q.at_ == a) = some r →
        laterLoads (ctxOf s c k) i.age r.lsid = []) →
      Completes (.loadResponse c 0) s fun t => (coreOf t c).loads = [] ∧
        if w.firing.om = 0 then (coreOf t c).results = (coreOf s c).results else
        ∃ r, (coreOf t c).results = (coreOf s c).results ++ [r] ∧ r.due = s.cycle ∧ r.om = w.firing.om ∧
          r.even.lanes = l.map (fun p => if p.bad then 0 else loadedLane w.ty p.v) ∧ r.even.iter = w.firing.even.iter ∧
          r.even.xb = l.foldl (fun b p => b ||| p.xb ||| (if p.bad then xPS else 0)) w.firing.even.xb) ∧
    (∀ key f o b, liveMoves s c (fun j => regionMoves s c j) = [.skid key] → lookD (coreOf s c).skid key [] = [f] →
      key / 40 % 4 = k → headHop (coreOf s c) k (key / 160) (key % 40) f.entry = .next o b → f.hops < 64 →
      (b * 4 + k) * 40 + o ≠ key → Completes (.tokenHop c 0) s fun t => lookD (coreOf t c).skid key [] = [] ∧
        lookD (coreOf t c).skid ((b * 4 + k) * 40 + o) [] = lookD (coreOf s c).skid ((b * 4 + k) * 40 + o) [] ++ [{ f with hops := f.hops + 1 }] ∧
        (ctxOf t c k) = ctxOf s c k ∧ hideCore c t = hideCore c s)

/-- The region at work (R171–R174, R178, R276, R307). -/
def Obligations.RegionMatchesAndFires : Prop :=
  Claims.TokensMatched ∧ Claims.FiringsIssueAndMove

/-- R152, R166, R188, R302, R41: a DRAINING colour of which nothing is left is FREE; at the round boundary the constants
staged before its ROUND are in force and the round number has advanced; an element's record is fetched when a token waits for it; an ACC
flushes its oldest closed run when nothing older is outstanding; a unit stopped at a fault goes on once its record is
released. -/
def Obligations.RegionHousekeeping : Prop :=
  ∀ (s : State) (c k e : Nat), let x := ctxOf s c k
    (∀ n : Byte, ∀ g, look x.colours n.toNat = some (g, true) → (x.colours.map (·.1)).Nodup → outstanding s c k n = [] →
      Completes (.colourFree c k n) s fun t => look (ctxOf t c k).colours n.toNat = none ∧
        (∀ m, m ≠ n.toNat → look (ctxOf t c k).colours m = look x.colours m) ∧ (ctxOf t c k).seq = x.seq ∧ OnlyCtx s t c k) ∧
    (regionMoves s c k = true → x.roundReq = true → x.counters = [] → x.image = 0 → (∀ v, x.ripe = [(8 * e + 3, v)] → e < 64 →
      Completes (.roundBoundary c k) s fun t => (ctxOf t c k).round = x.round + 1 ∧ (ctxOf t c k).roundReq = false ∧
        (ctxOf t c k).ripe = [] ∧ (ctxOf t c k).staged = x.staged ∧ lookD (wayOf (coreOf t c) e k).k 3 0 = v ∧
        (∀ n, n ≠ 3 → lookD (wayOf (coreOf t c) e k).k n 0 = lookD (wayOf (coreOf s c) e k).k n 0) ∧
        (ctxOf t c k).seq = x.seq ∧ hideCore c t = hideCore c s)) ∧
    (regionMoves s c k = true → e < 64 → (∃ a ∈ arrivals s c e, arrivalWay s c a = k) → (wayOf (coreOf s c) e k).v = false →
      x.image.getLsbD 63 = true → x.elemv.getLsbD e = true → x.cfgStop = [] → ∀ u bs,
      readCfgRecord (modCtx s c k fun z => { z with cfgStop := [] }) c k (field x.image 0 48 + 0x200 + e * 0x200) = (u, .got bs) →
      elemRecBad e x.hportv bs = false → wayAccs (wayOfBytes bs) = 0 → Completes (.configRecordFetch c k e) s fun t =>
        wayOf (coreOf t c) e k = wayOfBytes bs ∧ (∀ q j, (q, j) ≠ (e, k) → wayOf (coreOf t c) q j = wayOf (coreOf u c) q j) ∧
        hideCore c t = hideCore c u) ∧
    (∀ slot r l col it h ty z, regionMoves s c k = true → slot < 32 → (∀ j < slot, accFlush s c k e j = none) →
      lookD (elemOf s c e).acc (k * 32 + slot) [] = r :: l → r.held = some (col, it) →
      (∀ n ∈ outstanding s c k col, older n it = false) → decodeElem (slotWord (coreOf s c) e k slot) = .ok (.acc h ty z) →
      portsFree (coreOf s c) e k (BitVec.ofNat 4 (wordOm (slotWord (coreOf s c) e k slot))) = true →
      Completes (.accFlush c k e) s fun t => lookD (elemOf t c e).acc (k * 32 + slot) [] = l ∧
        ∃ q, (coreOf t c).results = (coreOf s c).results ++ [q] ∧ q.elem = e ∧ q.way = k ∧ q.slot = slot ∧ q.even.colour = col ∧
          q.even.iter = it ∧ q.even.last = true ∧ q.odd = q.even ∧ q.due = s.cycle ∧
          q.even.lanes = (List.range (colourWidth x col)).map fun n => (redRead z ty (nth r.lanes n emptyRec)).1) ∧
    (∀ n, isReleased x.r n = true →
      (x.seqStop = some n → Completes (.faultedUnitRestart c k 0) s fun t => (ctxOf t c k).seqStop = none ∧
        (ctxOf t c k).seq = x.seq ∧ OnlyCtx s t c k) ∧
      (∀ i, regionMoves s c k = true → x.gates < 2 → x.insts = [i] → i.state = .aborted → i.waitSeq = some n → i.trap = none →
        i.inputs = [] → invPending s (asidOf x) = false → Completes (.faultedUnitRestart c k 1) s fun t => ∃ j, (ctxOf t c k).insts = [j] ∧ j.state = .live ∧
          j.age = i.age ∧ j.effects = [] ∧ j.waitSeq = none ∧ j.fault = none) ∧
      (∀ y, (coreOf s c).copies = [y] → y.key = x.r.key → y.stop = some n → Completes (.faultedUnitRestart c k 2) s fun t =>
        (coreOf t c).copies = [{ y with stop := none }] ∧ hideCore c t = hideCore c s))

/-! ### The matrix engine -/
namespace Sys2Proof.Claims
/-- Hides what a context holds of the matrix engine, its core's engine, and its descriptor table. -/
def hideMatrix (c k : Nat) (s : State) : State :=
  modCore (modCtx s c k fun x => { x with tensors := [], binds := [] }) c fun y =>
    { y with descs := [], clearing := [], mmBusy := none, smPair := none, smKey := none, m := [], l := [] }
/-- The instruction retired, and beside the engine nothing but the sequencer differs. -/
def MatrixRetires (s t : State) (c k : Nat) : Prop := Retires s t 1 ∧ OnlySeqAnd (hideMatrix c k) s t
/-- Entry n of the tensor table is now `v`, and no other entry has changed. -/
def NowTensor (s t : State) (c k n : Nat) (v : Option Tensor) : Prop :=
  tensorOf (ctxOf t c k) n = v ∧ ∀ m, m ≠ n → tensorOf (ctxOf t c k) m = tensorOf (ctxOf s c k) m
/-- Binding n is now `v`, and no other binding has changed. -/
def NowBind (s t : State) (c k n : Nat) (v : Option Binding) : Prop :=
  look (ctxOf t c k).binds n = v ∧ ∀ m, m ≠ n → look (ctxOf t c k).binds m = look (ctxOf s c k).binds m
/-- Bytes of a row (R335). -/
def rowLength (f cols : Nat) : Nat :=
  match f with
  | 0 | 1 => cols | 2 => cols / 16 * 18 | 3 => cols / 16 * 12 | 4 => cols / 16 * 8 | 5 | 6 => 2 * cols | _ => 4 * cols
/-- A descriptor within the limits of R335; a destination is not sticky. -/
def TensorFits (w : List Word) : Prop :=
  let f := field (dw w 0) 44 4
  let rows := field (dw w 1) 48 16
  let cols := field (dw w 1) 32 16
  let stride := field (dw w 1) 0 32
  f ≤ 8 ∧ field (dw w 0) 20 22 = 0 ∧ field (dw w 2) 0 32 = 0 ∧ dw w 3 = 0 ∧ field (dw w 0) 0 20 % 64 = 0 ∧
  (1 ≤ rows ∧ rows ≤ 4096) ∧ (1 ≤ cols ∧ cols ≤ 4096) ∧ (2 ≤ f → f ≤ 4 → cols % 16 = 0) ∧ stride % 64 = 0 ∧
  (1 < rows → rowLength f cols ≤ stride) ∧ field (dw w 2) 55 8 ≠ 255 ∧ field (dw w 2) 32 31 ≠ 0 ∧
  ¬((dw w 0).getLsbD 43 = true ∧ (dw w 0).getLsbD 42 = true)
/-- The descriptor of a tensor's handle is on a move. -/
def Moves (t : State) (c : Nat) (z : Tensor) (h g : Nat) : Prop := (tensorDesc t c z).map (·.st) = some (.moving h g)
end Sys2Proof.Claims

/-- R336, R338, R356: TDEF takes a legal descriptor, EMPTY for an operand and FULL for a destination; TQRY gives the entry's
word; TTAG.FULL and TTAG.EMPTY send the handle to the engine and retire when it has arrived; TTAG.WAITFULL and
TTAG.WAITEMPTY retire when the tag is so, and wait until then. -/
def Sys2Proof.Claims.TensorsAndTags : Prop :=
  ∀ (s : State) (c k : Nat) (a b d : Reg), s.cur = .seq c k →
    let x := ctxOf s c k
    let v := readS (curSeq s) a
    let n := v.toNat
    n < 256 →
    (∀ t o ws, Calm s → Reaches s (readS (curSeq s) b) 32 needLoad t o → Clean t o 32 → ws = recordAt t o 4 →
      boundTensor x n = false → (∀ z, tensorOf x n = some z → engineSide s c z = false) →
      (field (dw ws 0) 48 16 ≠ 0xFFFF → TensorFits ws → (∀ p ∈ x.tensors, p.1 ≠ n → (tnHandle p.2).toNat ≠ field (dw ws 0) 48 16) →
        Completes (.tdef a b) s fun u => Retires s u 1 ∧ SameMemory t u ∧ (ctxOf u c k).binds = x.binds ∧
          NowTensor s u c k n (some { w0 := dw ws 0, w1 := dw ws 1, w2 := dw ws 2, full := (dw ws 0).getLsbD 42, giver := 0 })) ∧
      (field (dw ws 0) 48 16 = 0xFFFF → (x.tensors.map (·.1)).Nodup →
        Completes (.tdef a b) s fun u => Retires s u 1 ∧ SameMemory t u ∧ NowTensor s u c k n none)) ∧
    Completes (.tqry a d) s (fun t => ∃ w : Word, WritesS s t d w 1 ∧
      match tensorOf x n with
      | none => w = 0
      | some z => field w 48 16 = (tnHandle z).toNat ∧ field w 44 4 = tnFmt z ∧ w.getLsbD 43 = tnSticky z ∧
          w.getLsbD 42 = tnDest z ∧ w.getLsbD 41 = true ∧ w.getLsbD 40 = z.full ∧ field w 32 4 = 0 ∧
          field w 16 16 = tnRows z ∧ field w 0 16 = tnCols z ∧
          ∀ i < 4, w.getLsbD (36 + i) = (match look x.binds i with | some y => bindNames y n | none => false)) ∧
    (∀ z, tensorOf x n = some z →
      (∀ e h, tensorDesc s c z = some e → e.st = .held h → h ≤ 1 → e.key = x.r.key → Calm s → z.full = tnDest z →
        Completes (if tnDest z then .ttagEmpty a else .ttagFull a) s fun t =>
          Moves t c z h 2 ∧ curSeq t = { curSeq s with wait := .moving } ∧ OnlySeqAnd (hideDescs c) s t) ∧
      ((∀ h g, ¬ Moves s c z h g) → curWait s = .moving →
        Completes (.ttagFull a) s (fun t => Retires s t 1 ∧ OnlySeq s t) ∧
        Completes (.ttagEmpty a) s (fun t => Retires s t 1 ∧ OnlySeq s t)) ∧
      (let waits (i : Instr) : Prop := Completes i s fun t => curSeq t = { curSeq s with wait := .none } ∧ OnlySeq s t
       let goes (i : Instr) : Prop := Completes i s fun t => Retires s t 1 ∧ OnlySeq s t
       (z.full = true → goes (.ttagWaitfull a) ∧ waits (.ttagWaitempty a)) ∧
       (z.full = false → waits (.ttagWaitfull a) ∧ goes (.ttagWaitempty a)))) ∧
    (tensorOf x n = none → ∀ i ∈ [Instr.ttagFull a, .ttagEmpty a, .ttagWaitfull a, .ttagWaitempty a],
      Completes i s fun t => Trapped s t .illop)

namespace Sys2Proof.Claims
/-- The tensors d, a, e of DX, AX, BX make a binding with P = p (R339), which fits in the save image (R403): AX is a free
operand or, of the value binding of a softmax pair (R347), the destination of a live binding (log 38). -/
def Bindable (x : Ctx) (p nx na nb : Nat) (d a e : Tensor) : Prop :=
  tensorOf x nx = some d ∧ tensorOf x na = some a ∧ tensorOf x nb = some e ∧
  (tnDest a = false ∧ (tnSticky a = false → boundTensor x na = false) ∨
    (tnDest a = true ∧ tnFmt a ∈ [0, 5, 6] ∧ ∃ p ∈ x.binds, p.2.dx = na)) ∧
  tnDest e = false ∧ tnDest d = true ∧ tnSpace a = 1 ∧ tnSpace e = 0 ∧
  (tnFmt d = 7 ∧ tnSpace d = 2 ∨ (tnFmt d = 0 ∨ tnFmt d = 5 ∨ tnFmt d = 6) ∧ tnSpace d = 1) ∧
  (∃ cl ∈ [[0, 1, 2], [3], [4], [5, 6]], tnFmt a ∈ cl ∧ tnFmt e ∈ cl) ∧
  tnRows e = tnCols a ∧ tnCols a % p = 0 ∧ tnCols a ≤ 512 ∧ rowLength (tnFmt a) (tnCols a) ≤ 256 ∧
  tnCols d = tnCols e ∧ tnCols e ≤ 128 ∧ tnRows d ≤ 128 ∧ tnRows d ≤ tnRows a ∧
  (tnSticky e = false → boundTensor x nb = false) ∧ boundTensor x nx = false
end Sys2Proof.Claims

/-- R339, R344, R345, R347, R349, R355, R357: MMBIND makes a binding of legal tensors live; GATH and MMEPI set its next row
source and epilogue; MMSMX START makes a pair, with m at −inf, l at +0 and a plane of +0; FIN divides the plane by l and
drains it, and retires when the pair has ended; MMUNB ends a binding; MMSTAT gives its status, or m or l. -/
def Sys2Proof.Claims.BindingsSetAndRead : Prop :=
  ∀ (s : State) (c k : Nat) (a b d : Reg), s.cur = .seq c k →
    let x := ctxOf s c k
    let y := coreOf s c
    let v := readS (curSeq s) a
    let w := readS (curSeq s) b
    let u := readS (curSeq s) d
    let n := v.toNat
    (Calm s → n < 4 → look x.binds n = none → w.toNat < 2 ^ 24 → u.toNat < 65536 → field u 2 6 = 0 → budgetOk s c k 65536 = true →
      ∀ td ta te, Bindable x (16 * 2 ^ field u 0 2) (field w 0 8) (field w 8 8) (field w 16 8) td ta te →
      Completes (.mmbind a b d) s fun t => MatrixRetires s t c k ∧ ∃ z, NowBind s t c k n (some z) ∧
        z.dx = field w 0 8 ∧ z.ax = field w 8 8 ∧ z.bx = field w 16 8 ∧ z.p = 16 * 2 ^ field u 0 2 ∧ z.nch = field u 8 8 + 1 ∧
        z.state = .waiting ∧ z.xb = 0 ∧ z.chains = 0 ∧ z.firing = 0 ∧ z.plane = none ∧ z.gatherNext = (0, 0) ∧ z.pair = none) ∧
    (n < 4 → ∀ z, look x.binds n = some z →
      (∀ m : BitVec 2, w.toNat < 256 → (m = 0 ∨ m = 1 ∧ indexTensor x z w.toNat = true ∨ m = 2 ∧ x.hportv.getLsbD 17 = true) →
        Completes (.gath a b m) s fun t => MatrixRetires s t c k ∧
          NowBind s t c k n (some { z with gatherNext := (m.toNat, if m = 1 then w.toNat else 0) })) ∧
      (∀ (amax : Bool) (m : BitVec 2), w.toNat < 2 ^ 24 → u.toNat < 2 ^ 19 → (amax = false → field u 13 6 = 0) → m ≠ 3 →
        colourActive x (w.extractLsb' 0 8) = true → colourWidth x (w.extractLsb' 0 8) = 32 → x.hportv.getLsbD 16 = true →
        z.pair = none → Completes (.mmepi a b d amax m) s fun t => MatrixRetires s t c k ∧
          let e : Epi := { mode := m.toNat, colour := w.extractLsb' 0 8, iter := w.extractLsb' 8 16
                           dest := { elem := field u 0 6, slot := field u 6 5, opnd := field u 11 2 }
                           lreg := if amax then some (field u 13 6) else none }
          NowBind s t c k n (some { z with epiNext := some e })) ∧
      (w.toNat < 4 → u.toNat < 2 ^ 32 → pairAccepts x n w.toNat (u.setWidth 32) = true → y.smPair = none →
        planesHeld y < 2 → Completes (.mmsmxStart a b d) s fun t => MatrixRetires s t c k ∧
          (∃ z', look (ctxOf t c k).binds n = some z' ∧ z'.pair = some (w.toNat, true, u.setWidth 32)) ∧
          (∃ z' p, look (ctxOf t c k).binds w.toNat = some z' ∧ z'.pair = some (n, false, u.setWidth 32) ∧ z'.plane = some p ∧
            ∀ i j, nth (nth p i []) j 0 = 0) ∧
          ((coreOf t c).smPair = some x.r.key ∧ ∀ i < 128, lookD (coreOf t c).m i 0 = 0xFF800000 ∧ lookD (coreOf t c).l i 0 = 0)) ∧
      (∀ z' p tau, w.toNat < 4 → u = 0 → look x.binds w.toNat = some z' → w.toNat ≠ n → z.pair = some (w.toNat, true, tau) → z'.plane = some p →
        z'.fin = false → chainIdle z = true → chainIdle z' = true → z.plane = none → curWait s = .none →
        (∃ td, tensorOf x z.dx = some td ∧ td.full = false) →
        Completes (.mmsmxFin a b d) s fun t => curSeq t = { curSeq s with wait := .moving } ∧ OnlySeqAnd (hideMatrix c k) s t ∧
          ∃ q p', NowBind s t c k w.toNat (some q) ∧ q.state = .draining ∧ q.plane = some p' ∧ q.fin = true ∧ p'.length = p.length ∧
            ∀ i < p.length, ∀ j < (nth p i []).length, nth (nth p' i []) j 0 =
              BitVec.ofNat 32 (roundTo fp32 .rne (divNum (fp32.read (nth (nth p i []) j 0).toNat) (fp32.read (lookD y.l i 0).toNat)).1).1) ∧
      ((look x.binds w.toNat).isSome = true → curWait s = .moving → z.pair = none →
        Completes (.mmsmxFin a b d) s fun t => Retires s t 1 ∧ OnlySeq s t) ∧
      (Calm s → bindBusy z = false → z.pair = none → (x.binds.map (·.1)).Nodup → returning s c k = false →
        (∀ p ∈ x.tensors, withEngine s c p.2 = false) → Completes (.mmunb a) s fun t =>
          MatrixRetires s t c k ∧ NowBind s t c k n none ∧ (ctxOf t c k).tensors = x.tensors) ∧
      (∀ td h, Calm s → bindBusy z = false → z.pair = none → x.binds = [(n, z)] → z.gather.1 = 0 → z.gatherNext.1 = 0 →
        tensorOf x z.dx = some td → withEngine s c td = true → h = td.giver →
        (∀ m, (m = z.ax ∨ m = z.bx) → m ≠ z.dx ∧ ∀ q, tensorOf x m = some q → withEngine s c q = false) → (z.dx, td) ∈ x.tensors →
        Completes (.mmunb a) s fun t => NowBind s t c k n none ∧ Moves t c td 2 h ∧ curSeq t = { curSeq s with wait := .moving } ∧
          OnlySeqAnd (hideMatrix c k) s t) ∧
      (curWait s = .none → bindBusy z = true → Completes (.mmunb a) s fun t =>
        (curSeq t).pc = (curSeq s).pc ∧ NowBind s t c k n (some { z with ending := true }))) ∧
    (n < 4 → curWait s = .moving → returning s c k = false → Completes (.mmunb a) s fun t => Retires s t 1 ∧ OnlySeq s t) ∧
    (n < 4 → Completes (.mmstat a d 0) s fun t => ∃ r : Word, WritesS s t d r 1 ∧
      match look x.binds n with
      | none => r = 0
      | some z => (z.tensor < 256 → z.firing < 256 → z.kgroup < 32 → field r 56 8 = z.cause.code ∧ field r 48 8 = z.tensor ∧ field r 42 6 = z.xb.toNat ∧
          field r 24 16 = z.chains % 65536 ∧ field r 16 8 = z.firing ∧ field r 11 5 = z.kgroup ∧ r.getLsbD 10 = z.plane.isSome ∧
          field r 0 3 = if z.state = .stopped then 4 else if matrixMoves s c k = false then 5
            else if z.state = .waiting then 1 else if z.state = .firing then 2 else 3)) ∧
    (n < 128 →
      Completes (.mmstat a d 1) s (fun t => WritesS s t d (if y.smKey = some x.r.key then (lookD y.m n 0).setWidth 64 else 0) 1) ∧
      Completes (.mmstat a d 2) s (fun t => WritesS s t d (if y.smKey = some x.r.key then (lookD y.l n 0).setWidth 64 else 0) 1))

/-- The matrix engine's instructions (R336, R338, R339, R344–R347, R349, R355–R357). -/
def Obligations.TensorsAndBindings : Prop := Claims.TensorsAndTags ∧ Claims.BindingsSetAndRead

namespace Sys2Proof.Claims
/-- The exact sum of the products of two lists of finite values, in units of 2^−300 (R341). -/
def dotUnits : List Machine.Num → List Machine.Num → Int
  | .fin p m e :: r, .fin q n f :: l => (if p = q then 1 else -1) * ((m * n * 2 ^ (e + f + 300).toNat : Nat) : Int) + dotUnits r l
  | _ :: r, _ :: l => dotUnits r l
  | _, _ => 0
/-- The values of a tensor's row (R203), as its buffer holds it. -/
def rowOf (s : State) (c k : Nat) (t : Tensor) (i : Nat) : List Machine.Num := rowVals (tnFmt t) (tnCols t) (rowBytes s c k t i).1
/-- The core's firing is binding n of context k. -/
def Firing (s : State) (c k n : Nat) (b : Binding) : Prop :=
  (coreOf s c).mmBusy = some (k, n) ∧ look (ctxOf s c k).binds n = some b ∧ matrixMoves s c k = true
/-- A chain that drains to its destination or by tokens, alone on its core. -/
def Draining (s : State) (c k n : Nat) (b : Binding) : Prop :=
  drains s c = [(k, n, b)] ∧ look (ctxOf s c k).binds n = some b ∧ matrixMoves s c k = true ∧ b.out = false
end Sys2Proof.Claims

/-- R340–R342, R344: a ready firing takes the free array, its plane at +0 at the start of a chain; the gather unit reads
its rows; a k-group adds to each element of the plane the exact sum of its products, scaled and rounded once; at the end
the operands return to their givers, and the chain goes on or drains; an index token joins the set, which its marker
completes. -/
def Sys2Proof.Claims.FiringsRun : Prop :=
  ∀ (s : State) (c k n : Nat) (b : Binding), let x := ctxOf s c k
    ((coreOf s c).mmBusy = none → nextFiring s c = some (k, n, b) → look x.binds n = some b → b.state = .waiting →
      b.firing = 0 → b.plane = none → (epiOf b).lreg = none → Completes (.mmFiringStart c) s fun t =>
        (coreOf t c).mmBusy = some (k, n) ∧ (coreOf t c).mmLast = k ∧ hideCore c t = hideCore c s ∧ (ctxOf t c k).seq = x.seq ∧
        ∃ z p, NowBind s t c k n (some z) ∧ z.state = .firing ∧ z.kgroup = 0 ∧ z.gather = b.gatherNext ∧ z.epi = epiOf b ∧
          z.plane = some p ∧ p.length = bindM x b ∧ (∀ i < bindM x b, (nth p i []).length = bindN x b) ∧ ∀ i j, nth (nth p i []) j 0 = 0) ∧
    (∀ d a e rows, Firing s c k n b → b.rows = none → tensorOf x b.dx = some d → tensorOf x b.ax = some a → tensorOf x b.bx = some e →
      b.gather.1 = 0 ∧ rows = List.range (bindM x b) ∨
        (∃ l : List W32, b.gather.1 = 2 ∧ b.index = some l ∧ l.length = bindM x b ∧ rows = l.map (·.toNat)) →
      (∀ r ∈ rows, r < tnRows a ∧ (rowPlace s c k a r false).isOk = true ∧ (rowBytes s c k a r).2 = false) →
      (∀ r < bindK x b, (rowPlace s c k e r false).isOk = true ∧ (rowBytes s c k e r).2 = false) →
      (∀ r < bindM x b, (rowPlace s c k d r true).isOk = true) → (coreOf s c).copies = [] → b.rowXb = [] →
      Completes (.mmGatherComplete c) s fun t => NowBind s t c k n (some { b with rows := some rows }) ∧
        (ctxOf t c k).seq = x.seq ∧ OnlyCtx s t c k) ∧
    (∀ a e rows p, Firing s c k n b → b.rows = some rows → tensorOf x b.ax = some a → tensorOf x b.bx = some e →
      b.kgroup < bindK x b / b.p → b.plane = some p → tnCols e = bindN x b → Completes (.mmKgroup c) s fun t =>
        (∃ z p', NowBind s t c k n (some z) ∧ z.kgroup = b.kgroup + 1 ∧ z.firing = b.firing ∧ z.state = b.state ∧ z.plane = some p' ∧ p'.length = p.length ∧
          ∀ i < p.length, i < rows.length → ∀ j < (nth p i []).length, j < bindN x b →
            let av := ((rowOf s c k a (nth rows i 0)).drop (b.kgroup * b.p)).take b.p
            let bv := (List.range b.p).map fun q => nth (rowOf s c k e (b.kgroup * b.p + q)) j (.fin false 0 0)
            (∀ z ∈ av ++ bv, ∃ g m q, z = .fin g m q) →
            nth (nth p' i []) j 0 = BitVec.ofNat 32 (fpAdd (nth (nth p i []) j 0).toNat
              (shortRound (mulNum (fp32.read (tnScale a)) (fp32.read (tnScale e))).1 { emptyShort with acc := dotUnits av bv }).1).1) ∧
        (ctxOf t c k).seq = x.seq ∧ OnlyCtx s t c k) ∧
    (∀ a e, Firing s c k n b → b.rows.isSome = true → b.kgroup = bindK x b / b.p → b.gather.1 = 0 → b.pair = none →
      tensorOf x b.ax = some a → tensorOf x b.bx = some e → tnSticky a = false → tnSticky e = true → tnDest a = false →
      withEngine s c a = true → b.ax ≠ b.bx → Completes (.mmFiringEnd c) s fun t =>
        (coreOf t c).mmBusy = none ∧ Moves t c a 2 a.giver ∧ hideCore c t = hideCore c s ∧ (ctxOf t c k).seq = x.seq ∧
        ∃ z, NowBind s t c k n (some z) ∧ z.plane = b.plane ∧ z.rows = none ∧ z.kgroup = 0 ∧
          z.firing = (if b.firing + 1 = b.nch then 0 else b.firing + 1) ∧
          z.state = if b.firing + 1 = b.nch then .draining else .waiting) ∧
    (∀ f r, lookD (coreOf s c).hport (17 * 4 + k) [] = f :: r → matrixMoves s c k = true → x.binds = [(n, b)] → b.gatherNext.1 = 2 →
      b.index = none → Completes (.mmIndexSetArrive c k) s fun t => lookD (coreOf t c).hport (17 * 4 + k) [] = r ∧
        NowBind s t c k n (some (if f.tok.last then { b with inSet := [], index := some (b.inSet ++ f.tok.lanes) }
                                else { b with inSet := b.inSet ++ f.tok.lanes })) ∧ hideCore c t = hideCore c s)

/-- R343, R345, R348: the drain writes a row of the plane to DX, or sends 32 of its columns as a token out of hard port 16;
when all have left, the plane frees and DX goes to its giver; a softmax row gives m, l, the probabilities in DX and the
rescaled row of the value plane. -/
def Sys2Proof.Claims.DrainsRun : Prop :=
  ∀ (s : State) (c k n : Nat) (b : Binding), let x := ctxOf s c k
    (∀ d p l, Draining s c k n b → b.epi.mode = 0 → b.drained < bindM x b → tensorOf x b.dx = some d → d.full = false →
      withEngine s c d = true → (coreOf s c).copies = [] → rowPlace s c k d b.drained true = .ok p → b.plane = some l → tnFmt d = 7 →
      (nth l b.drained []).length = bindN x b → Canonical s = true → Completes (.mmDrainRow c) s fun t =>
        NowBind s t c k n (some { b with drained := b.drained + 1 }) ∧ hideCore c t = hideCore c s ∧ (ctxOf t c k).seq = x.seq ∧
        (∀ j < bindN x b, ∀ q < 4, bufByte t p (4 * j + q) = (nth (nth l b.drained []) j 0).extractLsb' (8 * q) 8) ∧
        (∀ sp i, ¬(sp = p.space ∧ p.at_ ≤ i ∧ i < p.at_ + 4 * bindN x b) →
          readByte (lookD (coreOf t c).tbuf sp []) i = readByte (lookD (coreOf s c).tbuf sp []) i)) ∧
    (∀ d l, Draining s c k n b → b.epi.mode = 1 → b.plane = some l → tensorOf x b.dx = some d → let nn := bindN x b
      b.drained < bindM x b * ((nn + 31) / 32) → colourActive x b.epi.colour = true →
      tagOpen s c k b.epi.colour b.epi.iter = true → lookD (coreOf s c).hpOut (16 * 4 + k) [] = [] → Completes (.mmDrainRow c) s fun t =>
        let i := b.drained / ((nn + 31) / 32)
        let q := b.drained % ((nn + 31) / 32)
        (∃ f, lookD (coreOf t c).hpOut (16 * 4 + k) [] = [f] ∧ f.dest = b.epi.dest ∧ f.tok.colour = b.epi.colour ∧ f.tok.iter = b.epi.iter ∧
          f.tok.last = (q + 1 == (nn + 31) / 32) ∧ f.tok.xb = lookD b.rowXb i 0 ∧ f.tok.lanes.length = 32 ∧
          ∀ m < 32, nth f.tok.lanes m 0 = if 32 * q + m < nn then nth (nth l i []) (32 * q + m) 0 else 0) ∧
        NowBind s t c k n (some { b with drained := b.drained + 1, epi := { b.epi with iter := b.epi.iter + 1 } }) ∧
        hideCore c t = hideCore c s) ∧
    (∀ d, Draining s c k n b → b.epi.mode = 0 → b.drained = bindM x b → tensorOf x b.dx = some d → withEngine s c d = true →
      b.epi.lreg = none → b.fin = false → Completes (.mmDrainComplete c) s fun t =>
        Moves t c d 2 d.giver ∧ hideCore c t = hideCore c s ∧
        NowBind s t c k n (some { b with plane := none, rowXb := [], state := .waiting, drained := 0, chains := b.chains + 1 })) ∧
    (∀ v m d p l tau, scoreDrain s c = some (k, n, m, b, tau) → look x.binds n = some b → look x.binds m = some v → m ≠ n →
      tensorOf x b.dx = some d → d.full = false → withEngine s c d = true → (coreOf s c).copies = [] → b.plane = some p → v.plane = some l →
      b.drained + 1 < bindM x b → b.drained < l.length → smxDest d = true → Canonical s = true → Completes (.mmSoftmaxRow c) s fun t =>
        let i := b.drained
        let old := lookD (coreOf s c).m i 0xFF800000
        let rn (q : Machine.Num) : Nat := (roundTo fp32 .rne q).1
        let diff (a e : Nat) : Nat := rn (addNum .rne (fp32.read a) (negNum (fp32.read e))).1
        let z := (nth p i []).map fun r => rn (mulNum (fp32.read r.toNat) (fp32.read tau.toNat)).1
        let mn := fp32.write (z.foldl (fun r e => maxNum r (fp32.read e)) (fp32.read old.toNat))
        let low := fp32.read mn = .inf true
        ∃ (f : Nat) (ps : List Nat), ps.length = z.length ∧
          (low → f = 0x3F800000 ∧ ∀ j < z.length, nth ps j 0 = 0) ∧
          (¬low → f = (special exp2Num (diff old.toNat mn)).1 ∧
            ∀ j < z.length, nth ps j 0 = (special exp2Num (diff (nth z j 0) mn)).1) ∧
          (∀ pl, rowPlace s c k d i true = .ok pl →
            let fm := if tnFmt d = 0 then e4m3 else if tnFmt d = 5 then bf16 else fp16
            let n := if tnFmt d = 0 then 1 else 2
            ∀ j < z.length, ∀ q < n, bufByte t pl (n * j + q) =
              BitVec.ofNat 8 ((roundNum fm .rne true (fp32.read (nth ps j 0))).1 / 256 ^ q)) ∧
          (coreOf t c).m = put (coreOf s c).m i (BitVec.ofNat 32 mn) ∧
          (coreOf t c).l = put (coreOf s c).l i (BitVec.ofNat 32 (rn (addNum .rne
            (mulNum (fp32.read (lookD (coreOf s c).l i 0).toNat) (fp32.read f)).1 (fp32.read (fpSum ps).1)).1)) ∧
          (∃ b' v' l', look (ctxOf t c k).binds n = some b' ∧ b'.drained = i + 1 ∧ look (ctxOf t c k).binds m = some v' ∧
            v'.plane = some l' ∧ l'.length = l.length ∧ (∀ r, r ≠ i → nth l' r [] = nth l r []) ∧
            nth l' i [] = (nth l i []).map fun e => BitVec.ofNat 32 (rn (mulNum (fp32.read e.toNat) (fp32.read f)).1)) ∧
          hideCore c t = hideCore c s)

/-- The matrix engine at work (R340–R345, R348). -/
def Obligations.MatrixEngineRuns : Prop := Claims.FiringsRun ∧ Claims.DrainsRun

/-! ### The marquetry fabric -/
namespace Sys2Proof.Claims
/-- Hides a core's fabric and its descriptor table. -/
def hideFabric (c : Nat) (s : State) : State := modCore s c fun y => { y with mq := Mq.reset, descs := [], clearing := [] }
/-- A command has entered the queue at its end, and its instruction has retired (R363). -/
def Queued (s t : State) (c : Nat) (q : MqCmd) : Prop :=
  (coreOf t c).mq = { (coreOf s c).mq with queue := (coreOf s c).mq.queue ++ [q] } ∧ Retires s t 1 ∧ OnlySeqAnd (hideFabric c) s t
/-- No access of the core's contexts is still to be performed (R128). -/
def Released (s : State) (c : Nat) : Prop := s.reqs = [] ∧ s.bufreqs = [] ∧ (coreOf s c).copies = []
/-- An address operand without set bits beside its handle and its offset (R363). -/
def AddressOk (a : Word) : Prop := field a 48 16 = 0 ∧ field a 20 12 = 0
/-- A buffer the command of a context may reach (R28, R366): of the space, on its core, of its generation and context, with
`n` bytes from an aligned offset inside. -/
def Reachable (s : State) (c k : Nat) (a : Word) (space n align : Nat) (d : Desc) : Prop :=
  let h : Half := a.extractLsb' 32 16
  AddressOk a ∧ hSpace h = space ∧ hOwner h ≠ 7 ∧ handleCore c h = c ∧ descNamed (coreOf s c) h = some d ∧
  d.key = (ctxOf s c k).r.key ∧ field a 0 20 + n ≤ d.size * granBytes space ∧ field a 0 20 % align = 0
/-- Of an instruction that queues a command on a buffer: with the handle at the fabric it enters the queue; from 0x0 the
handle moves to the fabric first, and the sequencer waits. -/
def Issues (s : State) (c k : Nat) (a : Word) (space n align : Nat) (i : Instr) (q : MqCmd) : Prop :=
  ∀ d, Reachable s c k a space n align d →
    (d.st = .held 3 → Completes i s fun t => Queued s t c q) ∧
    (d.st = .held 0 → Completes i s fun t => (coreOf t c).mq = (coreOf s c).mq ∧
      curSeq t = { curSeq s with wait := .moving } ∧ OnlySeqAnd (hideFabric c) s t ∧
      (descNamed (coreOf t c) (a.extractLsb' 32 16)).map (·.st) = some (.moving 0 3))
/-- The packed bytes of a lane, by SRC and F (R369). -/
def packed (src f : Nat) : Nat := if src ≤ 3 then f else f / 16 * (if src = 4 then 18 else if src = 5 then 12 else 8)
/-- The limits of R369. -/
def Transposes (off : Nat) (b rs : Word) : Prop :=
  let p := field b 0 10
  let f := field b 10 11
  let src := field b 21 3
  let q := b.getLsbD 24
  b.toNat < 2 ^ 36 ∧ field b 28 2 = 0 ∧ rs.toNat < 2 ^ 20 ∧ field b 25 3 ∈ [0, 1, 2, 3, 5] ∧ (q = false → field b 25 3 = 0) ∧ 1 ≤ f ∧
  if src = 7 then f ≤ 1024 ∧ p + f ≤ 1024 ∧ off % 32 = 0 ∧ rs = 0 ∧ q = false
  else f ≤ 128 ∧ p + 8 * f ≤ 1024 ∧ (4 ≤ src → f % 16 = 0 ∧ q = true) ∧ (rs = 0 ∨ packed src f ≤ rs.toNat)
/-- The bytes from the offset to the last byte read. -/
def transposed (b rs : Word) : Nat :=
  let f := field b 10 11
  let src := field b 21 3
  if src = 7 then 32 * f else 255 * (if rs = 0 then packed src f else rs.toNat) + packed src f
/-- The limits of R370 and R372 on the planes read, their source and count. -/
def PlanesOk (b : Word) (n : Nat) : Prop := field b 13 3 = 0 ∧ field b 10 3 ≤ 4 ∧ field b 0 10 + n ≤ 1024
/-- A plane of a source: a plane register, or the input bank (R370). -/
def planeFrom (m : Mq) (src n : Nat) : BitVec 256 := if src = 4 then lookD m.input n 0 else lookD m.planes (src * 1024 + n) 0
end Sys2Proof.Claims

/-- R362, R363, R366–R370, R372, R373, R377: CLAIM takes a fabric without an owner and resets it; each fabric instruction of
the owner that passes its checks queues its command; QSTAT gives the status word, and breakpoint status. -/
def Obligations.FabricCommandsAreQueued : Prop :=
  ∀ (s : State) (c k : Nat) (a b d : Reg), s.cur = .seq c k →
    let m := (coreOf s c).mq
    let x := ctxOf s c k
    let v := readS (curSeq s) a
    let w := readS (curSeq s) b
    let u := readS (curSeq s) d
    (m.owner = none → Completes .qctxClaim s fun t => Retires s t 1 ∧ OnlySeqAnd (hideFabric c) s t ∧
      let z := (coreOf t c).mq
      z.owner = some x.r.key ∧ z.ownerSlot = k ∧ z.vt = 0 ∧ z.vw = 0 ∧ z.input = [] ∧ z.planes = [] ∧ z.poison = 0 ∧ z.xb = 0 ∧
      z.cause = .none ∧ z.brk = [] ∧ z.queue = []) ∧
    (∀ o, m.owner = some o → o ≠ x.r.key → Completes .qctxClaim s fun t => t = s) ∧
    (m.owner = some x.r.key → m.queue.length < 8 → Released s c →
      Completes .qctxClear s (fun t => Queued s t c .clear) ∧
      (m.cause = .none →
        Completes .qctxRelease s (fun t => Queued s t c .release) ∧
        (w.toNat < 4 → Issues s c k v 0 8192 512 (.qtld a b) (.tables (v.extractLsb' 32 16) (field v 0 20) w.toNat)) ∧
        (w.toNat < 4 → Issues s c k v 0 16384 512 (.qwld a b) (.wiring (v.extractLsb' 32 16) (field v 0 20) w.toNat)) ∧
        (v.toNat < 16 → field v 0 2 ≤ field v 2 2 →
          Completes (.qrun a) s fun t => Queued s t c (.run (field v 0 2) (field v 2 2) (field v 0 2))) ∧
        (∀ e : BitVec 2, e ≠ 3 → v.toNat < 2 ^ 18 → field v 2 6 = 0 →
          Completes (.qbrk a e) s fun t => Queued s t c (.brk (field v 0 2) (field v 8 10) e.toNat)) ∧
        (Transposes (field v 0 20) w u →
          Issues s c k v 1 (transposed w u) 1 (.xpose a b d) (.xpose (v.extractLsb' 32 16) (field v 0 20) w u.toNat)) ∧
        (w.toNat < 2 ^ 24 → 1 ≤ field w 16 8 → field w 16 8 ≤ 128 → PlanesOk w (8 * field w 16 8) →
          Issues s c k v 1 (256 * field w 16 8) 1 (.xposb a b) (.xposb (v.extractLsb' 32 16) (field v 0 20) w)) ∧
        (∀ (group : Bool), let n := field w 16 5 + 1
          let g := field w 24 5 + 1
          w.toNat < 2 ^ 29 → field w 21 3 = 0 → (group = false → g = 1) → PlanesOk w (n * g) →
          (v.toNat < 2 ^ 24 → u.toNat < 2 ^ 13 → Completes (.qpopc a b d group 0) s fun t => Queued s t c (.popc v w u group 0 0)) ∧
          (u = 0 → Issues s c k v 1 (if group then 1024 * n else 128) 64 (.qpopc a b d group 1) (.popc v w u group 1 0)) ∧
          (u = 0 → v.toNat < 64 → group = false → Completes (.qpopc a b d group 2) s fun t => Queued s t c (.popc v w u group 2 0))))) ∧
    (let Status (t : State) (r : Word) : Prop := WritesS s t d r 1 ∧ field r 56 8 = m.cause.code ∧ field r 50 6 = m.xb.toNat ∧
        field r 46 4 = m.vt.toNat ∧ field r 42 4 = m.vw.toNat ∧ field r 38 4 = m.queue.length ∧ r.getLsbD 35 = true ∧
        r.getLsbD 34 = true ∧ field r 32 2 = m.runq.toNat
     (m.owner = some x.r.key → m.queue.length ≤ 8 → mqSlot (coreOf s c) = some k → k < 4 →
        Completes (.qstatMq d 0) s (fun t => ∃ r, Status t r) ∧
        (m.queue = [] → Completes (.qstatMq d 1) s fun t => ∃ r, Status t r) ∧
        ((∀ q, (lookD m.brk q (false, 0, 0)).2.1 < 8 ∧ (lookD m.brk q (false, 0, 0)).2.2 < 1024) → Completes (.qstatMq d 2) s fun t =>
          ∃ r : Word, WritesS s t d r 1 ∧ ∀ q < 4, field r (16 * q) 10 = (lookD m.brk q (false, 0, 0)).2.2 ∧
            field r (16 * q + 12) 3 = (lookD m.brk q (false, 0, 0)).2.1 ∧ r.getLsbD (16 * q + 15) = (lookD m.brk q (false, 0, 0)).1))) ∧
     (m.owner ≠ some x.r.key → ∀ i ∈ [Instr.qtld a b, .qwld a b, .qctxRelease, .qctxClear, .qrun a, .xpose a b d, .xposb a b],
        Completes i s fun t => Trapped s t .illop)

namespace Sys2Proof.Claims
/-- The fabric performs the command at the head of its queue; no copy holds it up. -/
def Performs (s : State) (c k : Nat) (q : MqCmd) (r : List MqCmd) : Prop :=
  mqMoves s c = some k ∧ (coreOf s c).mq.queue = q :: r ∧ (coreOf s c).mq.busy = true ∧ (coreOf s c).copies = []
/-- The bytes of the handle, none of them in a poisoned row. -/
def Spot (s : State) (c k : Nat) (h : Half) (o n : Nat) (w : Bool) (p : BufPlace) : Prop :=
  mqSpot s c k h o n w = some p ∧ ∀ i < n, rowPoisoned (coreOf s p.core) p.space (p.at_ + i) = false
/-- The little-endian number in `n` bytes of a buffer. -/
def bufNumber (s : State) (p : BufPlace) (i n : Nat) : Nat := ((List.range n).map fun b => (bufByte s p (i + b)).toNat * 256 ^ b).sum
/-- The command has left the queue; of the fabric, only what `f` changes has changed. -/
def Done (s t : State) (c : Nat) (r : List MqCmd) (f : Mq → Mq) : Prop :=
  (coreOf t c).mq = f { (coreOf s c).mq with queue := r, busy := false } ∧ hideCore c t = hideCore c s
/-- Lanes of a plane that are 1 (R372). -/
def lanesSet (p : BitVec 256) : Nat := ((List.range 256).filter fun l => p.getLsbD l).length
/-- Groups planes of a count that are 1 in a lane. -/
def groupSet (m : Mq) (b : Word) (g lane : Nat) : Nat :=
  let n := field b 24 5 + 1
  ((List.range n).filter fun i => (planeFrom m (field b 10 3) (field b 0 10 + g * n + i)).getLsbD lane).length
end Sys2Proof.Claims

/-- R359–R361, R363, R365, R366, R368–R370, R372–R374: the head of the queue begins, a load clearing its valid bit; a table
or wiring set is read in; an evaluation gives every cell's table bit in every lane, and a match stops the run; XPOSE RAW
and XPOSB move bits between bytes and planes; counts are delivered as tokens or rows; CLEAR, RELEASE and QBRK act. -/
def Obligations.FabricPerformsCommands : Prop :=
  ∀ (s : State) (c k : Nat) (r : List MqCmd), let m := (coreOf s c).mq
    (∀ q, mqMoves s c = some k → m.busy = false → m.queue = q :: r → Completes (.mqCommandStart c) s fun t =>
      (coreOf t c).mq.busy = true ∧ (coreOf t c).mq.queue = m.queue ∧ hideCore c t = hideCore c s ∧ (ctxOf t c k) = ctxOf s c k ∧
      (∀ h o n, q = .tables h o n → n < 4 → (coreOf t c).mq.vw = m.vw ∧ ∀ j < 4, (coreOf t c).mq.vt.getLsbD j = (m.vt.getLsbD j && j != n)) ∧
      (∀ h o n, q = .wiring h o n → n < 4 → (coreOf t c).mq.vt = m.vt ∧ ∀ j < 4, (coreOf t c).mq.vw.getLsbD j = (m.vw.getLsbD j && j != n))) ∧
    (∀ first last q, Performs s c k (.run first last q) r → q ≤ last → m.vt.getLsbD q = true → m.vw.getLsbD q = true →
      Completes (.mqEvaluation c) s fun t =>
        let z := (coreOf t c).mq
        let wire (n : Nat) : BitVec 256 := if n < 1024 then lookD m.input n 0 else lookD m.planes ((q + 3) % 4 * 1024 + (n - 1024)) 0
        let out (i l : Nat) : Bool := (lookD m.tables (q * 1024 + i) 0).getLsbD
          ((List.range 6).map fun n => if (wire (field (lookD m.wires (q * 1024 + i) 0) (11 * n) 11)).getLsbD l then 2 ^ n else 0).sum
        let b := lookD m.brk q (false, 0, 0)
        let hits := b.2.1 = 1 ∧ (∃ l < 256, out b.2.2 l = true) ∨ b.2.1 = 2 ∧ (∃ l < 256, out b.2.2 l = false)
        (∀ i < 1024, ∀ l < 256, (lookD z.planes (q * 1024 + i) 0).getLsbD l = out i l) ∧
        (∀ j, j / 1024 ≠ q → lookD z.planes j 0 = lookD m.planes j 0) ∧ z.queue = .run first last (q + 1) :: r ∧
        z.input = m.input ∧ z.tables = m.tables ∧ z.wires = m.wires ∧ z.xb = m.xb ∧ z.runq.toNat = q ∧
        (b.2.2 < 1024 → hits → z.held = true ∧ lookD z.brk q (false, 0, 0) = (true, 0, b.2.2) ∧
          ∃ e ∈ (jobOf t (asidOf (ctxOf s c k))).raised, e.cause = .brkpt ∧ e.unit = 6 ∧ e.siteA = b.2.2 ∧ e.siteB = q) ∧
        (b.2.2 < 1024 → ¬hits → z.held = m.held ∧ z.brk = m.brk ∧ hideCore c t = hideCore c s)) ∧
    (∀ first last q, Performs s c k (.run first last q) r → last < q → Completes (.mqCommandComplete c) s fun t => Done s t c r id) ∧
    (∀ h o q p, Performs s c k (.tables h o q) r → Spot s c k h o 8192 false p → q < 4 → Completes (.mqCommandComplete c) s fun t =>
      let z := (coreOf t c).mq
      (∀ i < 1024, (lookD z.tables (q * 1024 + i) 0).toNat = bufNumber s p (8 * i) 8) ∧ z.vt.getLsbD q = true ∧
      (∀ j, j / 1024 ≠ q → lookD z.tables j 0 = lookD m.tables j 0) ∧ z.planes = m.planes ∧ z.queue = r ∧ hideCore c t = hideCore c s ∧
      (r = [] → (descNamed (coreOf s c) h).map (·.st) = some (.held 3) → (descNamed (coreOf t c) h).map (·.st) = some (.held 0))) ∧
    (∀ h o q p, Performs s c k (.wiring h o q) r → Spot s c k h o 16384 false p → q < 4 →
      (∀ i < 1024, bufNumber s p (16 * i) 16 < 2 ^ 66) → Completes (.mqCommandComplete c) s fun t =>
      let z := (coreOf t c).mq
      (∀ i < 1024, (lookD z.wires (q * 1024 + i) 0).toNat = bufNumber s p (16 * i) 16) ∧ z.vw.getLsbD q = true ∧
      (∀ j, j / 1024 ≠ q → lookD z.wires j 0 = lookD m.wires j 0) ∧ z.planes = m.planes ∧ z.queue = r ∧ hideCore c t = hideCore c s) ∧
    (∀ h o b rs p, let f := field b 10 11
      let first := field b 0 10
      Performs s c k (.xpose h o b rs) r → Spot s c k h o (xpExtent b rs) false p → field b 21 3 ≤ 3 → b.getLsbD 24 = false →
      first + 8 * f ≤ 1024 → Completes (.mqCommandComplete c) s fun t =>
      let z := (coreOf t c).mq
      (∀ e < f, ∀ j < 8, ∀ l < 256, (lookD z.input (first + 8 * e + j) 0).getLsbD l =
        (bufByte s p (l * (if rs = 0 then f else rs) + e)).getLsbD j) ∧
      (∀ n, ¬(first ≤ n ∧ n < first + 8 * f) → lookD z.input n 0 = lookD m.input n 0) ∧ z.xb = m.xb ∧ z.queue = r ∧
      hideCore c t = hideCore c s) ∧
    (∀ h o b p, let n := field b 16 8
      Performs s c k (.xposb h o b) r → mqSpot s c k h o (256 * n) true = some p → field b 10 3 ≤ 4 → Canonical s = true → 1 ≤ n →
      Completes (.mqCommandComplete c) s fun t =>
      (∀ l < 256, ∀ e < n, ∀ j < 8, (bufByte t p (l * n + e)).getLsbD j = (planeFrom m (field b 10 3) (field b 0 10 + 8 * e + j)).getLsbD l) ∧
      (∀ sp i, ¬(sp = p.space ∧ p.at_ ≤ i ∧ i < p.at_ + 256 * n) →
        readByte (lookD (coreOf t c).tbuf sp []) i = readByte (lookD (coreOf s c).tbuf sp []) i) ∧ Done s t c r id) ∧
    (∀ a b u group sent, Performs s c k (.popc a b u group 0 sent) r → field b 10 3 ≤ 4 → popcColourOk (ctxOf s c k) a = true →
      tagOpen s c k (a.extractLsb' 0 8) (a.extractLsb' 8 16 + BitVec.ofNat 16 sent) = true →
      lookD (coreOf s c).hpOut (20 * 4 + k) [] = [] → m.poison = 0 →
      (sent < (if group then 8 * (field b 16 5 + 1) else 1) → Completes (.mqPopcountDeliver c) s fun t =>
        (∃ f, lookD (coreOf t c).hpOut (20 * 4 + k) [] = [f] ∧ f.dest = { elem := field u 0 6, slot := field u 6 5, opnd := field u 11 2 } ∧
          f.tok.colour = a.extractLsb' 0 8 ∧ f.tok.iter = a.extractLsb' 8 16 + BitVec.ofNat 16 sent ∧ f.tok.xb = 0 ∧
          f.tok.last = (!group || sent % 8 == 7) ∧ f.tok.lanes.length = 32 ∧ ∀ l < 32, (nth f.tok.lanes l 0).toNat =
            if group then groupSet m b (sent / 8) (32 * (sent % 8) + l)
            else if l ≤ field b 16 5 then lanesSet (planeFrom m (field b 10 3) (field b 0 10 + l)) else 0) ∧
        (coreOf t c).mq = { m with queue := .popc a b u group 0 (sent + 1) :: r } ∧ hideCore c t = hideCore c s) ∧
      ((if group then 8 * (field b 16 5 + 1) else 1) ≤ sent → Completes (.mqCommandComplete c) s fun t => Done s t c r id)) ∧
    (∀ a b u p, Performs s c k (.popc a b u false 1 0) r → field b 10 3 ≤ 4 → Canonical s = true → m.poison = 0 →
      mqSpot s c k (a.extractLsb' 32 16) (field a 0 20) 128 true = some p → Completes (.mqCommandComplete c) s fun t =>
      (∀ j < 32, bufNumber t p (4 * j) 4 = if j ≤ field b 16 5 then lanesSet (planeFrom m (field b 10 3) (field b 0 10 + j)) else 0) ∧
      Done s t c r id) ∧
    (Performs s c k .clear r → Completes (.mqCommandComplete c) s fun t =>
      Done s t c r fun z => { z with input := [], planes := [], poison := 0, xb := 0, cause := .none }) ∧
    (Performs s c k .release [] → Completes (.mqCommandComplete c) s fun t =>
      Done s t c [] fun z => { z with owner := none, ownerSlot := 0 }) ∧
    (∀ q plane cond, Performs s c k (.brk q plane cond) r → Completes (.mqCommandComplete c) s fun t =>
      Done s t c r fun z => { z with brk := put z.brk q (false, cond, plane) })

/-! ### Near-memory commands -/
namespace Sys2Proof.Claims
/-- An address in HBM4. -/
def inHbm (a : Nat) : Phys := { pa := a, leaf := 0 }
/-- The fields of a command record (R90). -/
def cmdOp (w : List Word) : Nat := field (dw w 0) 56 8
def cmdFmt (w : List Word) : Nat := field (dw w 0) 52 4
def cmdCount (w : List Word) : Nat := field (dw w 0) 0 32
def cmdSize (w : List Word) : Nat := if cmdFmt w = 0 then 4 else 2
/-- Chunks of 256 bytes (R91). -/
def cmdTotal (w : List Word) : Nat := (cmdCount w * cmdSize w + 255) / 256
/-- The completion record of a command that its engine ended (R102). -/
def CompletionRecord (t : State) (q : NmCmd) (status cause reason badva chunks poison k n : Nat) : Prop :=
  let w (i : Nat) : Word := BitVec.ofNat 64 (numberAt t (inHbm (q.cmpl + 8 * i)) 8)
  field (w 0) 60 4 = status ∧ field (w 0) 48 6 = 0 ∧ field (w 0) 40 8 = cause ∧ field (w 0) 32 8 = field (dw q.words 0) 32 8 ∧
  field (w 0) 0 32 = chunks ∧ field (w 1) 32 32 = cmdTotal q.words ∧ field (w 1) 0 32 = poison ∧ field (w 2) 56 8 = reason ∧
  field (w 2) 0 48 = badva ∧ field (w 3) 52 12 = q.asid.toNat ∧ field (w 3) 44 8 = q.core ∧ field (w 3) 42 2 = q.slot ∧
  field (w 3) 38 4 = n ∧ field (w 3) 35 3 = k ∧ (w 3).getLsbD 34 = false
/-- A command in place: numbers that fit the record's fields, of a context that is resident. -/
def CommandOk (s : State) (q : NmCmd) (k n : Nat) : Prop :=
  q.core < 224 ∧ q.slot < 4 ∧ k < 8 ∧ n < 16 ∧ q.chunks < 2 ^ 32 ∧ q.poiscnt < 2 ^ 32 ∧ q.badva < 2 ^ 48 ∧
  slotOf (coreOf s q.core) q.key = some q.slot ∧ Canonical s = true
/-- The command has left its slot, its context has one fewer outstanding, and memory beside the record is as before. -/
def LeftSlot (s t : State) (q : NmCmd) (k n : Nat) : Prop :=
  look (stackOf t k).slots n = none ∧ (ctxOf t q.core q.slot).nmOut = (ctxOf s q.core q.slot).nmOut - 1 ∧
  (ctxOf t q.core q.slot).seq = (ctxOf s q.core q.slot).seq
end Sys2Proof.Claims

/-- R94, R95, R326, R327: NMCMD reads its record, clears word 0 of the completion record and sends the command to the stack
of its primary range; with eight commands outstanding it waits. NMFENCE retires when none is outstanding, and waits until
then. NMSTAT gives word 0 of a completion record. (The pages are taken from the core's TLB.) -/
def Sys2Proof.Claims.NearMemoryIssued : Prop :=
  ∀ (s : State) (c k : Nat) (g : Guard) (d a : Reg), s.cur = .seq c k → guardHolds (curSeq s) g = true →
    let x := ctxOf s c k
    let va := (readS (curSeq s) a).toNat
    (∀ o p r ws, Calm s → Canonical s = true → x.nmOut < 8 → va % 64 = 0 → Hot s c k needLoad va o → o.host = false → Clean s o 64 →
      ws = recordAt s o 8 → 1 ≤ cmdOp ws → cmdOp ws ≤ 7 → (dw ws 0).getLsbD 49 = false →
      let cmpl := field (dw ws 6) 0 48
      let first := if cmdOp ws = 6 ∨ cmdOp ws = 7 then field (dw ws 2) 0 48 else field (dw ws 1) 0 48
      cmpl % 32 = 0 → Hot s c k { needStore with pin := true, host := false } cmpl p → p.host = false →
      Hot s c k { write := !(cmdOp ws == 6 || cmdOp ws == 7), fetch := false, pin := false, nm := true, host := false } first r →
      Completes (.nmcmd g a) s fun t => Retires s t 1 ∧ numberAt t p 8 = 0 ∧ MemoryBut s t p 8 ∧ (ctxOf t c k).nmOut = x.nmOut + 1 ∧
        ∃ q, (stackOf t (r.pa / Config.stackBytes)).transit = (stackOf s (r.pa / Config.stackBytes)).transit ++ [q] ∧ q.words = ws ∧
          q.core = c ∧ q.slot = k ∧ q.key = x.r.key ∧ q.asid.toNat = asidOf x ∧ q.cmpl = p.pa ∧ q.chunks = 0) ∧
    (8 ≤ x.nmOut → Completes (.nmcmd g a) s fun t => curSeq t = { curSeq s with wait := .none } ∧ OnlySeq s t) ∧
    (x.nmOut = 0 → Completes (.nmfence g) s fun t => Retires s t 1 ∧ OnlySeq s t) ∧
    (x.nmOut ≠ 0 → Completes (.nmfence g) s fun t => curSeq t = { curSeq s with wait := .none } ∧ OnlySeq s t) ∧
    (∀ t p, Calm s → va % 32 = 0 → Reaches s (readS (curSeq s) a) 8 needLoad t p → Clean t p 8 → Completes (.nmstat g d a) s fun u =>
      Loads s t u d (numberAt t p 8) 1 ∧ SameMemory t u)

namespace Sys2Proof.Claims
/-- Element i of a chunk's bytes at an address. -/
def elem (s : State) (a size i : Nat) : Nat := numberAt s (inHbm (a + size * i)) size
/-- The element-wise operations of R92 on the exact operands x, y and w, rounded with the mode of the record. -/
def nmResult (ws : List Word) (bx : Nat) (x y w : Machine.Num) : Nat :=
  let f := if cmdFmt ws = 0 then fp32 else if cmdFmt ws = 1 then bf16 else fp16
  let r := rnd2 (field (dw ws 0) 50 2)
  let a := fp32.read (field (dw ws 4) 0 32)
  let b := fp32.read (field (dw ws 4) 32 32)
  match cmdOp ws with
  | 1 => (roundTo f r a).1
  | 2 => bx
  | 3 => (roundTo f r (mulNum a x).1).1
  | 4 => (roundTo f r (mulAdd r a x (fp32.read (roundTo fp32 r (mulNum b y).1).1)).1).1
  | _ => (roundTo f r (mulAdd r (negNum a) (fp32.read (roundTo fp32 r (mulAdd r b w x).1).1) w).1).1
/-- The command in a slot that takes its next chunk: bytes at offset `off`, `m` of them. -/
def Chunk (s : State) (k n : Nat) (q : NmCmd) (m : Nat) : Prop :=
  look (stackOf s k).slots n = some q ∧ q.locked = true ∧ q.abort = false ∧ q.chunks < cmdTotal q.words ∧ nmMoves s q = true ∧
  m = min 256 (cmdCount q.words * cmdSize q.words - q.chunks * 256)
end Sys2Proof.Claims

/-- R92, R95–R98, R100–R102: a command enters the queue, takes a free slot, and is rejected for a reserved OP or FMT or for N
= 0; it takes its lock when its ranges are translated; each chunk reads, then writes what R92 gives; a poisoned chunk,
as a sector with an uncorrectable error makes it, is counted; the command ends with its result and its record, and leaves its slot. -/
def Sys2Proof.Claims.NearMemoryPerformed : Prop :=
  ∀ (s : State) (k n : Nat) (q : NmCmd), let z := stackOf s k
    (∀ r, z.transit = q :: r → z.queue.length < 64 → Completes (.nmCommandArrive k) s fun t =>
      (stackOf t k).transit = r ∧ (stackOf t k).queue = z.queue ++ [q] ∧ (stackOf t k).slots = z.slots ∧ t.cores = s.cores ∧ t.hbm = s.hbm) ∧
    (∀ r, z.queue = q :: r → nmMoves s q = true → q.abort = false → (∀ i < n, (look z.slots i).isSome = true) → look z.slots n = none →
      n < 16 →
      ((∀ p ∈ z.slots, nmClash p.2 q = false) → nmReason q.words = 0 → Completes (.nmSlotStart k) s fun t =>
        (stackOf t k).queue = r ∧ look (stackOf t k).slots n = some q ∧ t.cores = s.cores ∧ t.hbm = s.hbm) ∧
      (∀ reason, reason = (if cmdOp q.words = 0 ∨ 7 < cmdOp q.words then 1 else if 2 < cmdFmt q.words then 2 else 3) →
        (reason = 3 → cmdCount q.words = 0) → z.slots = [] → (∀ p ∈ s.hbmStacks, p.2.slots = []) → s.reqs = [] → CommandOk s q k n →
        Completes (.nmSlotStart k) s fun t => (stackOf t k).queue = r ∧ LeftSlot s t q k n ∧
          CompletionRecord t q 4 0x0B reason 0 q.chunks q.poiscnt k n ∧ MemoryBut s t (inHbm q.cmpl) 32)) ∧
    (∀ t m, look z.slots n = some q → q.locked = false → q.abort = false → nmMoves s q = true →
      nmTranslate s q.home q.root (nmRanges q.words) = (t, .ok m) → let ext := lockExtents q.words m
      (∀ e ∈ ext, e.1 / Config.stackBytes = k ∧ (e.1 + e.2 - 1) / Config.stackBytes = k) → (nmExtents m).length ≤ 64 →
      Completes (.nmRangeLock k n) s fun u => SameMemory t u ∧ u.cores = t.cores ∧
        (∃ p, look (stackOf u k).slots n = some p ∧ p.locked = true ∧ p.ext = ext ∧ p.pas = m ∧ p.words = q.words ∧ p.chunks = q.chunks) ∧
        (∀ e ∈ ext, ∀ y ∈ u.lines, y.1 * 128 + 128 ≤ e.1 ∨ e.1 + e.2 ≤ y.1 * 128)) ∧
    (∀ t e, look z.slots n = some q → q.locked = false → q.abort = false → nmMoves s q = true → CommandOk t q k n → e.va < 2 ^ 48 →
      e.fault.cause ≠ .none → t.reqs = [] →
      (∀ p ∈ t.hbmStacks, ∀ y ∈ p.2.slots, y.2.locked = false) → (z.slots.map (·.1)).Nodup →
      nmTranslate s q.home q.root (nmRanges q.words) = (t, .error e) → Completes (.nmRangeLock k n) s fun u =>
        LeftSlot t u q k n ∧ CompletionRecord u q 3 e.fault.cause.code 0 e.va q.chunks q.poiscnt k n) ∧
    (∀ m x, Chunk s k n q m → Canonical s = true → x ≠ .uncorrectable → let w := q.words
      let b := cmdSize w
      let at_ (role : Nat) : Nat := (nmAt q role (q.chunks * 256)).1
      (1 ≤ cmdOp w ∧ cmdOp w ≤ 5 → (∀ r ∈ nmReads w, firstPoisoned s (at_ r) m = none) → Completes (.nmChunk k (withEcc n x)) s fun t =>
        (∀ i < m / b, let f := if cmdFmt w = 0 then fp32 else if cmdFmt w = 1 then bf16 else fp16
          elem t (at_ 0) b i = nmResult w (elem s (at_ 1) b i) (f.read (elem s (at_ 1) b i)) (f.read (elem s (at_ 2) b i)) (f.read (elem s (at_ 0) b i))) ∧
        MemoryBut s t (inHbm (at_ 0)) m ∧ ∃ p, look (stackOf t k).slots n = some p ∧ p.chunks = q.chunks + 1 ∧ p.poiscnt = q.poiscnt) ∧
      (cmdOp w = 6 → firstPoisoned s (at_ 1) m = none → Completes (.nmChunk k (withEcc n x)) s fun t => SameMemory s t ∧
        ∃ p, look (stackOf t k).slots n = some p ∧ p.chunks = q.chunks + 1 ∧ p.poiscnt = q.poiscnt ∧
          ∀ v : Nat → Int, (∀ i < m / b, let f := if cmdFmt w = 0 then fp32 else if cmdFmt w = 1 then bf16 else fp16
              ∃ neg y e, f.read (elem s (at_ 1) b i) = .fin neg y e ∧ v i = units y neg e) →
            (recAcc p.acc).toInt = ((recAcc q.acc).toInt + ((List.range (m / b)).map v).sum).bmod (2 ^ 320)) ∧
      (cmdOp w = 7 → cmdFmt w = 0 → firstPoisoned s (at_ 1) m = none → Completes (.nmChunk k (withEcc n x)) s fun t => SameMemory s t ∧
        ∃ p, look (stackOf t k).slots n = some p ∧ p.chunks = q.chunks + 1 ∧ p.poiscnt = q.poiscnt ∧
          (q.maxv.toNat < 0x7F800000 → (∀ i < m / b, elem s (at_ 1) b i % 2 ^ 31 < 0x7F800000) →
            p.maxv.toNat = (List.range (m / b)).foldl (fun y i => max y (elem s (at_ 1) b i % 2 ^ 31)) q.maxv.toNat)) ∧
      (∀ va, nmPoison s q (q.chunks * 256) m = some va → Completes (.nmChunk k (withEcc n x)) s fun t => SameMemory s t ∧
        ∃ p, look (stackOf t k).slots n = some p ∧ p.chunks = q.chunks + 1 ∧ p.poiscnt = q.poiscnt + 1 ∧
          p.badva = (if q.poiscnt = 0 then va else q.badva) ∧
          (1 ≤ cmdOp w ∧ cmdOp w ≤ 5 → ∀ i < m, (at_ 0 + i) / 64 ∈ t.poison))) ∧
    (∀ m role r, Chunk s k n q m → nmReads q.words = role :: r → Completes (.nmChunk k (withEcc n .uncorrectable)) s fun t => SameMemory s t ∧
      ∃ p, look (stackOf t k).slots n = some p ∧ p.chunks = q.chunks + 1 ∧ p.poiscnt = q.poiscnt + 1 ∧
        p.badva = (if q.poiscnt = 0 then (nmAt q role (q.chunks * 256)).2 else q.badva)) ∧
    (look z.slots n = some q → (z.slots.map (·.1)).Nodup → CommandOk s q k n → s.reqs = [] →
      (s.hbmStacks.map (·.1)).Nodup → (∀ p ∈ s.hbmStacks, ∀ y ∈ p.2.slots, (p.1, y.1) ≠ (k, n) → y.2.locked = false) →
      (q.abort = false → q.locked = true → cmdTotal q.words ≤ q.chunks → nmMoves s q = true →
        (q.poiscnt ≠ 0 → Completes (.nmComplete k n) s fun t => LeftSlot s t q k n ∧
          CompletionRecord t q 2 7 0 q.badva q.chunks q.poiscnt k n ∧ MemoryBut s t (inHbm q.cmpl) 32) ∧
        (q.poiscnt = 0 → 1 ≤ cmdOp q.words ∧ cmdOp q.words ≤ 5 → Completes (.nmComplete k n) s fun t => LeftSlot s t q k n ∧
          CompletionRecord t q 1 0 0 0 q.chunks 0 k n ∧ MemoryBut s t (inHbm q.cmpl) 32) ∧
        (q.poiscnt = 0 → cmdOp q.words = 7 → (dw q.words 0).getLsbD 49 = false → (q.obj + 4 ≤ q.cmpl ∨ q.cmpl + 32 ≤ q.obj) →
          Completes (.nmComplete k n) s fun t => LeftSlot s t q k n ∧ CompletionRecord t q 1 0 0 0 q.chunks 0 k n ∧
            numberAt t (inHbm q.obj) 4 = q.maxv.toNat) ∧
        (q.poiscnt = 0 → cmdOp q.words = 6 → firstPoisoned s q.obj 64 = none → (q.obj + 64 ≤ q.cmpl ∨ q.cmpl + 32 ≤ q.obj) →
          Completes (.nmComplete k n) s fun t => LeftSlot s t q k n ∧ CompletionRecord t q 1 0 0 0 q.chunks 0 k n ∧
            objAcc t (inHbm q.obj) = (objAcc s (inHbm q.obj) + (recAcc q.acc).toInt).bmod (2 ^ 320))) ∧
      (q.abort = true → Completes (.nmComplete k n) s fun t => LeftSlot s t q k n ∧
        CompletionRecord t q 5 0x11 0 q.badva q.chunks q.poiscnt k n ∧ MemoryBut s t (inHbm q.cmpl) 32))

/-- Near-memory commands (R92, R94–R98, R100–R102, R326, R327). -/
def Obligations.NearMemoryCommands : Prop := Claims.NearMemoryIssued ∧ Claims.NearMemoryPerformed

/-! ### The exchange -/
namespace Sys2Proof.Claims
/-- The bytes of the parts of a buffer, and that none is poisoned. -/
def bytesOf (t : State) (l : List (Phys × Nat)) : List Byte := l.flatMap fun p => (List.range p.2).map (byteAt t p.1)
def CleanParts (t : State) (l : List (Phys × Nat)) : Prop := ∀ p ∈ l, Clean t p.1 p.2
/-- The record at an address has been read (R328, R330): `t` is the state after its read, entered in the task's signature
(R393), and `w` its four words. -/
def RecordRead (s : State) (c k : Nat) (va : Word) (t : State) (w : List Word) : Prop :=
  va.toNat % 32 = 0 ∧ ∃ u o, translate s c (ctxOf s c k).r.xlroot va needLoad = (u, .ok o) ∧ Clean u o 32 ∧
    w = recordAt u o 4 ∧ t = signAccess u c k va.toNat 32 false
/-- A buffer of `n` bytes translates, page by page, to parts. -/
def BufferAt (s : State) (c k : Nat) (need : Need) (va n : Nat) (u : State) (l : List (Phys × Nat)) : Prop :=
  translateParts s c (ctxOf s c k).r.xlroot need (partsOf va n) = (u, .ok l)
/-- The determinism level of a context's task. -/
def levelOf (s : State) (c k : Nat) : Nat := match taskOf s (ctxOf s c k).task with | some t => t.level | none => 0
/-- Something for this device has left: at level 2 it waits for a tick boundary (R390); otherwise it has arrived. -/
def Left (s u : State) (c k : Nat) (o : XOut) : Prop :=
  (levelOf s c k = 2 → u.tickOut = s.tickOut ++ [o]) ∧
  (levelOf s c k ≠ 2 → match o with
    | .msg _ m => u.messages = s.messages ++ [m]
    | .red _ x => u.redIn = s.redIn ++ [(tickNow s, x)]
    | _ => True)
end Sys2Proof.Claims

/-- R328–R331, R334: XSEND reads the message, and it leaves; XRECV posts its buffer, and gives S[d] what was delivered;
XRED's contribution leaves for the root; XRSLT writes the result record and gives S[d] its word 0. (The destination, or the
root, is this device.) -/
def Obligations.ExchangeInstructions : Prop :=
  ∀ (s : State) (c k : Nat) (g : Guard) (d a b : Reg), s.cur = .seq c k → guardHolds (curSeq s) g = true →
    let x := ctxOf s c k
    let va := readS (curSeq s) a
    let v := readS (curSeq s) b
    (∀ t w t' pc u l, Calm s → RecordRead s c k va t w → let dev := field (dw w 0) 48 12
      let core := field (dw w 0) 40 8
      let len := field (dw w 0) 0 32
      let cen := (dw w 2).getLsbD 63
      field (dw w 0) 60 4 = 0 → field (dw w 0) 32 4 = 0 → field (dw w 1) 48 16 = 0 → field (dw w 2) 48 15 = 0 → dw w 3 = 0 →
      1 ≤ len → len ≤ 0x100000 → dev = s.exid.toNat → inTask s c k dev core = true →
      (cen = false ∧ t' = t ∧ pc = none ∨ cen = true ∧ field (dw w 2) 0 48 % 8 = 0 ∧ ∃ q : Phys, pc = some (q.pa, q.leaf) ∧
        translate t c x.r.xlroot (BitVec.ofNat 64 (field (dw w 2) 0 48)) { needStore with pin := true } = (t', .ok q)) →
      BufferAt t' c k { needLoad with pin := true } (field (dw w 1) 0 48) len u l → CleanParts u l →
      Completes (.xsend g a) s fun y => Retires s y 1 ∧ SameMemory u y ∧
        ∃ m, Left s y c k (.msg dev m) ∧ m.dev = s.exid.toNat ∧ m.core = c ∧ m.asid.toNat = asidOf x ∧ m.task = some x.task ∧
          m.dcore = core ∧ m.chan = field (dw w 0) 36 4 ∧ m.tell = cen ∧ m.data = bytesOf u l ∧
          (cen = true → ∃ r ∈ y.sends, r.mid = m.mid ∧ r.cmpl = pc ∧ r.core = c ∧ r.key = x.r.key)) ∧
    (∀ u l, Calm s → let cap := field v 8 24
      v.toNat < 2 ^ 32 → field v 4 4 = 0 → 1 ≤ cap → cap ≤ 0x100000 →
      BufferAt s c k { needStore with pin := true, host := false } va.toNat cap u l → Completes (.xrecv g d a b) s fun y =>
        curSeq y = { curSeq s with wait := .posted } ∧ SameMemory u y ∧
        (ctxOf y c k).posted = [{ chan := field v 0 4, cap := cap, pages := l.map fun p => (p.1.pa, p.2), got := none }]) ∧
    (∀ y rest r, curWait s = .posted → x.posted = y :: rest → y.got = some r → Completes (.xrecv g d a b) s fun t =>
      SetsS s t d r ∧ RetiresButS s t 1 ∧ (ctxOf t c k).posted = rest ∧ OnlyCtx s t c k) ∧
    (∀ y rest, curWait s = .posted → x.posted = y :: rest → y.got = none → Completes (.xrecv g d a b) s fun t => t = s) ∧
    (∀ t w u l, Calm s → RecordRead s c k va t w → redOk (redDesc s c k w) w = true → field (dw w 3) 0 48 % 64 = 0 →
      field (dw w 0) 32 12 = s.exid.toNat →
      let n := field (dw w 0) 46 6
      let z := [4, 2, 4, 8].getD (field (dw w 0) 52 4) 8
      BufferAt t c k { needLoad with pin := true } (field (dw w 2) 0 48) (n * z) u l → CleanParts u l →
      Completes (.xred g a) s fun y => Retires s y 1 ∧ SameMemory u y ∧
        ∃ r, Left s y c k (.red (field (dw w 0) 32 12) r) ∧ r.asid.toNat = asidOf x ∧ r.op = field (dw w 0) 56 8 ∧ r.fmt = field (dw w 0) 52 4 ∧
          r.lanes = n ∧ r.key.toNat = field (dw w 0) 16 16 ∧ r.round.toNat = field (dw w 0) 0 16 ∧
          r.nrank = (if field (dw w 1) 52 12 = 0 then 4096 else field (dw w 1) 52 12) ∧ r.rank = field (dw w 1) 40 12 ∧
          r.tmo = field (dw w 1) 0 16 ∧ r.core = c ∧ r.who = x.r.key ∧ r.poison = false ∧ r.vals.length = n ∧
          ∀ i < n, (nth r.vals i 0).toNat = ((List.range z).map fun j => (nth (bytesOf u l) (i * z + j) 0).toNat * 256 ^ j).sum) ∧
    (∀ w r rest w0 w1 u p, curWait s = .result w → x.results = r :: rest → r.key.toNat = field (dw w 0) 16 16 →
      r.round.toNat = field (dw w 0) 0 16 → r.words = [w0, w1] → field w0 60 4 ≠ 4 → (coreOf s c).copies = [] →
      (coreOf s c).bwEn = false → s.reqs = [] → (∀ q ∈ s.hbmStacks, q.2.slots = []) → Canonical s = true →
      let n := field (dw w 0) 46 6
      let z := [4, 2, 4, 8].getD (field (dw w 0) 52 4) 8
      field (dw w 0) 52 4 ≤ 3 → BufferAt s c k { needStore with pin := true } (field (dw w 3) 0 48) (64 + n * z) u [(p, 64 + n * z)] →
      Completes (.xrslt g d a) s fun y => SetsS s y d w0 ∧ RetiresButS s y 1 ∧ (ctxOf y c k).results = rest ∧
        recordAt y p 8 = [w0, w1, 0, 0, 0, 0, 0, 0] ∧ MemoryBut u y p (64 + n * z) ∧
        ∀ i < n, numberAt y { p with pa := p.pa + 64 + i * z } z = (nth r.lanes i 0).toNat % 256 ^ z) ∧
    (∀ w, curWait s = .result w → x.results = [] → Completes (.xrslt g d a) s fun t => curSeq t = curSeq s ∧ OnlySeq s t)

namespace Sys2Proof.Claims
/-- A contribution `p.2` that arrived in tick `p.1` reaches the slots: its job is not clamped, and nothing waits for a slot. -/
def Contributes (s : State) (p : Word × Contribution) : Prop :=
  let x := p.2
  s.redIn.find? (fun q => q.2 == x) = some p ∧ (jobOf s x.asid.toNat).clamped = false ∧ s.redWait = [] ∧ (jobOf s x.asid.toNat).level.toNat ≠ 2 ∧ x.dev = s.exid.toNat
/-- The slot of a contribution. -/
def SlotOf (s : State) (x : Contribution) (i : Nat) (q : RedSlot) : Prop := findRedSlot s x = some (i, q) ∧ look s.redSlots i = some q
/-- Each lane record is combined with the contribution's (R331, R332). -/
def combined (q : RedSlot) (x : Contribution) : List Rec :=
  (q.lanes.zip (xVals x)).map fun p => combineRec (xKind x) p.1 (xRec x p.2)
/-- A flit for this device that passes the link's checks (R436, R437). -/
def FlitOk (s : State) (p : Nat) (f : Flit) : Prop :=
  (portX s p).down = false ∧ p < 16 ∧ f.data.length ≤ 240 ∧ f.crc = flitCrc f ∧ f.seq = (portX s p).expect
end Sys2Proof.Claims

/-- R328, R329, R331–R334, R436–R438: a posted buffer takes the oldest message of its channel; a contribution starts a slot,
is combined, or is refused; a complete slot answers every contributor and frees; a slot times out and lingers; a result
reaches its contributor; a flit is NAKed, dropped, counted or taken; a replay sends again, and after 16 failures the port
is down. (The payload layout of flits is the model's, log 23.) -/
def Obligations.ExchangeUnit : Prop :=
  ∀ s : State,
    (∀ (c k : Nat) (y : Posted) rest m pa, let x := ctxOf s c k
      x.posted = y :: rest → y.got = none → x.r.state = .running → y.pages = [(pa, y.cap)] → s.reqs = [] → (∀ q ∈ s.hbmStacks, q.2.slots = []) →
      s.messages.find? (messageFor s c x y) = some m → m.tell = false → m.dev < 4096 → m.core < 256 → y.cap ≤ 0x100000 → Canonical s = true →
      Completes (.messageDelivery c k) s fun t => let n := min m.data.length y.cap
        t.messages = s.messages.erase m ∧ (∀ i < n, readByte t.hbm (pa + i) = nth m.data i 0) ∧ MemoryBut s t (inHbm pa) n ∧
        (ctxOf t c k).seq = x.seq ∧ ∃ v : Word, (ctxOf t c k).posted = [{ y with got := some v }] ∧ field v 0 32 = n ∧
          field v 36 12 = m.dev ∧ field v 48 8 = m.core ∧ v.getLsbD 63 = decide (y.cap < m.data.length)) ∧
    (∀ p : Word × Contribution, Contributes s p → let x := p.2
      (∀ i, findRedSlot s x = none → look s.redSlots i = none → i < 64 → (∀ j < i, (look s.redSlots j).isSome = true) → 1 < x.nrank →
        Completes (.redContributionArrive x) s fun t => t.redIn = s.redIn.erase p ∧ t.resIn = s.resIn ∧ t.cores = s.cores ∧
          ∃ q, look t.redSlots i = some q ∧ q.first = x ∧ q.ranks = [(x.rank, x.dev, x.core, x.who)] ∧ q.start = s.time.ptime.toNat ∧
            q.lingering = none ∧ q.lanes = (xVals x).map fun v => combineRec (xKind x) emptyRec (xRec x v)) ∧
      (∀ i q, SlotOf s x i q → q.lingering = none →
        ((∃ p ∈ q.ranks, p.1 = x.rank) → Completes (.redContributionArrive x) s fun t => look t.redSlots i = some q ∧
          ∃ r, t.resIn = s.resIn ++ [r] ∧ field r.w0 60 4 = 4 ∧ field r.w0 26 2 = 1 ∧ r.core = x.core ∧ r.who = x.who ∧ r.lanes = []) ∧
        ((∀ p ∈ q.ranks, p.1 ≠ x.rank) → (q.first.op, q.first.fmt, q.first.lanes, q.first.nrank, q.first.tmo) ≠ (x.op, x.fmt, x.lanes, x.nrank, x.tmo) →
          Completes (.redContributionArrive x) s fun t => look t.redSlots i = some q ∧
          ∃ r, t.resIn = s.resIn ++ [r] ∧ field r.w0 60 4 = 4 ∧ field r.w0 26 2 = 2 ∧ r.core = x.core ∧ r.who = x.who ∧ r.lanes = []) ∧
        ((∀ p ∈ q.ranks, p.1 ≠ x.rank) → sameRed q.first x = true →
          (q.ranks.length + 1 < q.first.nrank → Completes (.redContributionArrive x) s fun t => t.resIn = s.resIn ∧
            ∃ z, look t.redSlots i = some z ∧ z.ranks = q.ranks ++ [(x.rank, x.dev, x.core, x.who)] ∧ z.lanes = combined q x ∧
              z.first = q.first ∧ z.start = q.start) ∧
          (q.ranks.length + 1 = q.first.nrank → q.asid = x.asid → (s.redSlots.map (·.1)).Nodup → (∀ p ∈ q.ranks, p.2.1 = s.exid.toNat) →
            (∀ v ∈ xVals x, xNan x.fmt v = false) → q.nanrank = none → Completes (.redContributionArrive x) s fun t =>
            look t.redSlots i = none ∧ ∃ l, t.resIn = s.resIn ++ l ∧ l.length = q.ranks.length + 1 ∧ ∀ r ∈ l,
              field r.w0 60 4 = 1 ∧ r.w0.getLsbD 59 = false ∧ field r.w0 28 13 = 0 ∧ field r.w0 0 28 = 0 ∧ r.w1 = 0 ∧ r.key = q.first.key ∧
              r.round = q.first.round ∧ r.lanes = (combined q x).map fun z => BitVec.ofNat 64 (readRec (xKind q.first) (xFmt q.first.fmt) z).1)))) ∧
    (∀ i q, look s.redSlots i = some q → q.lingering = none → q.first.tmo ≠ 0 → (jobOf s q.asid.toNat).clamped = false →
      (jobOf s q.asid.toNat).level.toNat ≠ 2 → q.start + q.first.tmo * 1000 ≤ s.time.ptime.toNat → (∀ p ∈ q.ranks, p.2.1 = s.exid.toNat) →
      q.first.nrank ≤ 4096 → q.nanrank = none → Completes (.redSlotTimeout i) s fun t =>
        let miss := (List.range q.first.nrank).filter fun r => !(q.ranks.any fun p => p.1 == r)
        (∃ z, look t.redSlots i = some z ∧ z.lingering.isSome = true ∧ z.missing = miss ∧ z.ranks = q.ranks) ∧
        ∃ l, t.resIn = s.resIn ++ l ∧ l.length = q.ranks.length ∧ ∀ r ∈ l, field r.w0 60 4 = 2 ∧ field r.w0 28 13 = miss.length ∧
          ∀ j < 64, r.w1.getLsbD j = decide (j ∈ miss)) ∧
    (∀ (c k : Nat) (x : RedResult), x ∈ s.resIn → x.core = c → (ctxOf s c k).r.state = .running → (ctxOf s c k).r.key = x.who →
      Completes (.redResultArrive c k x) s fun t => t.resIn = s.resIn.erase x ∧ (ctxOf t c k).seq = (ctxOf s c k).seq ∧
        (ctxOf t c k).results = (ctxOf s c k).results ++ [{ key := x.key, round := x.round, words := [x.w0, x.w1], lanes := x.lanes }] ∧
        OnlyCtx { s with resIn := s.resIn.erase x } t c k) ∧
    (∀ (p : Nat) (f : Flit),
      ((portX s p).down = false → p < 16 → f.data.length ≤ 240 → f.crc ≠ flitCrc f →
        Completes (.exchangeFlitReceive p f) s fun t => t = { s with events := s.events ++ [.nak p f.seq] }) ∧
      ((portX s p).down = false → p < 16 → f.data.length ≤ 240 → f.crc = flitCrc f → f.seq ≠ (portX s p).expect →
        Completes (.exchangeFlitReceive p f) s fun t => t = s) ∧
      (FlitOk s p f → 7 ≤ f.ty → Completes (.exchangeFlitReceive p f) s fun t => portX t p =
        { portX s p with expect := ((portX s p).expect + 1) % 65536, errors := (portX s p).errors + 1 } ∧ { t with xports := s.xports } = s) ∧
      (FlitOk s p f → f.ty = 6 → Completes (.exchangeFlitReceive p f) s fun t => portX t p =
        { portX s p with expect := ((portX s p).expect + 1) % 65536 } ∧ { t with xports := s.xports } = s) ∧
      (FlitOk s p f → f.ty = 5 → (portX s p).out = [] → Completes (.exchangeFlitReceive p f) s fun t => portX t p =
        { portX s p with expect := ((portX s p).expect + 1) % 65536, used := put (portX s p).used f.mid (lookD (portX s p).used f.mid 0 - 1) } ∧
        { t with xports := s.xports } = s) ∧
      (∀ body, FlitOk s p f → f.ty = 0 → routeOf s f.dst = none → f.mid < 2 ^ 41 → f.data = natLE 4 body.length ++ body →
        s.frames = [] → Completes (.exchangeFlitReceive p f) s fun t =>
          (∃ m, t.messages = s.messages ++ [m] ∧ m.dev = f.src ∧ m.mid = f.mid ∧ m.task = none ∧ m.data = body.drop 16) ∧
          t.cores = s.cores ∧ t.hbm = s.hbm)) ∧
    (∀ (p n : Nat) l, (portX s p).down = false → p < 16 → replayFrom n (portX s p).replay = l → l ≠ [] →
      let failed := if (portX s p).nak = some n then (portX s p).failed + 1 else 0
      (failed < 16 → Completes (.exchangeReplay p n) s fun t => t.events = s.events ++ l.map (fun f => .flit p f) ∧
        portX t p = { portX s p with nak := some n, failed := failed } ∧ { t with xports := s.xports, events := s.events } = s) ∧
      (16 ≤ failed → Completes (.exchangeReplay p n) s fun t => portX t p = { portX s p with down := true } ∧
        t.events = s.events ++ [.service "PORT DOWN" p 0] ∧ { t with xports := s.xports, events := s.events } = s))

/-! ### Slices, the network, walks -/
namespace Sys2Proof.Claims
/-- The one request in flight, accepted by its slice, of no locked line. -/
def OneRequest (s : State) (r : Req) : Prop :=
  s.reqs = [r] ∧ r.host = false ∧ r.accepted.isSome = true ∧ r.answer = none ∧ r.within = none ∧ (∀ q ∈ s.hbmStacks, q.2.slots = [])
/-- The requests left when the one request has the answer `a`; one of the hub's link is gone. -/
def Answered (r : Req) (a : Word × Bool) : List Req := if r.who = .hub then [] else [{ r with answer := some a, axb := 0 }]
/-- The request has been performed: a load or an atomic is answered, a store is gone; the bytes are as R319 gives. -/
def Performed (s t : State) (r : Req) : Prop :=
  let p := inHbm r.pa
  (∀ n, r.op = .load n → t.reqs = Answered r (BitVec.ofNat 64 (numberAt s p n), false) ∧ SameMemory s t) ∧
  (∀ bs, r.op = .store bs false → t.reqs = (if r.sc then Answered r (0, false) else []) ∧ (∀ i < bs.length, readByte t.hbm (r.pa + i) = nth bs i 0) ∧ MemoryBut s t p bs.length) ∧
  (∀ o n v cmp, r.op = .atomic o n v cmp → o ≤ 9 → n = 4 ∨ n = 8 → let old := numberAt s p n
    t.reqs = Answered r (BitVec.ofNat 64 old, false) ∧ MemoryBut s t p n ∧
    ∀ x, atomics[o]? = some x → numberAt t p n = (x.2.1 n old (v.toNat % 256 ^ n) (cmp.toNat % 256 ^ n)).getD old)
end Sys2Proof.Claims

/-- R30, R66, R82–R85, R88, R89, R97, R124: a slice performs an accepted request, and what reading its arrays finds is
counted, or poisons the sector; an SC operation waits for the token, which performs one in a cycle; a line fill makes every byte of a line valid, and the scrubber reads on: a corrected error is counted, an
uncorrectable one is counted and poisons its sector; a walk that returns fills the TLBs, and its requester goes on. -/
def Obligations.SlicesAndWalks : Prop :=
  ∀ s : State,
    (∀ r, OneRequest s r → Canonical s = true → firstPoisoned s r.pa r.op.bytes = none →
      (r.sc = false → Completes (.sliceAccess (withEcc r.id .clean)) s (fun t => Performed s t r ∧ t.cores = s.cores) ∧
        (∀ bs x, r.op = .store bs false → Completes (.sliceAccess (withEcc r.id x)) s fun t => Performed s t r ∧ t.cores = s.cores) ∧
        (∀ n, r.op = .load n → 0 < n → let k := paStack (r.pa / 64 * 64)
          Completes (.sliceAccess (withEcc r.id .corrected)) s (fun t => Performed s t r ∧ t.cores = s.cores ∧ t.poison = s.poison ∧
            (stackOf t k).ce = min 0xFFFFFFFF ((stackOf s k).ce + 1) ∧ (stackOf t k).ue = (stackOf s k).ue ∧
            (r.pa % 128 + n ≤ 128 → ∃ l, look t.lines (r.pa / 128) = some l ∧ l.dirty = true)) ∧
          Completes (.sliceAccess (withEcc r.id .uncorrectable)) s fun t => (∃ v, t.reqs = Answered r (v, true)) ∧ SameMemory s t ∧
            t.cores = s.cores ∧ r.pa / 64 ∈ t.poison ∧ (stackOf t k).ue = min 0xFFFFFFFF ((stackOf s k).ue + 1))) ∧
      (r.sc = true → (∀ x, Completes (.sliceAccess (withEcc r.id x)) s fun t => t = s) ∧
        (∀ b, s.cycle % 128 / 4 = b → homeSlice r.pa = b → s.scAt ≤ s.cycle → Completes (.scTokenVisit b) s fun t =>
          Performed s t r ∧ t.cores = s.cores ∧ s.cycle < t.scAt) ∧
        (∀ b, s.cycle < s.scAt → Completes (.scTokenVisit b) s fun t => t = s) ∧
        (∀ b, s.cycle % 128 / 4 ≠ b → Completes (.scTokenVisit b) s fun t => t = s))) ∧
    (∀ b n l, homeSlice (n * 128) = b → n * 128 < Config.hbmBytes → look s.lines n = some l → l.mask = 0 →
      let full (t : State) : Prop := look t.lines n = some { l with mask := BitVec.allOnes 128 } ∧ SameMemory s t ∧ t.cores = s.cores
      Completes (.lineFill b n .clean) s (fun t => full t ∧ t.poison = s.poison ∧ t.hbmStacks = s.hbmStacks) ∧
      Completes (.lineFill b n .corrected) s (fun t => full t ∧ t.poison = s.poison ∧
        (stackOf t (b / 4)).ce = min 0xFFFFFFFF ((stackOf s (b / 4)).ce + 1) ∧ (stackOf t (b / 4)).ue = (stackOf s (b / 4)).ue) ∧
      (2 * n ∉ s.poison → Completes (.lineFill b n .uncorrectable) s fun t => full t ∧ 2 * n ∈ t.poison ∧
        (stackOf t (b / 4)).ue = min 0xFFFFFFFF ((stackOf s (b / 4)).ue + 1) ∧
        ((stackOf s (b / 4)).ueaddr.getLsbD 63 = false → n < 2 ^ 40 → (stackOf t (b / 4)).ueaddr.getLsbD 63 = true ∧
          field (stackOf t (b / 4)).ueaddr 0 52 = n * 128))) ∧
    (∀ k, let z := stackOf s k
      let q := k * (Config.stackBytes / 64) + z.scrub % (Config.stackBytes / 64)
      let on (t : State) : Prop := (stackOf t k).scrub = (z.scrub + 1) % (Config.stackBytes / 64) ∧ SameMemory s t ∧ t.cores = s.cores
      (z.period = 0 → ∀ x, Completes (.patrolScrub k x) s fun t => t = s) ∧
      (z.period ≠ 0 → look s.lines (q / 2) = none →
        Completes (.patrolScrub k .clean) s (fun t => on t ∧ t.poison = s.poison) ∧
        Completes (.patrolScrub k .corrected) s (fun t => on t ∧ (stackOf t k).ce = min 0xFFFFFFFF (z.ce + 1) ∧ t.poison = s.poison) ∧
        (q ∉ s.poison → Completes (.patrolScrub k .uncorrectable) s fun t => on t ∧ q ∈ t.poison ∧ (stackOf t k).ue = min 0xFFFFFFFF (z.ue + 1))) ∧
      (z.period ≠ 0 → (look s.lines (q / 2)).isSome = true → ∀ x, Completes (.patrolScrub k x) s fun t =>
        on t ∧ t.poison = s.poison ∧ (stackOf t k).ce = z.ce ∧ (stackOf t k).ue = z.ue ∧
        ∃ l, look t.lines (q / 2) = some l ∧ l.dirty = false)) ∧
    (∀ (w : Walk) (k : Nat) l, s.walks = [w] → w.started = true → k < 4 → (ctxOf s w.core k).seq.wait = .walk w.id →
      walk s w.root w.va = .ok l → leafCheck w.need l.entry (l.base + w.va % (4096 * 2 ^ l.span)) = none → Canonical s = true →
      Completes (.walkComplete w.id) s fun t =>
        t.walks = [] ∧ (ctxOf t w.core k).seq = { (ctxOf s w.core k).seq with wait := .none } ∧ t.hostMem = s.hostMem ∧
        (∃ j e, look (coreOf t w.core).utlb.ways j = some e ∧ e.asid = w.asid ∧ e.span = l.span ∧ e.vpn = w.va / 4096 / 2 ^ l.span * 2 ^ l.span) ∧
        let leaf : Word := l.entry ||| 0x400 ||| (if w.write && l.entry.getLsbD 2 then 0x800 else 0)
        (leaf ≠ l.entry → numberAt t (inHbm l.at_) 8 = leaf.toNat ∧ MemoryBut s t (inHbm l.at_) 8) ∧ (leaf = l.entry → t.hbm = s.hbm))

namespace Sys2Proof.Claims
/-- The other traffic and all else of the machine are as before. -/
def OnlyPackets (s t : State) : Prop := { t with packets := s.packets } = s
/-- A packet that is on its way, or that carries no request: its party's order holds it back no more. -/
def Ready (p : Packet) : Prop := p.dir ≠ 0 ∨ ∀ n, p.load ≠ .req n
/-- Shares of the tenants that a test picks. -/
def sharesOf (m : NMap Nat) (f : Nat → Bool) : Nat := (((List.range 17).filter f).map fun t => lookD m t 0).sum
end Sys2Proof.Claims

/-- R66, R67, R70, R73, R74, R76, R77, R105, R181: a packet's head takes a pool buffer of the next router, or its class's
escape buffer, or waits; one in reservation mode passes in its slots; its destination takes it; a header reserves its link's slots, or waits; an escape buffer occupied
for more than 4,096 cycles reserves the flow behind it, which returns after 1,024 idle cycles; a bandwidth window ends. -/
def Obligations.NetworkMoves : Prop :=
  ∀ s : State,
    (∀ (i : Nat) (p : Packet), packetOf s i = some p →
      (p.node ≠ p.dst → p.reserved = false → (p.esc = true ∨ p.dir = 0 ∨ packetClamped s p = false) → (∀ n, p.load ≠ .req n) →
        let next := nextNode p.node p.dst
        let there := s.packets.filter fun q => q.node == next && q.dir == p.node + 1 && !q.reserved
        let pool := there.filter fun q => !q.esc
        let room := pool.length < 27 ∧ (pool.filter fun q => q.core == p.core && q.slot == p.slot).length < 8
        let moves (e : Bool) : Prop := Completes (.packetHop i) s fun t => OnlyPackets s t ∧ t.packets.length = s.packets.length ∧
          packetOf t i = some { p with node := next, dir := p.node + 1, esc := e, since := s.cycle } ∧
          ∀ j, j ≠ i → packetOf t j = packetOf s j
        (room → moves false) ∧
        (¬room → (∀ q ∈ there, q.esc = true → q.cls ≠ p.cls) → moves true) ∧
        (¬room → (∃ q ∈ there, q.esc = true ∧ q.cls = p.cls) → Completes (.packetHop i) s fun t => t = s)) ∧
      (p.reserved = true → p.node ≠ p.dst → Ready p → let next := nextNode p.node p.dst
        let mine (x : Nat × Nat × Nat × Nat) : Prop := x.1 = p.node ∧ x.2.1 = next + 1 ∧ x.2.2.2 = i
        ((p.node, next + 1, s.cycle, i) ∈ s.slotsResv → (∀ x ∈ s.slotsResv, mine x → s.cycle ≤ x.2.2.1) → Completes (.packetHop i) s fun t =>
          OnlyPackets s t ∧ packetOf t i = some { p with node := next, dir := p.node + 1, since := s.cycle } ∧
          ∀ j, j ≠ i → packetOf t j = packetOf s j) ∧
        ((p.node, next + 1, s.cycle, i) ∉ s.slotsResv → Completes (.packetHop i) s fun t => t = s)) ∧
      (p.node = p.dst → let left := s.packets.filter fun q => q.id != i
        (∀ r, p.load = .req r.id → p.dir ≠ 0 → s.reqs = [r] → r.answer = none → r.host = false → Completes (.packetAccept i) s fun t =>
          t.packets = left ∧ t.reqs = [{ r with accepted := some s.nextId }] ∧ t.nextId = s.nextId + 1 ∧ t.cores = s.cores ∧ t.hbm = s.hbm) ∧
        (∀ r n, p.load = .req r.id → p.dir ≠ 0 → s.reqs = [r] → r.answer = none → r.host = true → r.op = .load n → Completes (.packetAccept i) s fun t =>
          t.packets = left ∧ t.hostReads = s.hostReads ++ [{ id := r.id, addr := r.pa, n := n, who := r.who }] ∧
          (∃ z, t.reqs = [z] ∧ z.answer = none ∧ z.id = r.id) ∧ t.hostMem = s.hostMem ∧ t.cores = s.cores) ∧
        (∀ r bs, p.load = .req r.id → p.dir ≠ 0 → s.reqs = [r] → r.answer = none → r.host = true → r.op = .store bs false → r.sc = false → Canonical s = true →
          Completes (.packetAccept i) s fun t => t.packets = left ∧ t.reqs = [] ∧ (∀ j < bs.length, readByte t.hostMem (r.pa + j) = nth bs j 0) ∧
            (∀ a, ¬(r.pa ≤ a ∧ a < r.pa + bs.length) → readByte t.hostMem a = readByte s.hostMem a) ∧ t.hbm = s.hbm ∧ t.cores = s.cores) ∧
        (∀ task f k, p.load = .tok task f → taskSlot s p.dstUnit task = some k →
          ((ctxOf s p.dstUnit k).gates ≠ 3 → Completes (.packetAccept i) s fun t => t.packets = left ∧
            (coreOf t p.dstUnit).door = (coreOf s p.dstUnit).door ++ [(k, f)] ∧ (ctxOf t p.dstUnit k) = ctxOf s p.dstUnit k ∧
            hideCore p.dstUnit { t with packets := s.packets } = hideCore p.dstUnit s) ∧
          ((ctxOf s p.dstUnit k).gates = 3 → Completes (.packetAccept i) s fun t => t.packets = left ∧
            (ctxOf t p.dstUnit k).ckpt = (ctxOf s p.dstUnit k).ckpt ++ [f] ∧ (coreOf t p.dstUnit).door = (coreOf s p.dstUnit).door ∧
            OnlyCtx s { t with packets := s.packets } p.dstUnit k)) ∧
        (∀ task f v rest, p.load = .tok task f → taskSlot s p.dstUnit task = none → (coreOf s p.dstUnit).saved = v :: rest → v.ctx.task = task →
          Completes (.packetAccept i) s fun t => t.packets = left ∧ hideCore p.dstUnit { t with packets := s.packets } = hideCore p.dstUnit s ∧
            coreOf t p.dstUnit = { coreOf s p.dstUnit with saved := { v with ctx := { v.ctx with ckpt := v.ctx.ckpt ++ [f] } } :: rest })) ∧
      (p.reserved = true → p.header = none → p.node ≠ p.dst → Ready p → let next := nextNode p.node p.dst
        let held := s.slotsResv.filter fun x => s.cycle ≤ x.2.2.1
        let taken (x : Nat × Nat × Nat × Nat) : Prop := x.1 = p.node ∧ x.2.1 = next + 1 ∧ s.cycle + 3 ≤ x.2.2.1 ∧ x.2.2.1 < s.cycle + 3 + p.flits
        ((∀ x ∈ held, ¬taken x) → Completes (.reservationHeader i) s fun t => packetOf t i = some { p with header := some next } ∧
          t.slotsResv = held ++ (List.range p.flits).map fun j => (p.node, next + 1, s.cycle + 3 + j, i)) ∧
        ((∃ x ∈ held, taken x) → Completes (.reservationHeader i) s fun t => t = s)) ∧
      (p.reserved = false → p.node ≠ p.dst → flowReserved s p.core p.slot p.dstUnit p.cls = false →
        ((∃ q ∈ s.packets, q.esc = true ∧ q.id ≠ i ∧ q.node = nextNode p.node p.dst ∧ q.dir = p.node + 1 ∧ q.since + 4096 < s.cycle) →
          Completes (.escapeOccupancyTimeout i) s fun t =>
            t.flows = s.flows ++ [{ core := p.core, slot := p.slot, dst := p.dstUnit, cls := p.cls, permanent := false, lastSent := s.cycle }] ∧
            packetOf t i = some { p with reserved := true } ∧ { t with flows := s.flows, packets := s.packets } = s) ∧
        ((∀ q ∈ s.packets, q.esc = true → s.cycle ≤ q.since + 4096) → Completes (.escapeOccupancyTimeout i) s fun t => t = s))) ∧
    (∀ (i : Nat) f, s.flows[i]? = some f → f.permanent = false →
      (f.lastSent + 1024 ≤ s.cycle → Completes (.flowIdleTimeout i) s fun t => t = { s with flows := s.flows.eraseIdx i }) ∧
      (s.cycle < f.lastSent + 1024 → Completes (.flowIdleTimeout i) s fun t => t = s)) ∧
    (∀ c, let x := coreOf s c
      (x.bwEn = true → x.bwStart + 1024 ≤ s.cycle → Completes (.bwWindowRefill c) s fun t => let y := coreOf t c
        let act (u : Nat) : Bool := x.active.contains u
        y.bwStart = x.bwStart + 1024 ∧ y.active = [] ∧ y.share = x.shareNext ∧ hideCore c t = hideCore c s ∧ y.ctxs = x.ctxs ∧
        ∀ u < 17, let sh := lookD x.shareNext u 0
          let sact := sharesOf x.shareNext act
          lookD y.bucket u 0 = if act u then ((sh * 4096 : Nat) : Int) +
            (if 0 < sact then ((sharesOf x.shareNext (fun v => !act v) * 4096 * sh / sact : Nat) : Int) else 0) + min 0 (lookD x.bucket u 0)
            else 0) ∧
      ((x.bwEn = false ∨ s.cycle < x.bwStart + 1024) → Completes (.bwWindowRefill c) s fun t => t = s))

/-! ### Device registers and the host link -/
namespace Sys2Proof.Claims
/-- A requester that reaches the register, configuration and trace spaces (R20). -/
def Admitted (r : Src) : Prop := r = .host 0 ∨ ∃ n, r = .svc n
/-- A write has been accepted: an empty completion, and beside what `h` hides nothing has changed. -/
def Accepted (h : State → State) (s t : State) : Prop := t.reply = some [] ∧ h { t with reply := s.reply } = h s
/-- A refused access (R43): an error response, an entry in the hub die's log (which may
put those of the same cycle into the order of R44), or its count of lost entries, and nothing else. -/
def Refused (s t : State) (r : Src) (addr akind acc : Nat) : Prop :=
  t.reply = none ∧ { t with reply := s.reply, vlogs := s.vlogs } = s ∧
  let l := lookD s.vlogs 2 VLog.reset
  let u := lookD t.vlogs 2 VLog.reset
  let alone := l.now.1 ≠ s.cycle
  match (List.range 16).find? (fun i => (lookD l.entries i (0, 0)).2.getLsbD 0 == false) with
  | some i => alone ∨ l.now.2.Nodup → ∃ j e, look u.entries j = some e ∧ (alone → j = i ∧ ∀ q, q ≠ i → look u.entries q = look l.entries q) ∧
      field e.1 52 12 = 0 ∧ field e.1 0 52 = addr % 2 ^ 52 ∧
      field e.2 56 8 = 0 ∧ field e.2 45 3 = (match r with | .host 0 => 3 | .host _ => 4 | .svc _ => 5) ∧
      field e.2 43 2 = akind ∧ field e.2 40 3 = acc ∧ e.2.getLsbD 0 = true
  | none => u.lost = (if l.lost < 0xFFFFFFFF then l.lost + 1 else l.lost) ∧ (alone → u.entries = l.entries)
/-- The address of a context's register (R21). -/
def ctxAt (c k o : Nat) : Nat := 0x8000001000000 + c * 0x10000 + k * 0x1000 + o
/-- A requester's number fits the log's field. -/
def SmallId (r : Src) : Prop := match r with | .host f => f ≤ 16 | .svc n => n < 256
end Sys2Proof.Claims

/-- R20, R21, R23, R39, R43, R89, R106, R173, R249, R398: a requester or a form that R20 does not admit is refused and
logged; FQCTL, FQPTR and OVFBASE capture what R39 and R173 allow, and refuse the rest; metering starts with full buckets,
and a share is staged; DONE retires a TRAP; VALID bits are cleared by writing 1; a way of a running context refuses a write. -/
def Obligations.RegistersAreWritten : Prop :=
  ∀ (s : State) (r : Src) (c k : Nat) (v : Word), SmallId r →
    let x := ctxOf s c k
    (∀ pa n, ¬Admitted r ∨ (n ≠ 4 ∧ n ≠ 8) ∨ pa % n ≠ 0 → 0x8000000000000 ≤ pa → pa < 0x8000010000000 →
      Completes (.registerWrite r pa n v) s fun t => Refused s t r pa 1 5) ∧
    (Admitted r → Completes (.registerWrite r (0x8000000000000 + 0x310000) 8 v) s fun t =>
      Accepted (fun y => { y with exid := 0 }) s t ∧ t.exid = v.setWidth 12) ∧
    (Admitted r → c < 224 → k < 4 →
      (field v 11 41 * 2048 + 2048 ≤ Config.hbmBytes → Completes (.fqctlWrite r c k v) s fun t =>
        Accepted (hideCtx c k) s t ∧ ctxOf t c k = { x with r := { x.r with fqctl := v } }) ∧
      (Config.hbmBytes ≤ field v 11 41 * 2048 → Completes (.fqctlWrite r c k v) s fun t => Refused s t r (ctxAt c k 8) 1 5) ∧
      (let tail : BitVec 6 := v.extractLsb' 8 6
       ((tail - x.r.tail).toNat ≤ (x.r.head - x.r.tail).toNat → x.pending = [] → Completes (.fqptrWrite r c k v) s fun t =>
         Accepted (hideCtx c k) s t ∧ ctxOf t c k = { x with r := { x.r with tail := tail } }) ∧
       ((x.r.head - x.r.tail).toNat < (tail - x.r.tail).toNat → Completes (.fqptrWrite r c k v) s fun t => Refused s t r (ctxAt c k 0x10) 1 5)) ∧
      (field v 16 36 * 65536 + 65536 ≤ Config.hbmBytes → Completes (.ovfbaseWrite r c k v) s fun t =>
        Accepted (hideCtx c k) s t ∧ ctxOf t c k = { x with r := { x.r with ovfbase := v } }) ∧
      (Config.hbmBytes ≤ field v 16 36 * 65536 → Completes (.ovfbaseWrite r c k v) s fun t => Refused s t r (ctxAt c k 0x20) 1 5) ∧
      (x.r.trapPend = true → Completes (.trapreqDone r c k) s fun t =>
        Accepted (hideCtx c k) s t ∧ (ctxOf t c k).seq = seqRetired x.seq 1 ∧ (ctxOf t c k).r = { x.r with trapPend := false }) ∧
      (x.r.trapPend = false → Completes (.trapreqDone r c k) s fun t => t = { s with reply := some [] }) ∧
      Completes (.firstxRearm r c k) s (fun t => Accepted (hideCtx c k) s t ∧ (ctxOf t c k).seq = x.seq ∧
        (ctxOf t c k).r.firstx.getLsbD 63 = false ∧ field (ctxOf t c k).r.firstx 0 63 = field x.r.firstx 0 63) ∧
      (v.getLsbD 0 = true → Completes (.bwctlWrite r c v) s fun t => let y := coreOf t c
        Accepted (hideCore c) s t ∧ y.bwEn = true ∧ y.bwStart = s.cycle ∧ y.active = [] ∧ y.ctxs = (coreOf s c).ctxs ∧
        ∀ u < 17, lookD y.bucket u 0 = ((lookD (coreOf s c).shareNext u 0 * 4096 : Nat) : Int)) ∧
      (v.getLsbD 0 = false → Completes (.bwctlWrite r c v) s fun t => Accepted (hideCore c) s t ∧ (coreOf t c).bwEn = false ∧
        (coreOf t c).ctxs = (coreOf s c).ctxs) ∧
      (∀ u < 17, let sum := sharesOf (coreOf s c).shareNext (· != u) + field v 0 7
        (sum ≤ 64 → Completes (.bwshareWrite r c u v) s fun t => Accepted (hideCore c) s t ∧ (coreOf t c).ctxs = (coreOf s c).ctxs ∧
          lookD (coreOf t c).shareNext u 0 = field v 0 7 ∧ (coreOf t c).share = (coreOf s c).share ∧
          ∀ w, w ≠ u → lookD (coreOf t c).shareNext w 0 = lookD (coreOf s c).shareNext w 0) ∧
        (64 < sum → Completes (.bwshareWrite r c u v) s fun t => Refused s t r (0x8000001008008 + c * 0x10000 + u * 8) 1 5)) ∧
      (∀ e < 64, let way := wayOf (coreOf s c) e k
        let pa := 0x8000010000000 + c * 0x100000 + (e * 4 + k) * 0x200
        (x.r.state = .running → Completes (.configSpaceWrite r pa 8 v) s fun t => Refused s t r pa 1 4) ∧
        (x.r.state = .free ∨ x.r.state = .clamped → Completes (.configSpaceWrite r pa 8 v) s fun t => Accepted (hideCore c) s t ∧
          (coreOf t c).ctxs = (coreOf s c).ctxs ∧ (wayOf (coreOf t c) e k).v = way.v ∧ (wayOf (coreOf t c) e k).jig = way.jig ∧
          (∀ q j, (q, j) ≠ (e, k) → wayOf (coreOf t c) q j = wayOf (coreOf s c) q j) ∧
          wayBytes (wayOf (coreOf t c) e k) = wayBytes { wayOfBytes (natLE 8 v.toNat ++ (wayBytes way).drop 8) with v := way.v, jig := way.jig }))) ∧
    (∀ d < 3, ∀ e < 16, Admitted r → ((lookD s.vlogs d VLog.reset).entries.map (·.1)).Nodup → Completes (.violationEntryFree r d e) s fun t =>
      Accepted (fun y => { y with vlogs := [] }) s t ∧ look (lookD t.vlogs d VLog.reset).entries e = none ∧
      ∀ j, j ≠ e → look (lookD t.vlogs d VLog.reset).entries j = look (lookD s.vlogs d VLog.reset).entries j) ∧
    (∀ z < 8, Admitted r → Completes (.ueaddrClear r z) s fun t => Accepted (fun y => { y with hbmStacks := [] }) s t ∧
      (stackOf t z).ueaddr.getLsbD 63 = false ∧ field (stackOf t z).ueaddr 0 63 = field (stackOf s z).ueaddr 0 63 ∧
      (stackOf t z).ce = (stackOf s z).ce ∧ (stackOf t z).slots = (stackOf s z).slots)

namespace Sys2Proof.Claims
/-- The bytes of device memory a function's BAR 4 names (R433): all of HBM4 for the physical function, VFWIN's window for a
virtual one. -/
def Window (s : State) (f o n pa : Nat) : Prop :=
  if f = 0 then o + n ≤ Config.hbmBytes ∧ pa = o
  else f ≤ 16 ∧ (let w := lookD s.vfwin (f - 1) 0
    o + n ≤ field w 0 7 * 2 ^ 30 ∧ pa = field w 30 10 * 2 ^ 30 + o)
/-- Nothing of the device is locked by a near-memory command, and no request stands at a slice. -/
def NoLocks (s : State) : Prop := s.reqs = [] ∧ ∀ q ∈ s.hbmStacks, q.2.slots = []
end Sys2Proof.Claims

/-- R67, R141, R319, R380, R432–R434: a host write or read of device memory is performed at its bytes; a write
to a locked line is held, with the non-relaxed writes and the reads that the function sends after it; a write outside every
window is refused; the doorbell appends the staged packet, or refuses it with reason 0x0F; a completion answers a read of
host memory, and a timeout answers it as poisoned; an AtomicOp is performed and answered with the old value. -/
def Obligations.HostReachesTheDevice : Prop :=
  ∀ (s : State) (f o pa : Nat), f ≤ 16 → hostHolds s f = false → Canonical s = true →
    (∀ x ro, NoLocks s → x ≠ [] → x.length ≤ 512 → Window s f o x.length pa → Completes (.hostPostedWrite f 4 o x ro) s fun t =>
      (∀ i < x.length, readByte t.hbm (pa + i) = nth x i 0) ∧ MemoryBut s t (inHbm pa) x.length ∧ t.cores = s.cores ∧ t.queues = s.queues ∧ t.hostQ = s.hostQ) ∧
    (∀ x ro, x ≠ [] → x.length ≤ 512 → Window s f o x.length pa → isLocked s pa x.length = true →
      let w : HostWrite := { fn := f, bar := 4, off := o, bytes := x, ro := ro }
      let u := { s with hostQ := s.hostQ ++ [w] }
      Completes (.hostPostedWrite f 4 o x ro) s (fun t => t = u) ∧ (∀ b p n, Completes (.hostRead f b p n) u fun t => t = u) ∧
      ∀ y p, y ≠ [] → y.length ≤ 512 → Completes (.hostPostedWrite f 4 p y false) u fun t =>
        t = { s with hostQ := u.hostQ ++ [{ fn := f, bar := 4, off := p, bytes := y, ro := false }] }) ∧
    (∀ x ro b, x ≠ [] → x.length ≤ 512 → b ≠ 0 → b ≠ 2 → b ≠ 4 → Completes (.hostPostedWrite f b o x ro) s fun t =>
      ∃ e, t.events = s.events ++ [e] ∧ e = .unsupported f ∧ Refused { s with events := t.events } t (.host f) o 1 1) ∧
    (∀ n, NoLocks s → 0 < n → n ≤ 4096 → Window s f o n pa → firstPoisoned s pa n = none → Completes (.hostRead f 4 o n) s fun t =>
      { t with lines := s.lines, plru := s.plru } =
        { s with reply := some ((List.range n).map fun i => readByte s.hbm (pa + i))
                 events := s.events ++ [.answered f ((List.range n).map fun i => readByte s.hbm (pa + i))] }) ∧
    (∀ q < 128, ∀ r, let z := queueOf s q
      Admitted r ∨ (r = .host f ∧ f ≠ 0 ∧ field z.qcfg 47 5 = f) → ∀ v : Word, v.getLsbD 0 = true →
      (z.packets.length < 64 → Completes (.qdbRing r q v) s fun t => ∃ p, (queueOf t q).packets = z.packets ++ [p] ∧
        p = (List.range 8).map (fun i => lookD z.staging i 0) ∧ t.cores = s.cores ∧ t.hbm = s.hbm) ∧
      (z.packets.length = 64 → Completes (.qdbRing r q v) s fun t => (queueOf t q).packets = z.packets ∧
        (queueOf t q).refuse = 0x0F ∧ (queueOf t q).staging = z.staging ∧ t.cores = s.cores ∧ t.hbm = s.hbm)) ∧
    (∀ (h : HostRead) (r : Req), s.hostReads = [h] → s.reqs = [r] → r.id = h.id → r.op = .load h.n →
      (∀ x : List Byte, r.who ≠ .hub → x.length = h.n → Completes (.hostCompletion h.id x) s fun t => t.hostReads = [] ∧
        t.reqs = [{ r with answer := some (BitVec.ofNat 64 (leNat x), false) }] ∧ (∀ i < h.n, readByte t.hostMem (h.addr + i) = nth x i 0) ∧
        (∀ a, ¬(h.addr ≤ a ∧ a < h.addr + h.n) → readByte t.hostMem a = readByte s.hostMem a) ∧ t.cores = s.cores ∧ t.hbm = s.hbm) ∧
      (r.who ≠ .hub → Completes (.completionTimeout h.id) s fun t => t.hostReads = [] ∧ t.reqs = [{ r with answer := some (0, true) }] ∧
        t.events = s.events ++ [.aer 0] ∧ SameMemory s t ∧ t.cores = s.cores) ∧
      (r.who = .hub → Completes (.completionTimeout h.id) s fun t => t.hostReads = [] ∧ t.reqs = [] ∧ SameMemory s t ∧ t.cores = s.cores)) ∧
    (∀ n v u, NoLocks s → n = 4 ∨ n = 8 → Window s f o n pa → o % n = 0 → firstPoisoned s pa n = none →
      let old := numberAt s (inHbm pa) n
      let does (op : HostAtomic) (new : Nat) : Prop := Completes (.atomicopRequest f 4 o op n v u) s fun t =>
        numberAt t (inHbm pa) n = new ∧ MemoryBut s t (inHbm pa) n ∧ t.cores = s.cores ∧ t.reply = some (natLE n old)
      does .fetchAdd ((old + v.toNat) % 256 ^ n) ∧ does .swap (v.toNat % 256 ^ n) ∧
      does .cas (if old = u.toNat % 256 ^ n then v.toNat % 256 ^ n else old))

/-! ### The clamp wave, steps and debug access -/
namespace Sys2Proof.Claims
/-- The clamp block of a job is now `j`; every other job's, and the rest of the machine, is as before. -/
def NowJob (s t : State) (a : Nat) (j : Job) : Prop :=
  jobOf t a = j ∧ (∀ b, b ≠ a → jobOf t b = jobOf s b) ∧ { t with jobs := [] } = { s with jobs := [] }
/-- A command word (R416): an operation, and no reserved bit. -/
def Cmd (v : Word) (op : Nat) : Prop := v.toNat < 4096 ∧ field v 0 4 = op
/-- Cores and contexts stand in State under one number each. -/
def Distinct (s : State) : Prop := (s.cores.map (·.1)).Nodup ∧ ∀ p ∈ s.cores, (p.2.ctxs.map (·.1)).Nodup
/-- No CTXSAVE of a resident context is under way. -/
def NoSaves (s : State) : Prop := ∀ p ∈ s.svcs, ∀ c key, p.2.seq.wait ≠ .saving c key
/-- A context that runs, gated or quiescent. -/
def Moving (x : Ctx) : Prop := x.r.state = .running ∨ x.r.state = .gated ∨ x.r.state = .quiescent
/-- Every context of the job has been frozen, and keeps the state it had (R411); those of other jobs go on as they were. -/
def Frozen (s t : State) (a : Nat) : Prop := ∀ c k, let x := ctxOf s c k
  (Moving x → asidOf x = a → (ctxOf t c k).r = { x.r with state := .clamped, prev := x.r.state } ∧
    (∀ z, x.seq.wait = .since z → (ctxOf t c k).seq.wait = .since (s.cycle - z)) ∧
    seqRuns t c k = false) ∧
  (asidOf x ≠ a → (ctxOf t c k).r = x.r ∧ (ctxOf t c k).seq = x.seq)
/-- A further cause of a clamped job (R415): 8 are kept, and the rest counted up to 511. -/
def Further (j : Job) (r : CauseRec) : Job :=
  if j.secs.length < 8 then { j with secs := j.secs ++ [r] } else { j with lostsec := min 511 (j.lostsec + 1) }
/-- The boundary a level-2 request lands at has passed (R410). -/
def Passed (s : State) (j : Job) (r : CauseRec) : Prop := r.tick.toNat + j.lag.toNat + 1 ≤ (tickNow s).toNat
end Sys2Proof.Claims

/-- R408, R410, R411, R415: a request reaches the arbiter and goes on to the job's other devices; against a clamped job it is
a further cause, and it ends a step. At levels 0 and 1 the first request is the origin; at level 2 the clamp lands at the
boundary that ends tick n + LAG, and the request of the earliest tick, then of the lowest device, is the origin. LATE is
set where that boundary has passed. -/
def Obligations.ClampRequestsLand : Prop :=
  ∀ (s : State) (a : Nat), let j := jobOf s a
    (j.raised = [] → Completes (.clampRequest a) s fun t => t = s) ∧
    (∀ r l, j.raised = r :: l → j.clamped = true → Completes (.clampRequest a) s fun t => t.events = s.events ++ [.clamp a r] ∧
      (j.stepping = false → NowJob { s with events := t.events } t a (Further { j with raised := l } r)) ∧
      (j.stepping = true →
        jobOf t a = { Further { j with raised := l } r with stepping := false, stepCore := none, stepTo := none, stepstat := 4 })) ∧
    (∀ r l, j.raised = r :: l → j.clamped = false → j.stepping = true → j.reverse = none → Distinct s → NoSaves s →
      Completes (.clampRequest a) s fun t => t.events = s.events ++ [.clamp a r] ∧ Frozen s t a ∧
      ∃ m, jobOf t a = { Further { j with raised := l } r with clamped := true, clamptick := m, stepping := false, stepCore := none
                                                               stepTo := none, stepstat := 4 }) ∧
    (∀ r l, j.raised = r :: l → r.tick.toNat < 2 ^ 63 → j.clamped = false → (j.stepping = false ∨ j.reverse ≠ none) →
      Completes (.clampRequest a) s fun t => t.events = s.events ++ [.clamp a r] ∧ ∃ late : Bool,
        (late = true ↔ j.late = true ∨ (j.level = 2 ∧ Passed s j r)) ∧
        NowJob { s with events := t.events } t a { j with raised := l, waiting := j.waiting ++ [r], late := late }) ∧
    (j.clamped → Completes (.clampLand a) s fun t => t = s) ∧
    (∀ r l, j.clamped = false → j.waiting = r :: l → j.tact = false → j.secs = [] → l.length ≤ 8 → Distinct s → NoSaves s →
      (∀ x ∈ r :: l, x.tick.toNat < 2 ^ 63) →
      (j.level ≠ 2 → Completes (.clampLand a) s fun t => Frozen s t a ∧
        jobOf t a = { j with clamped := true, origin := some r, secs := l, waiting := [], clamptick := tickNow s, stepping := false
                             reverse := none, stepstat := if j.stepping then 4 else j.stepstat }) ∧
      (j.level = 2 → (∀ x ∈ r :: l, ¬Passed s j x) → Completes (.clampLand a) s fun t => t = s) ∧
      (j.level = 2 → (∃ x ∈ r :: l, Passed s j x) → Completes (.clampLand a) s fun t => Frozen s t a ∧ ∃ o ∈ r :: l,
        (∀ x ∈ r :: l, o.tick.toNat < x.tick.toNat ∨ (o.tick = x.tick ∧ o.dev ≤ x.dev)) ∧ (jobOf t a).origin = some o ∧
        (jobOf t a).clamped = true ∧ (jobOf t a).waiting = [] ∧ (jobOf t a).secs.length = l.length ∧ (jobOf t a).late = j.late ∧
        (j.late = false → (jobOf t a).clamptick = o.tick + j.lag.setWidth 64)))

/-- R416, R418, R419, R420: a command that R416 does not allow is refused and logged; CLAMP raises the debugger's request;
TICK and UNCLAMP wait for their boundary, or are too late; BLOCK lets the one context's region fire and no other; and what
ends each step. -/
def Obligations.CommandsAndSteps : Prop :=
  ∀ (s : State) (r : Src) (a : Nat) (v : Word), a < 4096 → SmallId r → let j := jobOf s a
    let c := field v 4 8
    let y : State := { s with reply := some [] }
    (∀ x ∈ [(1, Instr.clampcmdClamp r a v), (2, .clampcmdFire r a v), (3, .clampcmdBlock r a v), (4, .clampcmdTick r a v),
        (5, .clampcmdUnclamp r a v), (6, .clampcmdReverse r a v)], field v 0 4 = x.1 →
      ¬Admitted r ∨ 4096 ≤ v.toNat ∨ j.stepping = true ∨ (x.1 ≠ 1 ∧ j.clamped = false) ∨
        ((x.1 = 2 ∨ x.1 = 3 ∨ x.1 = 6) ∧ (224 ≤ c ∨ jobSlot s c a = none)) →
      Completes x.2 s fun t => Refused s t r (0x8000000040018 + a * 0x200) 1 5) ∧
    (Admitted r → j.stepping = false →
      (Cmd v 1 → Completes (.clampcmdClamp r a v) s fun t => NowJob y t a { j with raised := j.raised ++
        [{ unit := 8, cause := .brkpt, dev := s.exid.toNat, core := 0, ctx := 0, siteA := 0, siteB := 0, iter := 0, colour := 0
           tick := tickNow s }] }) ∧
      (j.clamped = true → Cmd v 4 → Completes (.clampcmdTick r a v) s fun t => NowJob y t a
        (if j.cmdtick.toNat ≤ (tickNow s).toNat then { j with late := true, stepstat := 5 }
         else { j with stepTo := some j.cmdtick, resumeAt := none })) ∧
      (j.clamped = true → Cmd v 5 → Completes (.clampcmdUnclamp r a v) s fun t => NowJob y t a
        (if j.cmdtick.toNat ≤ (tickNow s).toNat then { j with late := true, stepstat := 5 }
         else { j with resumeAt := some j.cmdtick, stepTo := none })) ∧
      (∀ k, j.clamped = true → Cmd v 3 → c < 224 → jobSlot s c a = some k → Completes (.clampcmdBlock r a v) s fun t =>
        NowJob y t a { j with stepping := true, stepCore := some (c, 1, s.cycle) } ∧
        (∀ d i, (ctxOf s d i).r.state = .clamped → asidOf (ctxOf s d i) = a →
          (regionMoves t d i = true ↔ d = c ∧ i = k) ∧ seqRuns t d i = false))) ∧
    (∀ d e z, j.stepping = true → j.clamped = true → j.stepCore = some (d, e, z) →
      (z + 65536 ≤ s.cycle → Completes (.blockStepTimeout a) s fun t =>
        jobOf t a = { j with stepping := false, stepCore := none, stepTo := none, stepstat := 3 }) ∧
      (s.cycle < z + 65536 → Completes (.blockStepTimeout a) s fun t => t = s)) ∧
    (∀ m, j.stepTo = some m → j.stepping = true → j.clamped = false →
      (m.toNat < (tickNow s).toNat → Distinct s → NoSaves s → Completes (.tickStepEnd a) s fun t => Frozen s t a ∧
        jobOf t a = { j with stepping := false, stepCore := none, stepTo := none, stepstat := 1, clamped := true, clamptick := m }) ∧
      ((tickNow s).toNat ≤ m.toNat → Completes (.tickStepEnd a) s fun t => t = s)) ∧
    (∀ m, j.clamped = true → j.stepping = false → j.resumeAt = some m →
      ((tickNow s).toNat < m.toNat → Completes (.clampResume a) s fun t => t = s) ∧
      (m.toNat ≤ (tickNow s).toNat → Distinct s → Completes (.clampResume a) s fun t =>
        jobOf t a = { j with clamped := false, origin := none, secs := [], lostsec := 0, resumeAt := none } ∧
        ∀ d i, let x := ctxOf s d i
          (x.r.state = .clamped → asidOf x = a → (ctxOf t d i).r.state = x.r.prev ∧ (ctxOf t d i).trap = none ∧
            ∀ z, x.seq.wait = .since z → (ctxOf t d i).seq.wait = .since (s.cycle - z) ∨ x.trap ≠ none) ∧
          (asidOf x ≠ a → (ctxOf t d i).r = x.r ∧ (ctxOf t d i).seq = x.seq))) ∧
    (∀ m, j.clamped = true → j.stepping = false → j.resumeAt = none → j.stepTo = some m → m.toNat ≤ (tickNow s).toNat →
      Completes (.clampResume a) s fun t => jobOf t a = { j with clamped := false, stepping := true })

/-- R417: FIRE fires the one matched set that comes first in canonical order, once tokens have come to rest, and the step
ends; with no set that may fire, STEPSTAT is 2. R431: REVERSE with no firing to step over is refused with STEPSTAT 2, and
without a checkpoint in force it is refused; otherwise the log's bytes are put back, newest first, and the job runs again up to
one firing short of the cut. -/
def Obligations.FiringSteps : Prop :=
  ∀ (s : State) (r : Src) (a k : Nat) (v : Word), a < 4096 → SmallId r → Admitted r → let j := jobOf s a
    let c := field v 4 8
    j.stepping = false → j.clamped = true → c < 224 → jobSlot s c a = some k →
    (Cmd v 2 →
      let u := settleTokens (modJob { s with reply := some [], deferred := false } a fun j =>
        { j with stepping := true, stepCore := some (c, 1, s.cycle) }) c k 4096
      (canonNext u c k = none → Completes (.clampcmdFire r a v) s fun t =>
        NowJob { u with deferred := s.deferred } t a { jobOf u a with stepping := false, stepCore := none, stepstat := 2 }) ∧
      (∀ q, canonNext u c k = some q → q ∈ matchedSets u c k ∧
        (∀ p ∈ matchedSets u c k, mayIssue u c p.1 p.2.2 = true → canonRank (ctxOf u c k) q.1 q.2.2 ≤ canonRank (ctxOf u c k) p.1 p.2.2) ∧
        Completes (.clampcmdFire r a v) s fun t => (jobOf t a).stepping = false ∧ (jobOf t a).stepCore = none ∧
          (jobOf t a).stepstat = 1)) ∧
    (Cmd v 6 →
      (j.level = 0 ∨ j.ckValid = false ∨ j.ckLapsed = true → Completes (.clampcmdReverse r a v) s fun t =>
        Refused s t r (0x8000000040018 + a * 0x200) 1 5) ∧
      (j.level ≠ 0 → j.ckValid = true → j.ckLapsed = false →
        (firesOn s c a = 0 → Completes (.clampcmdReverse r a v) s fun t => t.reply = none ∧ jobOf t a = { j with stepstat := 2 } ∧
          t.hbm = s.hbm ∧ t.cores = s.cores) ∧
        (firesOn s c a ≠ 0 → Completes (.clampcmdReverse r a v) s fun t => t.reply = some [] ∧ (jobOf t a).clamped = false ∧
          (jobOf t a).stepping = true ∧ (jobOf t a).phase = j.ckPhase ∧ (jobOf t a).undo = [] ∧ (jobOf t a).packets = [] ∧
          (jobOf t a).reverse = some (c, firesOn s c a - 1, j.phase) ∧ (jobOf t a).origin = none ∧ (jobOf t a).secs = [] ∧
          (∀ x ∈ t.tasks, x.asid.toNat ≠ a))))

namespace Sys2Proof.Claims
/-- A write of the selected register, and what it leaves: only the sequencer of the context differs. -/
def WritesSeq (s t : State) (c k : Nat) (q : Seq) : Prop :=
  Accepted (hideCtx c k) s t ∧ ctxOf t c k = { ctxOf s c k with seq := q }
end Sys2Proof.Claims

/-- R421, R422: DBGDATA is refused while its context is not CLAMPED and where DBGSEL selects nothing; it reads the selected
register; a write gives it a value, but for S0 and P0, and wins over the data of a load under way; a lane's write leaves the
combination of what was committed, with the one lane's value, and no ply. -/
def Obligations.DebugAccess : Prop :=
  ∀ (s : State) (r : Src) (c k : Nat) (v : Word), SmallId r → c < 224 → k < 4 → Admitted r →
    let x := ctxOf s c k
    let q := x.seq
    let i := field x.r.dbgsel 0 12
    let sel (n : Nat) : Prop := x.r.state = .clamped ∧ field x.r.dbgsel 12 4 = n
    let reads (w : Word) : Prop := Completes (.dbgdataRead r c k) s fun t => t = { s with reply := some (natLE 8 w.toNat) }
    let n := i / 32
    let width := declWidth (lamOf x n).decl
    (x.r.state ≠ .clamped ∨ 6 ≤ field x.r.dbgsel 12 4 ∨ (sel 0 ∧ 32 ≤ i) ∨ (sel 1 ∧ 8 ≤ i) ∨ (sel 2 ∧ 3 ≤ i) ∨ (sel 3 ∧ 16 ≤ i) ∨
        (sel 4 ∧ i ≠ 0) ∨ (sel 5 ∧ (64 ≤ n ∨ width = 0 ∨ width ≤ i % 32)) →
      Completes (.dbgdataRead r c k) s (fun t => Refused s t r (ctxAt c k 0x108) 1 5) ∧
      Completes (.dbgdataWrite r c k v) s fun t => Refused s t r (ctxAt c k 0x108) 1 5) ∧
    (sel 0 → i < 32 → reads (readS q (BitVec.ofNat 5 i)) ∧
      (q.wait = .none → Completes (.dbgdataWrite r c k v) s fun t => WritesSeq s t c k (writeS q (BitVec.ofNat 5 i) v)) ∧
      (∀ id d m, pendingLoad { s with reply := some [] } c k = some (id, d, m) → d = BitVec.ofNat 5 i → d ≠ 0 →
        Completes (.dbgdataWrite r c k v) s fun t => readS (ctxOf t c k).seq d = v ∧ (ctxOf t c k).r.lddrop = true ∧
          (ctxOf t c k).seq = seqRetired (writeS q d v) m ∧ (∀ z ∈ t.reqs, z.id ≠ id) ∧ ∀ z ∈ t.bufreqs, z.id ≠ id)) ∧
    (sel 1 → i < 8 → reads (if readP q (BitVec.ofNat 3 i) then 1 else 0) ∧
      Completes (.dbgdataWrite r c k v) s fun t => WritesSeq s t c k (writeP q (BitVec.ofNat 3 i) (v.getLsbD 0))) ∧
    (sel 2 → i < 3 → reads ((readLC q i).setWidth 64) ∧
      Completes (.dbgdataWrite r c k v) s fun t => WritesSeq s t c k (writeLC q i (v.setWidth 32))) ∧
    (sel 3 → i < 16 → reads ((readH q (BitVec.ofNat 4 i)).setWidth 64) ∧
      Completes (.dbgdataWrite r c k v) s fun t => WritesSeq s t c k (writeH q (BitVec.ofNat 4 i) (v.setWidth 16))) ∧
    (sel 4 → i = 0 → reads q.pc ∧
      Completes (.dbgdataWrite r c k v) s fun t => WritesSeq s t c k { q with pc := v, wait := .none }) ∧
    (sel 5 → n < 64 → i % 32 < width →
      Completes (.dbgdataRead r c k) s (fun t => ∃ w : Word, t = { s with reply := some (natLE 8 w.toNat) }) ∧
      Completes (.dbgdataWrite r c k v) s fun t => let y := ctxOf t c k
        Accepted (hideCtx c k) s t ∧ y.seq = x.seq ∧ (lamOf y n).decl = (lamOf x n).decl ∧
        (∃ z, (lamOf y n).home = (gatherLanes x n).set (i % 32) z) ∧ (lamOf y n).transit = none ∧
        (∀ m, m ≠ n → lamOf y m = lamOf x m) ∧ (∀ p ∈ y.plies, ∀ z ∈ p.2, z.reg ≠ n) ∧
        (y.r.plystale = true ↔ x.r.plystale = true ∨ (lamOf x n).transit.isSome = true ∨
          (∃ e ∈ x.insts, ∃ f ∈ e.effects, ∃ b z, f = .ply n b z) ∨ ∃ l ∈ x.late, ∃ b z, l.eff = .ply n b z))

/-! ### Ends of jobs, resets, time, boot and health -/
namespace Sys2Proof.Claims
/-- No context of a job stands on the device, in a slot or saved, and every task of it has retired (R400). -/
def JobGone (t : State) (a : Nat) : Prop :=
  (∀ c k, (ctxOf t c k).r.state.resident = true → asidOf (ctxOf t c k) ≠ a) ∧
  (∀ p ∈ t.cores, ∀ y ∈ p.2.saved, asidOf y.ctx ≠ a) ∧ ∀ x ∈ t.tasks, x.asid.toNat = a → x.retired = true
/-- The contexts of other jobs keep their registers and sequencers. -/
def OthersStay (s t : State) (l : List Nat) : Prop := ∀ c k, k < 4 → asidOf (ctxOf s c k) ∉ l →
  (ctxOf t c k).r = (ctxOf s c k).r ∧ (ctxOf t c k).seq = (ctxOf s c k).seq
/-- What an end of a job is told of: no contribution waits for a slot of the exchange unit, tasks stand under one number
each, and none but those of the jobs named is over. -/
def EndsClean (s : State) (l : List Nat) : Prop :=
  s.redWait = [] ∧ (s.tasks.map (·.id)).Nodup ∧ (∀ x ∈ s.tasks, x.over = true → x.asid.toNat ∈ l) ∧ Distinct s ∧
  ∀ c, look (coreOf s c).ctxs 4 = none
/-- A core at its reset values but for its health (R445). -/
def CoreCleared (s t : State) (c : Nat) : Prop := coreOf t c = { Core.reset with health := (coreOf s c).health }
end Sys2Proof.Claims

/-- R400, R445: KILL ends every context of the job, saved ones too, and retires its tasks without a DONE increment, so that no
byte of memory changes, while its queues keep their packets; a queue reset empties its queue and keeps QCFG, QMARK and the
staging slot; a core or die reset ends the jobs with a context there and puts the cores at their reset values; a device
reset leaves the fuses and the monotonic counter. -/
def Obligations.ResetsAndKill : Prop :=
  ∀ (s : State) (r : Src), Admitted r →
    (∀ a < 4096, EndsClean s [a] → NoLocks s → Completes (.jobctlKill r a) s fun t => t.reply = some [] ∧ JobGone t a ∧
      OthersStay s t [a] ∧ SameMemory s t ∧ (∀ q, (queueOf t q).packets = (queueOf s q).packets) ∧
      (jobOf t a).pq = (jobOf s a).pq ∧ (jobOf t a).tact = (jobOf s a).tact) ∧
    (∀ q < 128, (∀ x ∈ s.tasks, x.queue ≠ q ∧ x.over = false) → Completes (.queueReset r q) s fun t => let z := queueOf s q
      NowQueue s t q { z with packets := [], checked := false, eprio := qPrio z, skips := 0, fails := 0, resv := none, prev := 0
                              early := [] } ∧ hideQueues { t with reply := s.reply } = hideQueues s ∧ t.reply = some []) ∧
    (∀ q < 128, (s.tasks.map (·.id)).Nodup → (∀ x ∈ s.tasks, x.over = true → x.queue = q) → Completes (.queueReset r q) s fun t =>
      (queueOf t q).packets = [] ∧ (queueOf t q).qcfg = (queueOf s q).qcfg ∧ (queueOf t q).qmark = (queueOf s q).qmark ∧
      (queueOf t q).staging = (queueOf s q).staging ∧ (∀ x ∈ t.tasks, x.queue = q → x.retired = true) ∧
      ∀ m, m ≠ q → (queueOf t m).packets = (queueOf s m).packets) ∧
    (∀ c < 224, let l := coreJobs (coreOf s c)
      EndsClean s l → Completes (.coreReset r c) s fun t => t.reply = some [] ∧ CoreCleared s t c ∧ (∀ a ∈ l, JobGone t a) ∧
        ∀ d k, d ≠ c → k < 4 → asidOf (ctxOf s d k) ∉ l → (ctxOf t d k).r = (ctxOf s d k).r ∧ (ctxOf t d k).seq = (ctxOf s d k).seq) ∧
    (∀ d < 2, (s.vlogs.map (·.1)).Nodup → Completes (.dieReset r d) s fun t => t.reply = some [] ∧
      (∀ c < 224, coreDie c = d → CoreCleared s t c) ∧ look t.vlogs d = none ∧
      (∀ e, e ≠ d → lookD t.vlogs e VLog.reset = lookD s.vlogs e VLog.reset) ∧ ∀ p ∈ t.lines, homeSlice (p.1 * 128) / 16 ≠ d) ∧
    Completes .deviceReset s (fun t => t.boot = { Boot.reset with rollback := s.boot.rollback, leaf := s.boot.leaf } ∧
      t.hostMem = s.hostMem ∧ t.agenda = s.agenda ∧ t.events = s.events ∧ t.free = s.free ∧
      { t with boot := State.reset.boot, hostMem := State.reset.hostMem, agenda := State.reset.agenda, events := State.reset.events
               free := State.reset.free } = State.reset)

/-- R392, R439, R440: a Sync sets the clock, and LOCK follows the last 16 offsets; holdover clears LOCK, keeps time and tells
the service cores; a boundary puts the levels in force that wait for it. -/
def Obligations.TimeIsKept : Prop :=
  ∀ (s : State) (g : Word), let z := s.time
    let d := (z.ptime - g).toInt
    let y (t : State) : State := { t with time := z, events := s.events }
    Completes (.ptpMessage g false) s (fun t => t = s) ∧
    (-10 ≤ d → d ≤ 10 → Completes (.ptpMessage g true) s fun t => y t = s ∧ t.events = s.events ∧
      t.time = { z with ptime := g, frac := 0, offset := BitVec.ofInt 32 d, good := min 16 (z.good + 1), lock := decide (15 ≤ z.good) }) ∧
    (d < -10 ∨ 10 < d → Completes (.ptpMessage g true) s fun t => y t = s ∧ t.time.ptime = g ∧ t.time.lock = false ∧
      t.time.good = 0 ∧ t.time.epoch = z.epoch ∧ t.time.per = z.per ∧ (z.lock = false → t.events = s.events) ∧
      (z.lock = true → t.events = s.events ++ [.service "HOLDOVER" 0 0])) ∧
    (z.lock = false → Completes .holdover s fun t => t = s) ∧
    (z.lock = true → Completes .holdover s fun t =>
      t = { s with time := { z with lock := false, good := 0 }, events := s.events ++ [.service "HOLDOVER" 0 0] }) ∧
    ((tickNow s).toNat ≤ z.ticked.toNat → Completes .tickBoundary s fun t => t = s) ∧
    (z.ticked.toNat < (tickNow s).toNat → s.tickOut = [] → Completes .tickBoundary s fun t =>
      { t with time := z, jobs := s.jobs } = s ∧ t.time = { z with ticked := tickNow s } ∧ ∀ a, let j := jobOf s a
        jobOf t a = (match j.levelNext with | some l => { j with level := l, levelNext := none } | none => j))

namespace Sys2Proof.Claims
/-- A boot that fails: its reason, and a retry after 8 s (R441). -/
def BootFailed (s t : State) (code : Nat) : Prop :=
  t.boot = { s.boot with bootstat := BitVec.ofNat 64 code, phase := 1, retryAt := s.cycle + 10000000000 } ∧
  t.svcs = s.svcs ∧ t.cores = s.cores
/-- What ECDSA and LMS sign of an image (R442). -/
def signed (x : List Byte) : List Byte := x.take 0xC0 ++ x.drop 4096
/-- The bytes at an offset of an image. -/
def at_ (x : List Byte) (o n : Nat) : List Byte := (x.drop o).take n
/-- The header fields are as tabled (R442). -/
def HeaderOk (x : List Byte) : Prop :=
  4096 ≤ x.length ∧ at_ x 0 8 = [0x47, 0x4C, 0x4E, 0x53, 0x5A, 0x39, 0x36, 0x30] ∧ leNat (at_ x 8 4) = 1 ∧ leNat (at_ x 0xC 2) ≤ 64 ∧
  leNat (at_ x 0xE 2) ≤ 1 ∧ leNat (at_ x 0x10 8) % 4096 = 0 ∧ leNat (at_ x 0x10 8) ≤ 2 ^ 28 ∧ x.length = 4096 + leNat (at_ x 0x10 8) ∧
  leNat (at_ x 0x18 8) % 4 = 0 ∧ leNat (at_ x 0x18 8) < leNat (at_ x 0x10 8) ∧ nth x 0x20 0 = 4 ∧ leNat (at_ x 0x81 7) = 0 ∧
  ∀ b ∈ at_ x 0xB8C 0x474, b = 0
/-- Both key hashes are the fused ones. -/
def KeysOk (x : List Byte) : Prop :=
  Config.sha384 (at_ x 0x20 97) = Config.ecdsaKeyHash ∧ Config.sha384 (at_ x 0x88 56) = Config.lmsKeyHash
/-- Both signatures verify. -/
def EcdsaOk (x : List Byte) : Prop := Config.ecdsaVerify (at_ x 0x20 97) (at_ x 0xC0 96) (Config.sha384 (signed x)) = true
def LmsOk (x : List Byte) : Prop := Config.lmsVerify (at_ x 0x88 56) (at_ x 0x120 2668) (signed x) = true
end Sys2Proof.Claims

/-- R441, R442: an image is accepted only when its header, key hashes, both signatures and SVN are in order, and each failure
has its code; an accepted image stands at PA 0, ADVANCE blows fuses up to SVN, M is measured, and every service core starts
at PA 0x1000 + ENTRY; the ROM retries after 8 s. -/
def Obligations.DeviceBoots : Prop :=
  ∀ (s : State) (x : List Byte), let b := s.boot
    let fails (code : Nat) : Prop := Completes (.bootImageFetched x) s fun t => BootFailed s t code
    let svn := leNat (at_ x 0xC 2)
    (b.phase ≠ 0 → Completes (.bootImageFetched x) s (fun t => t = s) ∧ Completes .bootNetworkFailure s fun t => t = s) ∧
    (b.phase = 0 →
      Completes .bootNetworkFailure s (fun t => BootFailed s t 1 ∧ { t with boot := b } = s) ∧
      (¬HeaderOk x → fails 2) ∧ (HeaderOk x → ¬KeysOk x → fails 3) ∧ (HeaderOk x → KeysOk x → ¬EcdsaOk x → fails 4) ∧
      (HeaderOk x → KeysOk x → EcdsaOk x → ¬LmsOk x → fails 5) ∧
      (HeaderOk x → KeysOk x → EcdsaOk x → LmsOk x → (svn < b.rollback → fails 6) ∧
        (b.rollback ≤ svn → Canonical s = true → Completes (.bootImageFetched x) s fun t =>
          (∀ i < x.length, readByte t.hbm i = nth x i 0) ∧ (∀ i, x.length ≤ i → readByte t.hbm i = readByte s.hbm i) ∧
          t.cores = s.cores ∧ t.boot.phase = 2 ∧ t.boot.svn = svn ∧ t.boot.leaf = b.leaf ∧
          t.boot.rollback = (if leNat (at_ x 0xE 2) = 1 then svn else b.rollback) ∧
          look t.boot.measure 1 = some (Config.sha384 (signed x)) ∧
          ∀ n < Config.serviceCores, svcOf t n =
            { Svc.reset with running := true, seq := { Seq.reset with pc := BitVec.ofNat 64 (0x1000 + leNat (at_ x 0x18 8)) } }))) ∧
    (b.phase = 1 → b.retryAt ≤ s.cycle → Completes .bootRetry s fun t => t = { s with boot := { b with phase := 0 } }) ∧
    (b.phase ≠ 1 ∨ s.cycle < b.retryAt → Completes .bootRetry s fun t => t = s)

/-- R443, R444, R446: measurement registers 2 to 15 are extended by service cores; a report binds nonce, EXID, SVN, C and
the 16 measurements, and is signed with LMS 32,768 times; health registers take MARGIN, DRIFT and the months left; a
temperature notice tells the service cores, a trip resets the device, and the power limiter changes no result. -/
def Obligations.ReportsAndHealth : Prop :=
  ∀ (s : State), let b := s.boot
    (∀ n i x, 2 ≤ i → i < 16 → Completes (.measurementExtend (.svc n) i x) s fun t =>
      look t.boot.measure i = some (Config.sha384 (measureOf b i ++ x)) ∧ (∀ j, j ≠ i → look t.boot.measure j = look b.measure j) ∧
      { t with boot := { t.boot with measure := b.measure } } = s) ∧
    (∀ r i x, (∃ f, r = .host f) ∨ i < 2 ∨ 16 ≤ i → Completes (.measurementExtend r i x) s fun t => t = s) ∧
    (∀ x : List Byte, x.length = 48 →
      let body (spent : Bool) := x ++ natLE 2 s.exid.toNat ++ natLE 2 b.svn ++ natLE 2 b.rollback ++
        ((List.range 16).flatMap fun i => measureOf b i) ++ natLE 2 (if spent then 1 else 0)
      (b.leaf < 32768 → Completes (.attestationReport x) s fun t => 
        { t with events := s.events } = { s with boot := { b with leaf := b.leaf + 1 } } ∧
        t.events = s.events ++ [.report (body false ++ (Config.ecdsaSign Config.deviceSecret (body false) ++
          Config.lmsSign Config.deviceSecret b.leaf (body false)))]) ∧
      (32768 ≤ b.leaf → Completes (.attestationReport x) s fun t => 
        { t with events := s.events } = s ∧
        t.events = s.events ++ [.report (body true ++ (Config.ecdsaSign Config.deviceSecret (body true) ++ []))])) ∧
    (∀ x : List Byte, x.length ≠ 48 → Completes (.attestationReport x) s fun t => t = s) ∧
    (∀ c margin drift, margin < 65536 → drift < 65536 →
      let months := if drift = 0 then 0xFFFF else min 0xFFFF (margin * 100 / drift)
      let is (w : Word) : Prop := field w 48 16 = margin ∧ field w 32 16 = drift ∧ field w 16 16 = months ∧ field w 0 16 = 0
      (c < 224 → Completes (.healthMonitorUpdate c (drift * 65536 + margin)) s fun t => hideCore c t = hideCore c s ∧
        is (coreOf t c).health ∧ coreOf t c = { coreOf s c with health := (coreOf t c).health }) ∧
      (c < 8 → Completes (.healthMonitorUpdate (224 + c) (drift * 65536 + margin)) s fun t =>
        { t with hbmStacks := s.hbmStacks } = s ∧ is (stackOf t c).health ∧
        stackOf t c = { stackOf s c with health := (stackOf t c).health } ∧ ∀ k, k ≠ c → stackOf t k = stackOf s k)) ∧
    Completes .tempNotify s (fun t => t = { s with events := s.events ++ [.service "TEMP" 105 0] }) ∧
    (∃ t, Machine.exec .deviceReset s = .next t ∧ Machine.exec .tempTrip s = .next t) ∧
    (∀ w, Completes (.powerLimitWindow w) s fun t => t = { s with limited := decide (s.pwrlim.toNat < w) })

/-! ### Steps, decoding, and the form of memory -/
namespace Sys2Proof.Claims
/-- Time passes before a turn (R1): cycles, and 0.8 ns for each. -/
def later (s : State) (n : Nat) : State :=
  { s with cycle := s.cycle + n
           time := { s.time with ptime := s.time.ptime + BitVec.ofNat 64 ((s.time.frac + 4 * n) / 5), frac := (s.time.frac + 4 * n) % 5 } }
/-- The word just fetched from `p` is in the core's instruction cache (R256) and its line in its slice (R65). -/
def cached (t : State) (p : Phys) (c : Nat) (a : Word) (asid w : Nat) : State :=
  modCore (physFetch t p 4) c fun y => { y with icache := put y.icache (a.toNat * 4096 + asid) (BitVec.ofNat 32 w) }
/-- The four bytes at an address. -/
def fourBytes (t : State) (p : Phys) : List Byte := (List.range 4).map (byteAt t p)
/-- What the bytes of a word and of the word after it decode to: the instruction, or RESERVED_ENCODING (R224). -/
def meaningOf (bs : List Byte) (i : Instr) : Prop :=
  decodeBytes bs = .ok (i, []) ∨ (i = .reservedEncoding ∧ ∃ r, decodeBytes bs = .error r ∧ r ≠ .truncated)
end Sys2Proof.Claims

/-- R18, R172, R215, R217, R224: a step executes the instruction that the bytes at the program counter decode to: of a context through
its translation, of a service core untranslated, one word or two; an element's issued word, or an event. Before it, the
turn's cycles pass; the step does nothing else around it. -/
def Obligations.StepRunsDecodedInstruction : Prop :=
  ∀ (s : State) (n : Nat) (rest : List (Nat × Turn)) (i : Instr) (d : Bool),
    let b := later { s with agenda := rest } n
    (∀ c k t p, s.agenda = (n, .seq c k d false) :: rest → (coreOf s c).trbuf = [] →
      let u := { b with cur := .seq c k, deferred := d, stale := false }
      let x := ctxOf s c k
      seqRuns s c k = true → x.seq.loops = [] → translate u c x.r.xlroot x.seq.pc needFetch = (t, .ok p) → Clean t p 4 →
      let t1 := cached t p c x.seq.pc (asidOf x) (numberAt t p 4)
      (meaningOf (fourBytes t p) i → Machine.step s = Machine.exec i t1) ∧
      (∀ t' p', isSx (BitVec.ofNat 32 (numberAt t p 4)) = true → (ctxOf t1 c k) = x →
        translate t1 c x.r.xlroot (x.seq.pc + 4) needFetch = (t', .ok p') → Clean t' p' 4 →
        meaningOf (fourBytes t p ++ fourBytes t' p') i →
        Machine.step s = Machine.exec i (cached t' p' c (x.seq.pc + 4) (asidOf x) (numberAt t' p' 4)))) ∧
    (∀ m f, s.agenda = (n, .svc m d f) :: rest → svcRuns s m = true →
      let pc := (svcOf s m).seq.pc
      let u := physFetch { b with cur := .svc m, deferred := d, stale := f } (inHbm pc.toNat) 4
      isHbm pc.toNat = true → Clean s (inHbm pc.toNat) 4 →
      (meaningOf (fourBytes s (inHbm pc.toNat)) i → Machine.step s = Machine.exec i u) ∧
      (isSx (BitVec.ofNat 32 (numberAt s (inHbm pc.toNat) 4)) = true → isHbm (pc + 4).toNat = true →
        Clean s (inHbm (pc + 4).toNat) 4 →
        meaningOf (fourBytes s (inHbm pc.toNat) ++ fourBytes s (inHbm (pc + 4).toNat)) i → Machine.step s = Machine.exec i (physFetch u (inHbm (pc + 4).toNat) 4))) ∧
    (∀ c e r, s.agenda = (n, .elem c e d) :: rest → (coreOf s c).trbuf = [] → (elemOf s c e).issuing = some r →
      regionMoves s c r.way = true →
      decodeElem (lookD (lookD (elemOf s c e).ways r.way Way.reset).slots r.slot 0) = .ok i →
      Machine.step s = Machine.exec i { b with cur := .elem c e, deferred := d, stale := false }) ∧
    (s.agenda = (n, .ev i d) :: rest →
      Machine.step s = Machine.exec i { b with cur := .idle, deferred := d, stale := false })

/-- R216–R228: words written out from the encoding tables decode to the instructions they stand for; a function and a major
opcode that the tables do not list, and the guard P0 negated, are reserved. -/
def Obligations.SpecWordsDecode : Prop :=
  decodeSeq 0b00000000011001000010110110000001#32 0 = .ok (.sub { p := 5, neg := true } 3 4 5) ∧
  decodeSeq 0b00000100001000101111111111111110#32 0 = .ok (.addi 1 2 0xFFFE) ∧
  decodeSeq 0b01100001011111111111111111111111#32 0 = .ok (.br { p := 2, neg := true } 0x3FFFFF) ∧
  decodeSeq 0b10000000111000010000000010001101#32 0 = .ok (.lds 7 1 8 .d true) ∧
  decodeSeq 0b01110001000000110000000000001010#32 0 = .ok (.loop .lc1 3 10) ∧
  decodeSeq 0b10100000000000001000100001100001#32 0 = .ok (.blkrun 1 2 3 true) ∧
  decodeSeq 0b11111100010000011000000000000000#32 0xFFFFFFFE#32 = .ok (.moviSx 3 0xFFFFFFFE) ∧
  decodeElem 0b00000000001011100000000101000000#32 =
    .ok (.fadd { pm := .always, nt := 2, ks := 7, kp := 0, om := 1 } .fp32 .rup) ∧
  decodeElem 0b11000000000111100101001000011011#32 =
    .ok (.lde { pm := .always, nt := 1, ks := 7, kp := 0, om := 2 } .i32 3 (.sync .stack)) ∧
  (∃ r, decodeSeq 0b00000000011001000010100001111111#32 0 = .error r) ∧
  (∃ r, decodeSeq 0b00101000011001000010100000000001#32 0 = .error r) ∧
  (∃ r, decodeSeq 0b00000000011001000010100010000001#32 0 = .error r)

/-- R216–R229: decoding the words of a well-formed instruction gives it back, every operand at every value: of the sequencer
profile, of one word or of the two of the SX form, and of the element profile. -/
def Obligations.EncodeDecode : Prop :=
  ∀ i : Instr, i.WellFormed → (encode i).length ≤ 2 ∧
    (∀ w, encode i = [w] → (isSx w = false ∧ decodeSeq w 0 = .ok i ∧ decodeBytes (bytesOfWord w) = .ok (i, [])) ∨
      decodeElem w = .ok i) ∧
    (∀ w v, encode i = [w, v] → isSx w = true ∧ decodeSeq w v = .ok i ∧
      decodeBytes (bytesOfWord w ++ bytesOfWord v) = .ok (i, []))

/-- Every step keeps the canonical form of memory: HBM4, host memory and each core's typed buffers. -/
def Obligations.StepKeepsMemoryCanonical : Prop :=
  ∀ s t : State, Canonical s = true → Machine.step s = .next t → Canonical t = true

/-- R1, R3, R39, R394, R407, R413, R440, R441: what reset leaves: memory lists nothing and is canonical, every context is free
and every core at its reset values, the ROM is fetching an image and no service core runs yet, no job is clamped, tick
length is 4 µs. -/
def Obligations.ResetState : Prop :=
  let s := State.reset
  Canonical s = true ∧ s.hbm = [] ∧ s.hostMem = [] ∧ s.cycle = 0 ∧ (∀ c k, (ctxOf s c k).r.state = .free) ∧
  (∀ c k, let x := ctxOf s c k
    x.r.head = 0 ∧ x.r.tail = 0 ∧ x.r.xlroot.getLsbD 0 = false ∧ x.r.fqctl.getLsbD 0 = false ∧ x.insts = [] ∧ x.places = []) ∧
  (∀ a, let j := jobOf s a
    j.clamped = false ∧ j.late = false ∧ j.stepping = false ∧ j.secs = [] ∧ j.origin = none ∧ j.lag = 1 ∧ j.level = 0) ∧
  s.time.per = 4 ∧ s.time.lock = false ∧ s.boot.bootstat = 0 ∧ s.boot.phase = 0 ∧ (∀ n, (svcOf s n).running = false) ∧
  (∀ q, (queueOf s q).packets = []) ∧ (∀ c e, (elemOf s c e).ready = [] ∧ (elemOf s c e).issuing = none)
end

