-- ==== Sys2Proof/Laws/Memory.lean ====
section
/-! SUPPORT. The laws of sparse tables and of memory: reading after a write, and the canonical form. -/
namespace Sys2Proof.Machine

variable {α : Type}

/-! ### Tables -/

@[simp] theorem look_put_same (m : NMap α) (k : Nat) (v : α) : look (put m k v) k = some v := by
  induction m with
  | nil => simp [put, look]
  | cons p r ih =>
    obtain ⟨j, w⟩ := p
    unfold put
    split
    · simp [look]
    · split
      · simp [look]
      · rename_i _ h
        simp [look, ih, Ne.symm h]

theorem look_put_other (m : NMap α) {k i : Nat} (v : α) (h : i ≠ k) : look (put m k v) i = look m i := by
  induction m with
  | nil => simp [put, look, Ne.symm h]
  | cons p r ih =>
    obtain ⟨j, w⟩ := p
    unfold put
    split
    · simp [look, Ne.symm h]
    · split
      · rename_i _ hj
        simp [look, Ne.symm h, ← hj]
      · simp [look, ih]

@[simp] theorem lookD_put_same (m : NMap α) (k : Nat) (v d : α) : lookD (put m k v) k d = v := by simp [lookD]

theorem lookD_put_other (m : NMap α) {k i : Nat} (v d : α) (h : i ≠ k) : lookD (put m k v) i d = lookD m i d := by
  simp [lookD, look_put_other m v h]

theorem lookD_put (m : NMap α) (k i : Nat) (v d : α) :
    lookD (put m k v) i d = if i = k then v else lookD m i d := by
  split
  · next h => subst h; simp
  · next h => exact lookD_put_other m v d h

/-- The later of two updates of one key stands. -/
@[simp] theorem put_put_same (m : NMap α) (k : Nat) (v w : α) : put (put m k v) k w = put m k w := by
  induction m with
  | nil => simp [put]
  | cons p r ih =>
    obtain ⟨j, u⟩ := p
    by_cases h1 : k < j
    · simp [put, h1]
    · by_cases h2 : k = j
      · simp [put, h2]
      · simp [put, h1, h2, ih]

theorem look_del_same_sorted (m : Mem) (k lo : Nat) (h : Memory.sortedFrom lo m = true) : look (del m k) k = none := by
  induction m generalizing lo with
  | nil => simp [del, look]
  | cons p r ih =>
    obtain ⟨j, w⟩ := p
    simp only [Memory.sortedFrom, Bool.and_eq_true, decide_eq_true_eq] at h
    unfold del
    split
    · next hj =>
      subst hj
      clear ih
      have : ∀ (n : Nat), j < n → Memory.sortedFrom n r = true → look r j = none := by
        intro n hn hs
        induction r generalizing n with
        | nil => simp [look]
        | cons q r ih =>
          obtain ⟨i, u⟩ := q
          simp only [Memory.sortedFrom, Bool.and_eq_true, decide_eq_true_eq] at hs
          have hi : i ≠ j := by omega
          have h2 : Memory.sortedFrom (j + 1) r = true := by
            clear ih h
            have mono : ∀ (l : Mem) (a b : Nat), b ≤ a → Memory.sortedFrom a l = true → Memory.sortedFrom b l = true := by
              intro l a b hab hl
              cases l with
              | nil => rfl
              | cons x l =>
                obtain ⟨y, z⟩ := x
                simp only [Memory.sortedFrom, Bool.and_eq_true, decide_eq_true_eq] at hl ⊢
                exact ⟨by omega, hl.2⟩
            exact mono r (i + 1) (j + 1) (by omega) hs.2
          simp only [look, hi, if_false]
          exact ih ⟨h.1, h2⟩ (i + 1) (by omega) hs.2
      exact this (j + 1) (by omega) h.2
    · next hj => simp only [look, hj, if_false]; exact ih (j + 1) h.2

theorem look_del_other (m : NMap α) {k i : Nat} (h : i ≠ k) : look (del m k) i = look m i := by
  induction m with
  | nil => simp [del]
  | cons p r ih =>
    obtain ⟨j, w⟩ := p
    unfold del
    split
    · next hj => simp [look, hj, Ne.symm h]
    · simp [look, ih]

/-! ### The canonical form of memory -/

theorem sortedFrom_mono (m : Mem) {a b : Nat} (h : b ≤ a) (hs : Memory.sortedFrom a m = true) :
    Memory.sortedFrom b m = true := by
  cases m with
  | nil => rfl
  | cons x l =>
    obtain ⟨y, z⟩ := x
    simp only [Memory.sortedFrom, Bool.and_eq_true, decide_eq_true_eq] at hs ⊢
    exact ⟨by omega, hs.2⟩

theorem sortedFrom_put (m : Mem) (lo a : Nat) (b : Byte) (ha : lo ≤ a) (h : Memory.sortedFrom lo m = true) :
    Memory.sortedFrom lo (put m a b) = true := by
  induction m generalizing lo with
  | nil => simp [put, Memory.sortedFrom, ha]
  | cons p r ih =>
    obtain ⟨j, w⟩ := p
    simp only [Memory.sortedFrom, Bool.and_eq_true, decide_eq_true_eq] at h
    unfold put
    split
    · simp only [Memory.sortedFrom, Bool.and_eq_true, decide_eq_true_eq]; exact ⟨ha, by omega, h.2⟩
    · split
      · next hk => subst hk; simp only [Memory.sortedFrom, Bool.and_eq_true, decide_eq_true_eq]; exact h
      · simp only [Memory.sortedFrom, Bool.and_eq_true, decide_eq_true_eq]
        exact ⟨h.1, ih (j + 1) (by omega) h.2⟩

theorem sortedFrom_del (m : Mem) (lo a : Nat) (h : Memory.sortedFrom lo m = true) :
    Memory.sortedFrom lo (del m a) = true := by
  induction m generalizing lo with
  | nil => exact h
  | cons p r ih =>
    obtain ⟨j, w⟩ := p
    simp only [Memory.sortedFrom, Bool.and_eq_true, decide_eq_true_eq] at h
    unfold del
    split
    · exact sortedFrom_mono r (by omega) h.2
    · simp only [Memory.sortedFrom, Bool.and_eq_true, decide_eq_true_eq]; exact ⟨h.1, ih (j + 1) h.2⟩

theorem all_put (m : Mem) (a : Nat) (b : Byte) (hb : b ≠ unwritten) (h : (m.all fun c => c.2 != unwritten) = true) :
    ((put m a b).all fun c => c.2 != unwritten) = true := by
  induction m with
  | nil => simp [put, hb]
  | cons p r ih =>
    obtain ⟨j, w⟩ := p
    simp only [List.all_cons, Bool.and_eq_true] at h
    unfold put
    split
    · simp only [List.all_cons, Bool.and_eq_true]; exact ⟨by simpa using hb, h⟩
    · split
      · simp only [List.all_cons, Bool.and_eq_true]; exact ⟨by simpa using hb, h.2⟩
      · simp only [List.all_cons, Bool.and_eq_true]; exact ⟨h.1, ih h.2⟩

theorem all_del (m : Mem) (a : Nat) (h : (m.all fun c => c.2 != unwritten) = true) :
    ((del m a).all fun c => c.2 != unwritten) = true := by
  induction m with
  | nil => exact h
  | cons p r ih =>
    obtain ⟨j, w⟩ := p
    simp only [List.all_cons, Bool.and_eq_true] at h
    unfold del
    split
    · exact h.2
    · simp only [List.all_cons, Bool.and_eq_true]; exact ⟨h.1, ih h.2⟩

/-- Writing a byte keeps the canonical form. -/
theorem wf_writeByte (m : Mem) (a : Nat) (b : Byte) (h : Memory.wf m = true) : Memory.wf (writeByte m a b) = true := by
  simp only [Memory.wf, Bool.and_eq_true] at h ⊢
  unfold writeByte
  split
  · exact ⟨sortedFrom_del m 0 a h.1, all_del m a h.2⟩
  · next hb => exact ⟨sortedFrom_put m 0 a b (by omega) h.1, all_put m a b hb h.2⟩

/-- Writing bytes keeps the canonical form. -/
theorem wf_writeBytes (m : Mem) (a : Nat) (l : List Byte) (h : Memory.wf m = true) :
    Memory.wf (writeBytes m a l) = true := by
  induction l generalizing m a with
  | nil => exact h
  | cons b r ih => exact ih (writeByte m a b) (a + 1) (wf_writeByte m a b h)

theorem wf_nil : Memory.wf [] = true := by decide

/-! ### Reading after a write -/

theorem readByte_writeByte_same (m : Mem) (a : Nat) (b : Byte) (h : Memory.wf m = true) :
    readByte (writeByte m a b) a = b := by
  simp only [Memory.wf, Bool.and_eq_true] at h
  unfold readByte writeByte
  split
  · next hb => simp [lookD, look_del_same_sorted m a 0 h.1, hb]
  · simp

theorem readByte_writeByte_other (m : Mem) {a i : Nat} (b : Byte) (h : i ≠ a) :
    readByte (writeByte m a b) i = readByte m i := by
  unfold readByte writeByte
  split
  · simp [lookD, look_del_other m h]
  · exact lookD_put_other m b _ h

/-- Bytes outside the written ones read as before. -/
theorem readByte_writeBytes_outside (m : Mem) (a i : Nat) (l : List Byte) (h : i < a ∨ a + l.length ≤ i) :
    readByte (writeBytes m a l) i = readByte m i := by
  induction l generalizing m a with
  | nil => rfl
  | cons b r ih =>
    simp only [List.length_cons] at h
    simp only [writeBytes]
    rw [ih (writeByte m a b) (a + 1) (by omega), readByte_writeByte_other m b (by omega)]

/-- The written bytes read as written. -/
theorem readByte_writeBytes_inside (m : Mem) (a i : Nat) (l : List Byte) (hm : Memory.wf m = true) (hi : i < l.length) :
    readByte (writeBytes m a l) (a + i) = l[i] := by
  induction l generalizing m a i with
  | nil => simp at hi
  | cons b r ih =>
    simp only [writeBytes]
    cases i with
    | zero =>
      rw [Nat.add_zero, readByte_writeBytes_outside _ _ _ _ (by omega)]
      simpa using readByte_writeByte_same m a b hm
    | succ n =>
      have := ih (writeByte m a b) (a + 1) n (wf_writeByte m a b hm) (by simpa using hi)
      rw [show a + (n + 1) = a + 1 + n by omega, this]
      simp

theorem length_readBytes (m : Mem) (a n : Nat) : (readBytes m a n).length = n := by
  induction n generalizing a with
  | zero => rfl
  | succ n ih => simp [readBytes, ih]

theorem length_natLE (n v : Nat) : (natLE n v).length = n := by
  induction n generalizing v with
  | zero => rfl
  | succ n ih => simp [natLE, ih]

/-- Bytes that agree are read alike. -/
theorem readBytes_congr (m m' : Mem) (a n : Nat) (h : ∀ i, a ≤ i → i < a + n → readByte m i = readByte m' i) :
    readBytes m a n = readBytes m' a n := by
  induction n generalizing a with
  | zero => rfl
  | succ n ih =>
    simp only [readBytes]
    rw [h a (by omega) (by omega), ih (a + 1) fun i h1 h2 => h i (by omega) (by omega)]

/-- Reading written bytes back gives them. -/
theorem readBytes_writeBytes (m : Mem) (a : Nat) (l : List Byte) (hm : Memory.wf m = true) :
    readBytes (writeBytes m a l) a l.length = l := by
  induction l generalizing m a with
  | nil => rfl
  | cons b r ih =>
    simp only [writeBytes, List.length_cons, readBytes]
    rw [ih (writeByte m a b) (a + 1) (wf_writeByte m a b hm), readByte_writeBytes_outside _ _ _ _ (by omega),
      readByte_writeByte_same m a b hm]

/-- Little-endian bytes hold the number modulo their range (R215). -/
theorem leNat_natLE (n v : Nat) : leNat (natLE n v) = v % 256 ^ n := by
  induction n generalizing v with
  | zero => simp [natLE, leNat, Nat.mod_one]
  | succ n ih =>
    have e : (256 : Nat) ^ (n + 1) = 256 * 256 ^ n := by rw [Nat.pow_succ, Nat.mul_comm]
    rw [e, Nat.mod_mul, natLE, leNat, ih, BitVec.toNat_ofNat]

end Sys2Proof.Machine
end

