-- ==== Sys2Proof/Laws/State.lean ====
section
/-! SUPPORT. One lemma for each field of State and each update of a part of the machine: what the update leaves. -/
namespace Sys2Proof.Machine

variable (s : State)

/-! ### setCore -/

@[simp] theorem setCore_cur (c : Nat) (x : Core) : (setCore s c x).cur = s.cur := rfl
@[simp] theorem setCore_actor (c : Nat) (x : Core) : (setCore s c x).actor = s.actor := rfl
@[simp] theorem setCore_agenda (c : Nat) (x : Core) : (setCore s c x).agenda = s.agenda := rfl
@[simp] theorem setCore_deferred (c : Nat) (x : Core) : (setCore s c x).deferred = s.deferred := rfl
@[simp] theorem setCore_stale (c : Nat) (x : Core) : (setCore s c x).stale = s.stale := rfl
@[simp] theorem setCore_free (c : Nat) (x : Core) : (setCore s c x).free = s.free := rfl
@[simp] theorem setCore_reply (c : Nat) (x : Core) : (setCore s c x).reply = s.reply := rfl
@[simp] theorem setCore_events (c : Nat) (x : Core) : (setCore s c x).events = s.events := rfl
@[simp] theorem setCore_cycle (c : Nat) (x : Core) : (setCore s c x).cycle = s.cycle := rfl
@[simp] theorem setCore_svcs (c : Nat) (x : Core) : (setCore s c x).svcs = s.svcs := rfl
@[simp] theorem setCore_hbm (c : Nat) (x : Core) : (setCore s c x).hbm = s.hbm := rfl
@[simp] theorem setCore_hostMem (c : Nat) (x : Core) : (setCore s c x).hostMem = s.hostMem := rfl
@[simp] theorem setCore_poison (c : Nat) (x : Core) : (setCore s c x).poison = s.poison := rfl
@[simp] theorem setCore_partials (c : Nat) (x : Core) : (setCore s c x).partials = s.partials := rfl
@[simp] theorem setCore_lines (c : Nat) (x : Core) : (setCore s c x).lines = s.lines := rfl
@[simp] theorem setCore_scAt (c : Nat) (x : Core) : (setCore s c x).scAt = s.scAt := rfl
@[simp] theorem setCore_plru (c : Nat) (x : Core) : (setCore s c x).plru = s.plru := rfl
@[simp] theorem setCore_combine (c : Nat) (x : Core) : (setCore s c x).combine = s.combine := rfl
@[simp] theorem setCore_reqs (c : Nat) (x : Core) : (setCore s c x).reqs = s.reqs := rfl
@[simp] theorem setCore_nextId (c : Nat) (x : Core) : (setCore s c x).nextId = s.nextId := rfl
@[simp] theorem setCore_btlb (c : Nat) (x : Core) : (setCore s c x).btlb = s.btlb := rfl
@[simp] theorem setCore_walks (c : Nat) (x : Core) : (setCore s c x).walks = s.walks := rfl
@[simp] theorem setCore_hostReads (c : Nat) (x : Core) : (setCore s c x).hostReads = s.hostReads := rfl
@[simp] theorem setCore_hostQ (c : Nat) (x : Core) : (setCore s c x).hostQ = s.hostQ := rfl
@[simp] theorem setCore_packets (c : Nat) (x : Core) : (setCore s c x).packets = s.packets := rfl
@[simp] theorem setCore_flows (c : Nat) (x : Core) : (setCore s c x).flows = s.flows := rfl
@[simp] theorem setCore_slotsResv (c : Nat) (x : Core) : (setCore s c x).slotsResv = s.slotsResv := rfl
@[simp] theorem setCore_bufreqs (c : Nat) (x : Core) : (setCore s c x).bufreqs = s.bufreqs := rfl
@[simp] theorem setCore_hbmStacks (c : Nat) (x : Core) : (setCore s c x).hbmStacks = s.hbmStacks := rfl
@[simp] theorem setCore_vlogs (c : Nat) (x : Core) : (setCore s c x).vlogs = s.vlogs := rfl
@[simp] theorem setCore_queues (c : Nat) (x : Core) : (setCore s c x).queues = s.queues := rfl
@[simp] theorem setCore_tasks (c : Nat) (x : Core) : (setCore s c x).tasks = s.tasks := rfl
@[simp] theorem setCore_nextTask (c : Nat) (x : Core) : (setCore s c x).nextTask = s.nextTask := rfl
@[simp] theorem setCore_lastStart (c : Nat) (x : Core) : (setCore s c x).lastStart = s.lastStart := rfl
@[simp] theorem setCore_served (c : Nat) (x : Core) : (setCore s c x).served = s.served := rfl
@[simp] theorem setCore_jobs (c : Nat) (x : Core) : (setCore s c x).jobs = s.jobs := rfl
@[simp] theorem setCore_rings (c : Nat) (x : Core) : (setCore s c x).rings = s.rings := rfl
@[simp] theorem setCore_vfwin (c : Nat) (x : Core) : (setCore s c x).vfwin = s.vfwin := rfl
@[simp] theorem setCore_msix (c : Nat) (x : Core) : (setCore s c x).msix = s.msix := rfl
@[simp] theorem setCore_exid (c : Nat) (x : Core) : (setCore s c x).exid = s.exid := rfl
@[simp] theorem setCore_xports (c : Nat) (x : Core) : (setCore s c x).xports = s.xports := rfl
@[simp] theorem setCore_messages (c : Nat) (x : Core) : (setCore s c x).messages = s.messages := rfl
@[simp] theorem setCore_redSlots (c : Nat) (x : Core) : (setCore s c x).redSlots = s.redSlots := rfl
@[simp] theorem setCore_redWait (c : Nat) (x : Core) : (setCore s c x).redWait = s.redWait := rfl
@[simp] theorem setCore_redIn (c : Nat) (x : Core) : (setCore s c x).redIn = s.redIn := rfl
@[simp] theorem setCore_resIn (c : Nat) (x : Core) : (setCore s c x).resIn = s.resIn := rfl
@[simp] theorem setCore_sends (c : Nat) (x : Core) : (setCore s c x).sends = s.sends := rfl
@[simp] theorem setCore_frames (c : Nat) (x : Core) : (setCore s c x).frames = s.frames := rfl
@[simp] theorem setCore_tickOut (c : Nat) (x : Core) : (setCore s c x).tickOut = s.tickOut := rfl
@[simp] theorem setCore_time (c : Nat) (x : Core) : (setCore s c x).time = s.time := rfl
@[simp] theorem setCore_boot (c : Nat) (x : Core) : (setCore s c x).boot = s.boot := rfl
@[simp] theorem setCore_pwrlim (c : Nat) (x : Core) : (setCore s c x).pwrlim = s.pwrlim := rfl
@[simp] theorem setCore_limited (c : Nat) (x : Core) : (setCore s c x).limited = s.limited := rfl

/-! ### modCore -/

@[simp] theorem modCore_cur (c : Nat) (f : Core → Core) : (modCore s c f).cur = s.cur := rfl
@[simp] theorem modCore_actor (c : Nat) (f : Core → Core) : (modCore s c f).actor = s.actor := rfl
@[simp] theorem modCore_agenda (c : Nat) (f : Core → Core) : (modCore s c f).agenda = s.agenda := rfl
@[simp] theorem modCore_deferred (c : Nat) (f : Core → Core) : (modCore s c f).deferred = s.deferred := rfl
@[simp] theorem modCore_stale (c : Nat) (f : Core → Core) : (modCore s c f).stale = s.stale := rfl
@[simp] theorem modCore_free (c : Nat) (f : Core → Core) : (modCore s c f).free = s.free := rfl
@[simp] theorem modCore_reply (c : Nat) (f : Core → Core) : (modCore s c f).reply = s.reply := rfl
@[simp] theorem modCore_events (c : Nat) (f : Core → Core) : (modCore s c f).events = s.events := rfl
@[simp] theorem modCore_cycle (c : Nat) (f : Core → Core) : (modCore s c f).cycle = s.cycle := rfl
@[simp] theorem modCore_svcs (c : Nat) (f : Core → Core) : (modCore s c f).svcs = s.svcs := rfl
@[simp] theorem modCore_hbm (c : Nat) (f : Core → Core) : (modCore s c f).hbm = s.hbm := rfl
@[simp] theorem modCore_hostMem (c : Nat) (f : Core → Core) : (modCore s c f).hostMem = s.hostMem := rfl
@[simp] theorem modCore_poison (c : Nat) (f : Core → Core) : (modCore s c f).poison = s.poison := rfl
@[simp] theorem modCore_partials (c : Nat) (f : Core → Core) : (modCore s c f).partials = s.partials := rfl
@[simp] theorem modCore_lines (c : Nat) (f : Core → Core) : (modCore s c f).lines = s.lines := rfl
@[simp] theorem modCore_scAt (c : Nat) (f : Core → Core) : (modCore s c f).scAt = s.scAt := rfl
@[simp] theorem modCore_plru (c : Nat) (f : Core → Core) : (modCore s c f).plru = s.plru := rfl
@[simp] theorem modCore_combine (c : Nat) (f : Core → Core) : (modCore s c f).combine = s.combine := rfl
@[simp] theorem modCore_reqs (c : Nat) (f : Core → Core) : (modCore s c f).reqs = s.reqs := rfl
@[simp] theorem modCore_nextId (c : Nat) (f : Core → Core) : (modCore s c f).nextId = s.nextId := rfl
@[simp] theorem modCore_btlb (c : Nat) (f : Core → Core) : (modCore s c f).btlb = s.btlb := rfl
@[simp] theorem modCore_walks (c : Nat) (f : Core → Core) : (modCore s c f).walks = s.walks := rfl
@[simp] theorem modCore_hostReads (c : Nat) (f : Core → Core) : (modCore s c f).hostReads = s.hostReads := rfl
@[simp] theorem modCore_hostQ (c : Nat) (f : Core → Core) : (modCore s c f).hostQ = s.hostQ := rfl
@[simp] theorem modCore_packets (c : Nat) (f : Core → Core) : (modCore s c f).packets = s.packets := rfl
@[simp] theorem modCore_flows (c : Nat) (f : Core → Core) : (modCore s c f).flows = s.flows := rfl
@[simp] theorem modCore_slotsResv (c : Nat) (f : Core → Core) : (modCore s c f).slotsResv = s.slotsResv := rfl
@[simp] theorem modCore_bufreqs (c : Nat) (f : Core → Core) : (modCore s c f).bufreqs = s.bufreqs := rfl
@[simp] theorem modCore_hbmStacks (c : Nat) (f : Core → Core) : (modCore s c f).hbmStacks = s.hbmStacks := rfl
@[simp] theorem modCore_vlogs (c : Nat) (f : Core → Core) : (modCore s c f).vlogs = s.vlogs := rfl
@[simp] theorem modCore_queues (c : Nat) (f : Core → Core) : (modCore s c f).queues = s.queues := rfl
@[simp] theorem modCore_tasks (c : Nat) (f : Core → Core) : (modCore s c f).tasks = s.tasks := rfl
@[simp] theorem modCore_nextTask (c : Nat) (f : Core → Core) : (modCore s c f).nextTask = s.nextTask := rfl
@[simp] theorem modCore_lastStart (c : Nat) (f : Core → Core) : (modCore s c f).lastStart = s.lastStart := rfl
@[simp] theorem modCore_served (c : Nat) (f : Core → Core) : (modCore s c f).served = s.served := rfl
@[simp] theorem modCore_jobs (c : Nat) (f : Core → Core) : (modCore s c f).jobs = s.jobs := rfl
@[simp] theorem modCore_rings (c : Nat) (f : Core → Core) : (modCore s c f).rings = s.rings := rfl
@[simp] theorem modCore_vfwin (c : Nat) (f : Core → Core) : (modCore s c f).vfwin = s.vfwin := rfl
@[simp] theorem modCore_msix (c : Nat) (f : Core → Core) : (modCore s c f).msix = s.msix := rfl
@[simp] theorem modCore_exid (c : Nat) (f : Core → Core) : (modCore s c f).exid = s.exid := rfl
@[simp] theorem modCore_xports (c : Nat) (f : Core → Core) : (modCore s c f).xports = s.xports := rfl
@[simp] theorem modCore_messages (c : Nat) (f : Core → Core) : (modCore s c f).messages = s.messages := rfl
@[simp] theorem modCore_redSlots (c : Nat) (f : Core → Core) : (modCore s c f).redSlots = s.redSlots := rfl
@[simp] theorem modCore_redWait (c : Nat) (f : Core → Core) : (modCore s c f).redWait = s.redWait := rfl
@[simp] theorem modCore_redIn (c : Nat) (f : Core → Core) : (modCore s c f).redIn = s.redIn := rfl
@[simp] theorem modCore_resIn (c : Nat) (f : Core → Core) : (modCore s c f).resIn = s.resIn := rfl
@[simp] theorem modCore_sends (c : Nat) (f : Core → Core) : (modCore s c f).sends = s.sends := rfl
@[simp] theorem modCore_frames (c : Nat) (f : Core → Core) : (modCore s c f).frames = s.frames := rfl
@[simp] theorem modCore_tickOut (c : Nat) (f : Core → Core) : (modCore s c f).tickOut = s.tickOut := rfl
@[simp] theorem modCore_time (c : Nat) (f : Core → Core) : (modCore s c f).time = s.time := rfl
@[simp] theorem modCore_boot (c : Nat) (f : Core → Core) : (modCore s c f).boot = s.boot := rfl
@[simp] theorem modCore_pwrlim (c : Nat) (f : Core → Core) : (modCore s c f).pwrlim = s.pwrlim := rfl
@[simp] theorem modCore_limited (c : Nat) (f : Core → Core) : (modCore s c f).limited = s.limited := rfl

/-! ### setCtx -/

@[simp] theorem setCtx_cur (c k : Nat) (x : Ctx) : (setCtx s c k x).cur = s.cur := rfl
@[simp] theorem setCtx_actor (c k : Nat) (x : Ctx) : (setCtx s c k x).actor = s.actor := rfl
@[simp] theorem setCtx_agenda (c k : Nat) (x : Ctx) : (setCtx s c k x).agenda = s.agenda := rfl
@[simp] theorem setCtx_deferred (c k : Nat) (x : Ctx) : (setCtx s c k x).deferred = s.deferred := rfl
@[simp] theorem setCtx_stale (c k : Nat) (x : Ctx) : (setCtx s c k x).stale = s.stale := rfl
@[simp] theorem setCtx_free (c k : Nat) (x : Ctx) : (setCtx s c k x).free = s.free := rfl
@[simp] theorem setCtx_reply (c k : Nat) (x : Ctx) : (setCtx s c k x).reply = s.reply := rfl
@[simp] theorem setCtx_events (c k : Nat) (x : Ctx) : (setCtx s c k x).events = s.events := rfl
@[simp] theorem setCtx_cycle (c k : Nat) (x : Ctx) : (setCtx s c k x).cycle = s.cycle := rfl
@[simp] theorem setCtx_svcs (c k : Nat) (x : Ctx) : (setCtx s c k x).svcs = s.svcs := rfl
@[simp] theorem setCtx_hbm (c k : Nat) (x : Ctx) : (setCtx s c k x).hbm = s.hbm := rfl
@[simp] theorem setCtx_hostMem (c k : Nat) (x : Ctx) : (setCtx s c k x).hostMem = s.hostMem := rfl
@[simp] theorem setCtx_poison (c k : Nat) (x : Ctx) : (setCtx s c k x).poison = s.poison := rfl
@[simp] theorem setCtx_partials (c k : Nat) (x : Ctx) : (setCtx s c k x).partials = s.partials := rfl
@[simp] theorem setCtx_lines (c k : Nat) (x : Ctx) : (setCtx s c k x).lines = s.lines := rfl
@[simp] theorem setCtx_scAt (c k : Nat) (x : Ctx) : (setCtx s c k x).scAt = s.scAt := rfl
@[simp] theorem setCtx_plru (c k : Nat) (x : Ctx) : (setCtx s c k x).plru = s.plru := rfl
@[simp] theorem setCtx_combine (c k : Nat) (x : Ctx) : (setCtx s c k x).combine = s.combine := rfl
@[simp] theorem setCtx_reqs (c k : Nat) (x : Ctx) : (setCtx s c k x).reqs = s.reqs := rfl
@[simp] theorem setCtx_nextId (c k : Nat) (x : Ctx) : (setCtx s c k x).nextId = s.nextId := rfl
@[simp] theorem setCtx_btlb (c k : Nat) (x : Ctx) : (setCtx s c k x).btlb = s.btlb := rfl
@[simp] theorem setCtx_walks (c k : Nat) (x : Ctx) : (setCtx s c k x).walks = s.walks := rfl
@[simp] theorem setCtx_hostReads (c k : Nat) (x : Ctx) : (setCtx s c k x).hostReads = s.hostReads := rfl
@[simp] theorem setCtx_hostQ (c k : Nat) (x : Ctx) : (setCtx s c k x).hostQ = s.hostQ := rfl
@[simp] theorem setCtx_packets (c k : Nat) (x : Ctx) : (setCtx s c k x).packets = s.packets := rfl
@[simp] theorem setCtx_flows (c k : Nat) (x : Ctx) : (setCtx s c k x).flows = s.flows := rfl
@[simp] theorem setCtx_slotsResv (c k : Nat) (x : Ctx) : (setCtx s c k x).slotsResv = s.slotsResv := rfl
@[simp] theorem setCtx_bufreqs (c k : Nat) (x : Ctx) : (setCtx s c k x).bufreqs = s.bufreqs := rfl
@[simp] theorem setCtx_hbmStacks (c k : Nat) (x : Ctx) : (setCtx s c k x).hbmStacks = s.hbmStacks := rfl
@[simp] theorem setCtx_vlogs (c k : Nat) (x : Ctx) : (setCtx s c k x).vlogs = s.vlogs := rfl
@[simp] theorem setCtx_queues (c k : Nat) (x : Ctx) : (setCtx s c k x).queues = s.queues := rfl
@[simp] theorem setCtx_tasks (c k : Nat) (x : Ctx) : (setCtx s c k x).tasks = s.tasks := rfl
@[simp] theorem setCtx_nextTask (c k : Nat) (x : Ctx) : (setCtx s c k x).nextTask = s.nextTask := rfl
@[simp] theorem setCtx_lastStart (c k : Nat) (x : Ctx) : (setCtx s c k x).lastStart = s.lastStart := rfl
@[simp] theorem setCtx_served (c k : Nat) (x : Ctx) : (setCtx s c k x).served = s.served := rfl
@[simp] theorem setCtx_jobs (c k : Nat) (x : Ctx) : (setCtx s c k x).jobs = s.jobs := rfl
@[simp] theorem setCtx_rings (c k : Nat) (x : Ctx) : (setCtx s c k x).rings = s.rings := rfl
@[simp] theorem setCtx_vfwin (c k : Nat) (x : Ctx) : (setCtx s c k x).vfwin = s.vfwin := rfl
@[simp] theorem setCtx_msix (c k : Nat) (x : Ctx) : (setCtx s c k x).msix = s.msix := rfl
@[simp] theorem setCtx_exid (c k : Nat) (x : Ctx) : (setCtx s c k x).exid = s.exid := rfl
@[simp] theorem setCtx_xports (c k : Nat) (x : Ctx) : (setCtx s c k x).xports = s.xports := rfl
@[simp] theorem setCtx_messages (c k : Nat) (x : Ctx) : (setCtx s c k x).messages = s.messages := rfl
@[simp] theorem setCtx_redSlots (c k : Nat) (x : Ctx) : (setCtx s c k x).redSlots = s.redSlots := rfl
@[simp] theorem setCtx_redWait (c k : Nat) (x : Ctx) : (setCtx s c k x).redWait = s.redWait := rfl
@[simp] theorem setCtx_redIn (c k : Nat) (x : Ctx) : (setCtx s c k x).redIn = s.redIn := rfl
@[simp] theorem setCtx_resIn (c k : Nat) (x : Ctx) : (setCtx s c k x).resIn = s.resIn := rfl
@[simp] theorem setCtx_sends (c k : Nat) (x : Ctx) : (setCtx s c k x).sends = s.sends := rfl
@[simp] theorem setCtx_frames (c k : Nat) (x : Ctx) : (setCtx s c k x).frames = s.frames := rfl
@[simp] theorem setCtx_tickOut (c k : Nat) (x : Ctx) : (setCtx s c k x).tickOut = s.tickOut := rfl
@[simp] theorem setCtx_time (c k : Nat) (x : Ctx) : (setCtx s c k x).time = s.time := rfl
@[simp] theorem setCtx_boot (c k : Nat) (x : Ctx) : (setCtx s c k x).boot = s.boot := rfl
@[simp] theorem setCtx_pwrlim (c k : Nat) (x : Ctx) : (setCtx s c k x).pwrlim = s.pwrlim := rfl
@[simp] theorem setCtx_limited (c k : Nat) (x : Ctx) : (setCtx s c k x).limited = s.limited := rfl

/-! ### modCtx -/

@[simp] theorem modCtx_cur (c k : Nat) (f : Ctx → Ctx) : (modCtx s c k f).cur = s.cur := rfl
@[simp] theorem modCtx_actor (c k : Nat) (f : Ctx → Ctx) : (modCtx s c k f).actor = s.actor := rfl
@[simp] theorem modCtx_agenda (c k : Nat) (f : Ctx → Ctx) : (modCtx s c k f).agenda = s.agenda := rfl
@[simp] theorem modCtx_deferred (c k : Nat) (f : Ctx → Ctx) : (modCtx s c k f).deferred = s.deferred := rfl
@[simp] theorem modCtx_stale (c k : Nat) (f : Ctx → Ctx) : (modCtx s c k f).stale = s.stale := rfl
@[simp] theorem modCtx_free (c k : Nat) (f : Ctx → Ctx) : (modCtx s c k f).free = s.free := rfl
@[simp] theorem modCtx_reply (c k : Nat) (f : Ctx → Ctx) : (modCtx s c k f).reply = s.reply := rfl
@[simp] theorem modCtx_events (c k : Nat) (f : Ctx → Ctx) : (modCtx s c k f).events = s.events := rfl
@[simp] theorem modCtx_cycle (c k : Nat) (f : Ctx → Ctx) : (modCtx s c k f).cycle = s.cycle := rfl
@[simp] theorem modCtx_svcs (c k : Nat) (f : Ctx → Ctx) : (modCtx s c k f).svcs = s.svcs := rfl
@[simp] theorem modCtx_hbm (c k : Nat) (f : Ctx → Ctx) : (modCtx s c k f).hbm = s.hbm := rfl
@[simp] theorem modCtx_hostMem (c k : Nat) (f : Ctx → Ctx) : (modCtx s c k f).hostMem = s.hostMem := rfl
@[simp] theorem modCtx_poison (c k : Nat) (f : Ctx → Ctx) : (modCtx s c k f).poison = s.poison := rfl
@[simp] theorem modCtx_partials (c k : Nat) (f : Ctx → Ctx) : (modCtx s c k f).partials = s.partials := rfl
@[simp] theorem modCtx_lines (c k : Nat) (f : Ctx → Ctx) : (modCtx s c k f).lines = s.lines := rfl
@[simp] theorem modCtx_scAt (c k : Nat) (f : Ctx → Ctx) : (modCtx s c k f).scAt = s.scAt := rfl
@[simp] theorem modCtx_plru (c k : Nat) (f : Ctx → Ctx) : (modCtx s c k f).plru = s.plru := rfl
@[simp] theorem modCtx_combine (c k : Nat) (f : Ctx → Ctx) : (modCtx s c k f).combine = s.combine := rfl
@[simp] theorem modCtx_reqs (c k : Nat) (f : Ctx → Ctx) : (modCtx s c k f).reqs = s.reqs := rfl
@[simp] theorem modCtx_nextId (c k : Nat) (f : Ctx → Ctx) : (modCtx s c k f).nextId = s.nextId := rfl
@[simp] theorem modCtx_btlb (c k : Nat) (f : Ctx → Ctx) : (modCtx s c k f).btlb = s.btlb := rfl
@[simp] theorem modCtx_walks (c k : Nat) (f : Ctx → Ctx) : (modCtx s c k f).walks = s.walks := rfl
@[simp] theorem modCtx_hostReads (c k : Nat) (f : Ctx → Ctx) : (modCtx s c k f).hostReads = s.hostReads := rfl
@[simp] theorem modCtx_hostQ (c k : Nat) (f : Ctx → Ctx) : (modCtx s c k f).hostQ = s.hostQ := rfl
@[simp] theorem modCtx_packets (c k : Nat) (f : Ctx → Ctx) : (modCtx s c k f).packets = s.packets := rfl
@[simp] theorem modCtx_flows (c k : Nat) (f : Ctx → Ctx) : (modCtx s c k f).flows = s.flows := rfl
@[simp] theorem modCtx_slotsResv (c k : Nat) (f : Ctx → Ctx) : (modCtx s c k f).slotsResv = s.slotsResv := rfl
@[simp] theorem modCtx_bufreqs (c k : Nat) (f : Ctx → Ctx) : (modCtx s c k f).bufreqs = s.bufreqs := rfl
@[simp] theorem modCtx_hbmStacks (c k : Nat) (f : Ctx → Ctx) : (modCtx s c k f).hbmStacks = s.hbmStacks := rfl
@[simp] theorem modCtx_vlogs (c k : Nat) (f : Ctx → Ctx) : (modCtx s c k f).vlogs = s.vlogs := rfl
@[simp] theorem modCtx_queues (c k : Nat) (f : Ctx → Ctx) : (modCtx s c k f).queues = s.queues := rfl
@[simp] theorem modCtx_tasks (c k : Nat) (f : Ctx → Ctx) : (modCtx s c k f).tasks = s.tasks := rfl
@[simp] theorem modCtx_nextTask (c k : Nat) (f : Ctx → Ctx) : (modCtx s c k f).nextTask = s.nextTask := rfl
@[simp] theorem modCtx_lastStart (c k : Nat) (f : Ctx → Ctx) : (modCtx s c k f).lastStart = s.lastStart := rfl
@[simp] theorem modCtx_served (c k : Nat) (f : Ctx → Ctx) : (modCtx s c k f).served = s.served := rfl
@[simp] theorem modCtx_jobs (c k : Nat) (f : Ctx → Ctx) : (modCtx s c k f).jobs = s.jobs := rfl
@[simp] theorem modCtx_rings (c k : Nat) (f : Ctx → Ctx) : (modCtx s c k f).rings = s.rings := rfl
@[simp] theorem modCtx_vfwin (c k : Nat) (f : Ctx → Ctx) : (modCtx s c k f).vfwin = s.vfwin := rfl
@[simp] theorem modCtx_msix (c k : Nat) (f : Ctx → Ctx) : (modCtx s c k f).msix = s.msix := rfl
@[simp] theorem modCtx_exid (c k : Nat) (f : Ctx → Ctx) : (modCtx s c k f).exid = s.exid := rfl
@[simp] theorem modCtx_xports (c k : Nat) (f : Ctx → Ctx) : (modCtx s c k f).xports = s.xports := rfl
@[simp] theorem modCtx_messages (c k : Nat) (f : Ctx → Ctx) : (modCtx s c k f).messages = s.messages := rfl
@[simp] theorem modCtx_redSlots (c k : Nat) (f : Ctx → Ctx) : (modCtx s c k f).redSlots = s.redSlots := rfl
@[simp] theorem modCtx_redWait (c k : Nat) (f : Ctx → Ctx) : (modCtx s c k f).redWait = s.redWait := rfl
@[simp] theorem modCtx_redIn (c k : Nat) (f : Ctx → Ctx) : (modCtx s c k f).redIn = s.redIn := rfl
@[simp] theorem modCtx_resIn (c k : Nat) (f : Ctx → Ctx) : (modCtx s c k f).resIn = s.resIn := rfl
@[simp] theorem modCtx_sends (c k : Nat) (f : Ctx → Ctx) : (modCtx s c k f).sends = s.sends := rfl
@[simp] theorem modCtx_frames (c k : Nat) (f : Ctx → Ctx) : (modCtx s c k f).frames = s.frames := rfl
@[simp] theorem modCtx_tickOut (c k : Nat) (f : Ctx → Ctx) : (modCtx s c k f).tickOut = s.tickOut := rfl
@[simp] theorem modCtx_time (c k : Nat) (f : Ctx → Ctx) : (modCtx s c k f).time = s.time := rfl
@[simp] theorem modCtx_boot (c k : Nat) (f : Ctx → Ctx) : (modCtx s c k f).boot = s.boot := rfl
@[simp] theorem modCtx_pwrlim (c k : Nat) (f : Ctx → Ctx) : (modCtx s c k f).pwrlim = s.pwrlim := rfl
@[simp] theorem modCtx_limited (c k : Nat) (f : Ctx → Ctx) : (modCtx s c k f).limited = s.limited := rfl

/-! ### modRegs -/

@[simp] theorem modRegs_cur (c k : Nat) (f : CtxRegs → CtxRegs) : (modRegs s c k f).cur = s.cur := rfl
@[simp] theorem modRegs_actor (c k : Nat) (f : CtxRegs → CtxRegs) : (modRegs s c k f).actor = s.actor := rfl
@[simp] theorem modRegs_agenda (c k : Nat) (f : CtxRegs → CtxRegs) : (modRegs s c k f).agenda = s.agenda := rfl
@[simp] theorem modRegs_deferred (c k : Nat) (f : CtxRegs → CtxRegs) : (modRegs s c k f).deferred = s.deferred := rfl
@[simp] theorem modRegs_stale (c k : Nat) (f : CtxRegs → CtxRegs) : (modRegs s c k f).stale = s.stale := rfl
@[simp] theorem modRegs_free (c k : Nat) (f : CtxRegs → CtxRegs) : (modRegs s c k f).free = s.free := rfl
@[simp] theorem modRegs_reply (c k : Nat) (f : CtxRegs → CtxRegs) : (modRegs s c k f).reply = s.reply := rfl
@[simp] theorem modRegs_events (c k : Nat) (f : CtxRegs → CtxRegs) : (modRegs s c k f).events = s.events := rfl
@[simp] theorem modRegs_cycle (c k : Nat) (f : CtxRegs → CtxRegs) : (modRegs s c k f).cycle = s.cycle := rfl
@[simp] theorem modRegs_svcs (c k : Nat) (f : CtxRegs → CtxRegs) : (modRegs s c k f).svcs = s.svcs := rfl
@[simp] theorem modRegs_hbm (c k : Nat) (f : CtxRegs → CtxRegs) : (modRegs s c k f).hbm = s.hbm := rfl
@[simp] theorem modRegs_hostMem (c k : Nat) (f : CtxRegs → CtxRegs) : (modRegs s c k f).hostMem = s.hostMem := rfl
@[simp] theorem modRegs_poison (c k : Nat) (f : CtxRegs → CtxRegs) : (modRegs s c k f).poison = s.poison := rfl
@[simp] theorem modRegs_partials (c k : Nat) (f : CtxRegs → CtxRegs) : (modRegs s c k f).partials = s.partials := rfl
@[simp] theorem modRegs_lines (c k : Nat) (f : CtxRegs → CtxRegs) : (modRegs s c k f).lines = s.lines := rfl
@[simp] theorem modRegs_scAt (c k : Nat) (f : CtxRegs → CtxRegs) : (modRegs s c k f).scAt = s.scAt := rfl
@[simp] theorem modRegs_plru (c k : Nat) (f : CtxRegs → CtxRegs) : (modRegs s c k f).plru = s.plru := rfl
@[simp] theorem modRegs_combine (c k : Nat) (f : CtxRegs → CtxRegs) : (modRegs s c k f).combine = s.combine := rfl
@[simp] theorem modRegs_reqs (c k : Nat) (f : CtxRegs → CtxRegs) : (modRegs s c k f).reqs = s.reqs := rfl
@[simp] theorem modRegs_nextId (c k : Nat) (f : CtxRegs → CtxRegs) : (modRegs s c k f).nextId = s.nextId := rfl
@[simp] theorem modRegs_btlb (c k : Nat) (f : CtxRegs → CtxRegs) : (modRegs s c k f).btlb = s.btlb := rfl
@[simp] theorem modRegs_walks (c k : Nat) (f : CtxRegs → CtxRegs) : (modRegs s c k f).walks = s.walks := rfl
@[simp] theorem modRegs_hostReads (c k : Nat) (f : CtxRegs → CtxRegs) : (modRegs s c k f).hostReads = s.hostReads := rfl
@[simp] theorem modRegs_hostQ (c k : Nat) (f : CtxRegs → CtxRegs) : (modRegs s c k f).hostQ = s.hostQ := rfl
@[simp] theorem modRegs_packets (c k : Nat) (f : CtxRegs → CtxRegs) : (modRegs s c k f).packets = s.packets := rfl
@[simp] theorem modRegs_flows (c k : Nat) (f : CtxRegs → CtxRegs) : (modRegs s c k f).flows = s.flows := rfl
@[simp] theorem modRegs_slotsResv (c k : Nat) (f : CtxRegs → CtxRegs) : (modRegs s c k f).slotsResv = s.slotsResv := rfl
@[simp] theorem modRegs_bufreqs (c k : Nat) (f : CtxRegs → CtxRegs) : (modRegs s c k f).bufreqs = s.bufreqs := rfl
@[simp] theorem modRegs_hbmStacks (c k : Nat) (f : CtxRegs → CtxRegs) : (modRegs s c k f).hbmStacks = s.hbmStacks := rfl
@[simp] theorem modRegs_vlogs (c k : Nat) (f : CtxRegs → CtxRegs) : (modRegs s c k f).vlogs = s.vlogs := rfl
@[simp] theorem modRegs_queues (c k : Nat) (f : CtxRegs → CtxRegs) : (modRegs s c k f).queues = s.queues := rfl
@[simp] theorem modRegs_tasks (c k : Nat) (f : CtxRegs → CtxRegs) : (modRegs s c k f).tasks = s.tasks := rfl
@[simp] theorem modRegs_nextTask (c k : Nat) (f : CtxRegs → CtxRegs) : (modRegs s c k f).nextTask = s.nextTask := rfl
@[simp] theorem modRegs_lastStart (c k : Nat) (f : CtxRegs → CtxRegs) : (modRegs s c k f).lastStart = s.lastStart := rfl
@[simp] theorem modRegs_served (c k : Nat) (f : CtxRegs → CtxRegs) : (modRegs s c k f).served = s.served := rfl
@[simp] theorem modRegs_jobs (c k : Nat) (f : CtxRegs → CtxRegs) : (modRegs s c k f).jobs = s.jobs := rfl
@[simp] theorem modRegs_rings (c k : Nat) (f : CtxRegs → CtxRegs) : (modRegs s c k f).rings = s.rings := rfl
@[simp] theorem modRegs_vfwin (c k : Nat) (f : CtxRegs → CtxRegs) : (modRegs s c k f).vfwin = s.vfwin := rfl
@[simp] theorem modRegs_msix (c k : Nat) (f : CtxRegs → CtxRegs) : (modRegs s c k f).msix = s.msix := rfl
@[simp] theorem modRegs_exid (c k : Nat) (f : CtxRegs → CtxRegs) : (modRegs s c k f).exid = s.exid := rfl
@[simp] theorem modRegs_xports (c k : Nat) (f : CtxRegs → CtxRegs) : (modRegs s c k f).xports = s.xports := rfl
@[simp] theorem modRegs_messages (c k : Nat) (f : CtxRegs → CtxRegs) : (modRegs s c k f).messages = s.messages := rfl
@[simp] theorem modRegs_redSlots (c k : Nat) (f : CtxRegs → CtxRegs) : (modRegs s c k f).redSlots = s.redSlots := rfl
@[simp] theorem modRegs_redWait (c k : Nat) (f : CtxRegs → CtxRegs) : (modRegs s c k f).redWait = s.redWait := rfl
@[simp] theorem modRegs_redIn (c k : Nat) (f : CtxRegs → CtxRegs) : (modRegs s c k f).redIn = s.redIn := rfl
@[simp] theorem modRegs_resIn (c k : Nat) (f : CtxRegs → CtxRegs) : (modRegs s c k f).resIn = s.resIn := rfl
@[simp] theorem modRegs_sends (c k : Nat) (f : CtxRegs → CtxRegs) : (modRegs s c k f).sends = s.sends := rfl
@[simp] theorem modRegs_frames (c k : Nat) (f : CtxRegs → CtxRegs) : (modRegs s c k f).frames = s.frames := rfl
@[simp] theorem modRegs_tickOut (c k : Nat) (f : CtxRegs → CtxRegs) : (modRegs s c k f).tickOut = s.tickOut := rfl
@[simp] theorem modRegs_time (c k : Nat) (f : CtxRegs → CtxRegs) : (modRegs s c k f).time = s.time := rfl
@[simp] theorem modRegs_boot (c k : Nat) (f : CtxRegs → CtxRegs) : (modRegs s c k f).boot = s.boot := rfl
@[simp] theorem modRegs_pwrlim (c k : Nat) (f : CtxRegs → CtxRegs) : (modRegs s c k f).pwrlim = s.pwrlim := rfl
@[simp] theorem modRegs_limited (c k : Nat) (f : CtxRegs → CtxRegs) : (modRegs s c k f).limited = s.limited := rfl

/-! ### modElem -/

@[simp] theorem modElem_cur (c e : Nat) (f : Elem → Elem) : (modElem s c e f).cur = s.cur := rfl
@[simp] theorem modElem_actor (c e : Nat) (f : Elem → Elem) : (modElem s c e f).actor = s.actor := rfl
@[simp] theorem modElem_agenda (c e : Nat) (f : Elem → Elem) : (modElem s c e f).agenda = s.agenda := rfl
@[simp] theorem modElem_deferred (c e : Nat) (f : Elem → Elem) : (modElem s c e f).deferred = s.deferred := rfl
@[simp] theorem modElem_stale (c e : Nat) (f : Elem → Elem) : (modElem s c e f).stale = s.stale := rfl
@[simp] theorem modElem_free (c e : Nat) (f : Elem → Elem) : (modElem s c e f).free = s.free := rfl
@[simp] theorem modElem_reply (c e : Nat) (f : Elem → Elem) : (modElem s c e f).reply = s.reply := rfl
@[simp] theorem modElem_events (c e : Nat) (f : Elem → Elem) : (modElem s c e f).events = s.events := rfl
@[simp] theorem modElem_cycle (c e : Nat) (f : Elem → Elem) : (modElem s c e f).cycle = s.cycle := rfl
@[simp] theorem modElem_svcs (c e : Nat) (f : Elem → Elem) : (modElem s c e f).svcs = s.svcs := rfl
@[simp] theorem modElem_hbm (c e : Nat) (f : Elem → Elem) : (modElem s c e f).hbm = s.hbm := rfl
@[simp] theorem modElem_hostMem (c e : Nat) (f : Elem → Elem) : (modElem s c e f).hostMem = s.hostMem := rfl
@[simp] theorem modElem_poison (c e : Nat) (f : Elem → Elem) : (modElem s c e f).poison = s.poison := rfl
@[simp] theorem modElem_partials (c e : Nat) (f : Elem → Elem) : (modElem s c e f).partials = s.partials := rfl
@[simp] theorem modElem_lines (c e : Nat) (f : Elem → Elem) : (modElem s c e f).lines = s.lines := rfl
@[simp] theorem modElem_scAt (c e : Nat) (f : Elem → Elem) : (modElem s c e f).scAt = s.scAt := rfl
@[simp] theorem modElem_plru (c e : Nat) (f : Elem → Elem) : (modElem s c e f).plru = s.plru := rfl
@[simp] theorem modElem_combine (c e : Nat) (f : Elem → Elem) : (modElem s c e f).combine = s.combine := rfl
@[simp] theorem modElem_reqs (c e : Nat) (f : Elem → Elem) : (modElem s c e f).reqs = s.reqs := rfl
@[simp] theorem modElem_nextId (c e : Nat) (f : Elem → Elem) : (modElem s c e f).nextId = s.nextId := rfl
@[simp] theorem modElem_btlb (c e : Nat) (f : Elem → Elem) : (modElem s c e f).btlb = s.btlb := rfl
@[simp] theorem modElem_walks (c e : Nat) (f : Elem → Elem) : (modElem s c e f).walks = s.walks := rfl
@[simp] theorem modElem_hostReads (c e : Nat) (f : Elem → Elem) : (modElem s c e f).hostReads = s.hostReads := rfl
@[simp] theorem modElem_hostQ (c e : Nat) (f : Elem → Elem) : (modElem s c e f).hostQ = s.hostQ := rfl
@[simp] theorem modElem_packets (c e : Nat) (f : Elem → Elem) : (modElem s c e f).packets = s.packets := rfl
@[simp] theorem modElem_flows (c e : Nat) (f : Elem → Elem) : (modElem s c e f).flows = s.flows := rfl
@[simp] theorem modElem_slotsResv (c e : Nat) (f : Elem → Elem) : (modElem s c e f).slotsResv = s.slotsResv := rfl
@[simp] theorem modElem_bufreqs (c e : Nat) (f : Elem → Elem) : (modElem s c e f).bufreqs = s.bufreqs := rfl
@[simp] theorem modElem_hbmStacks (c e : Nat) (f : Elem → Elem) : (modElem s c e f).hbmStacks = s.hbmStacks := rfl
@[simp] theorem modElem_vlogs (c e : Nat) (f : Elem → Elem) : (modElem s c e f).vlogs = s.vlogs := rfl
@[simp] theorem modElem_queues (c e : Nat) (f : Elem → Elem) : (modElem s c e f).queues = s.queues := rfl
@[simp] theorem modElem_tasks (c e : Nat) (f : Elem → Elem) : (modElem s c e f).tasks = s.tasks := rfl
@[simp] theorem modElem_nextTask (c e : Nat) (f : Elem → Elem) : (modElem s c e f).nextTask = s.nextTask := rfl
@[simp] theorem modElem_lastStart (c e : Nat) (f : Elem → Elem) : (modElem s c e f).lastStart = s.lastStart := rfl
@[simp] theorem modElem_served (c e : Nat) (f : Elem → Elem) : (modElem s c e f).served = s.served := rfl
@[simp] theorem modElem_jobs (c e : Nat) (f : Elem → Elem) : (modElem s c e f).jobs = s.jobs := rfl
@[simp] theorem modElem_rings (c e : Nat) (f : Elem → Elem) : (modElem s c e f).rings = s.rings := rfl
@[simp] theorem modElem_vfwin (c e : Nat) (f : Elem → Elem) : (modElem s c e f).vfwin = s.vfwin := rfl
@[simp] theorem modElem_msix (c e : Nat) (f : Elem → Elem) : (modElem s c e f).msix = s.msix := rfl
@[simp] theorem modElem_exid (c e : Nat) (f : Elem → Elem) : (modElem s c e f).exid = s.exid := rfl
@[simp] theorem modElem_xports (c e : Nat) (f : Elem → Elem) : (modElem s c e f).xports = s.xports := rfl
@[simp] theorem modElem_messages (c e : Nat) (f : Elem → Elem) : (modElem s c e f).messages = s.messages := rfl
@[simp] theorem modElem_redSlots (c e : Nat) (f : Elem → Elem) : (modElem s c e f).redSlots = s.redSlots := rfl
@[simp] theorem modElem_redWait (c e : Nat) (f : Elem → Elem) : (modElem s c e f).redWait = s.redWait := rfl
@[simp] theorem modElem_redIn (c e : Nat) (f : Elem → Elem) : (modElem s c e f).redIn = s.redIn := rfl
@[simp] theorem modElem_resIn (c e : Nat) (f : Elem → Elem) : (modElem s c e f).resIn = s.resIn := rfl
@[simp] theorem modElem_sends (c e : Nat) (f : Elem → Elem) : (modElem s c e f).sends = s.sends := rfl
@[simp] theorem modElem_frames (c e : Nat) (f : Elem → Elem) : (modElem s c e f).frames = s.frames := rfl
@[simp] theorem modElem_tickOut (c e : Nat) (f : Elem → Elem) : (modElem s c e f).tickOut = s.tickOut := rfl
@[simp] theorem modElem_time (c e : Nat) (f : Elem → Elem) : (modElem s c e f).time = s.time := rfl
@[simp] theorem modElem_boot (c e : Nat) (f : Elem → Elem) : (modElem s c e f).boot = s.boot := rfl
@[simp] theorem modElem_pwrlim (c e : Nat) (f : Elem → Elem) : (modElem s c e f).pwrlim = s.pwrlim := rfl
@[simp] theorem modElem_limited (c e : Nat) (f : Elem → Elem) : (modElem s c e f).limited = s.limited := rfl

/-! ### modSvc -/

@[simp] theorem modSvc_cur (n : Nat) (f : Svc → Svc) : (modSvc s n f).cur = s.cur := rfl
@[simp] theorem modSvc_actor (n : Nat) (f : Svc → Svc) : (modSvc s n f).actor = s.actor := rfl
@[simp] theorem modSvc_agenda (n : Nat) (f : Svc → Svc) : (modSvc s n f).agenda = s.agenda := rfl
@[simp] theorem modSvc_deferred (n : Nat) (f : Svc → Svc) : (modSvc s n f).deferred = s.deferred := rfl
@[simp] theorem modSvc_stale (n : Nat) (f : Svc → Svc) : (modSvc s n f).stale = s.stale := rfl
@[simp] theorem modSvc_free (n : Nat) (f : Svc → Svc) : (modSvc s n f).free = s.free := rfl
@[simp] theorem modSvc_reply (n : Nat) (f : Svc → Svc) : (modSvc s n f).reply = s.reply := rfl
@[simp] theorem modSvc_events (n : Nat) (f : Svc → Svc) : (modSvc s n f).events = s.events := rfl
@[simp] theorem modSvc_cycle (n : Nat) (f : Svc → Svc) : (modSvc s n f).cycle = s.cycle := rfl
@[simp] theorem modSvc_cores (n : Nat) (f : Svc → Svc) : (modSvc s n f).cores = s.cores := rfl
@[simp] theorem modSvc_hbm (n : Nat) (f : Svc → Svc) : (modSvc s n f).hbm = s.hbm := rfl
@[simp] theorem modSvc_hostMem (n : Nat) (f : Svc → Svc) : (modSvc s n f).hostMem = s.hostMem := rfl
@[simp] theorem modSvc_poison (n : Nat) (f : Svc → Svc) : (modSvc s n f).poison = s.poison := rfl
@[simp] theorem modSvc_partials (n : Nat) (f : Svc → Svc) : (modSvc s n f).partials = s.partials := rfl
@[simp] theorem modSvc_lines (n : Nat) (f : Svc → Svc) : (modSvc s n f).lines = s.lines := rfl
@[simp] theorem modSvc_scAt (n : Nat) (f : Svc → Svc) : (modSvc s n f).scAt = s.scAt := rfl
@[simp] theorem modSvc_plru (n : Nat) (f : Svc → Svc) : (modSvc s n f).plru = s.plru := rfl
@[simp] theorem modSvc_combine (n : Nat) (f : Svc → Svc) : (modSvc s n f).combine = s.combine := rfl
@[simp] theorem modSvc_reqs (n : Nat) (f : Svc → Svc) : (modSvc s n f).reqs = s.reqs := rfl
@[simp] theorem modSvc_nextId (n : Nat) (f : Svc → Svc) : (modSvc s n f).nextId = s.nextId := rfl
@[simp] theorem modSvc_btlb (n : Nat) (f : Svc → Svc) : (modSvc s n f).btlb = s.btlb := rfl
@[simp] theorem modSvc_walks (n : Nat) (f : Svc → Svc) : (modSvc s n f).walks = s.walks := rfl
@[simp] theorem modSvc_hostReads (n : Nat) (f : Svc → Svc) : (modSvc s n f).hostReads = s.hostReads := rfl
@[simp] theorem modSvc_hostQ (n : Nat) (f : Svc → Svc) : (modSvc s n f).hostQ = s.hostQ := rfl
@[simp] theorem modSvc_packets (n : Nat) (f : Svc → Svc) : (modSvc s n f).packets = s.packets := rfl
@[simp] theorem modSvc_flows (n : Nat) (f : Svc → Svc) : (modSvc s n f).flows = s.flows := rfl
@[simp] theorem modSvc_slotsResv (n : Nat) (f : Svc → Svc) : (modSvc s n f).slotsResv = s.slotsResv := rfl
@[simp] theorem modSvc_bufreqs (n : Nat) (f : Svc → Svc) : (modSvc s n f).bufreqs = s.bufreqs := rfl
@[simp] theorem modSvc_hbmStacks (n : Nat) (f : Svc → Svc) : (modSvc s n f).hbmStacks = s.hbmStacks := rfl
@[simp] theorem modSvc_vlogs (n : Nat) (f : Svc → Svc) : (modSvc s n f).vlogs = s.vlogs := rfl
@[simp] theorem modSvc_queues (n : Nat) (f : Svc → Svc) : (modSvc s n f).queues = s.queues := rfl
@[simp] theorem modSvc_tasks (n : Nat) (f : Svc → Svc) : (modSvc s n f).tasks = s.tasks := rfl
@[simp] theorem modSvc_nextTask (n : Nat) (f : Svc → Svc) : (modSvc s n f).nextTask = s.nextTask := rfl
@[simp] theorem modSvc_lastStart (n : Nat) (f : Svc → Svc) : (modSvc s n f).lastStart = s.lastStart := rfl
@[simp] theorem modSvc_served (n : Nat) (f : Svc → Svc) : (modSvc s n f).served = s.served := rfl
@[simp] theorem modSvc_jobs (n : Nat) (f : Svc → Svc) : (modSvc s n f).jobs = s.jobs := rfl
@[simp] theorem modSvc_rings (n : Nat) (f : Svc → Svc) : (modSvc s n f).rings = s.rings := rfl
@[simp] theorem modSvc_vfwin (n : Nat) (f : Svc → Svc) : (modSvc s n f).vfwin = s.vfwin := rfl
@[simp] theorem modSvc_msix (n : Nat) (f : Svc → Svc) : (modSvc s n f).msix = s.msix := rfl
@[simp] theorem modSvc_exid (n : Nat) (f : Svc → Svc) : (modSvc s n f).exid = s.exid := rfl
@[simp] theorem modSvc_xports (n : Nat) (f : Svc → Svc) : (modSvc s n f).xports = s.xports := rfl
@[simp] theorem modSvc_messages (n : Nat) (f : Svc → Svc) : (modSvc s n f).messages = s.messages := rfl
@[simp] theorem modSvc_redSlots (n : Nat) (f : Svc → Svc) : (modSvc s n f).redSlots = s.redSlots := rfl
@[simp] theorem modSvc_redWait (n : Nat) (f : Svc → Svc) : (modSvc s n f).redWait = s.redWait := rfl
@[simp] theorem modSvc_redIn (n : Nat) (f : Svc → Svc) : (modSvc s n f).redIn = s.redIn := rfl
@[simp] theorem modSvc_resIn (n : Nat) (f : Svc → Svc) : (modSvc s n f).resIn = s.resIn := rfl
@[simp] theorem modSvc_sends (n : Nat) (f : Svc → Svc) : (modSvc s n f).sends = s.sends := rfl
@[simp] theorem modSvc_frames (n : Nat) (f : Svc → Svc) : (modSvc s n f).frames = s.frames := rfl
@[simp] theorem modSvc_tickOut (n : Nat) (f : Svc → Svc) : (modSvc s n f).tickOut = s.tickOut := rfl
@[simp] theorem modSvc_time (n : Nat) (f : Svc → Svc) : (modSvc s n f).time = s.time := rfl
@[simp] theorem modSvc_boot (n : Nat) (f : Svc → Svc) : (modSvc s n f).boot = s.boot := rfl
@[simp] theorem modSvc_pwrlim (n : Nat) (f : Svc → Svc) : (modSvc s n f).pwrlim = s.pwrlim := rfl
@[simp] theorem modSvc_limited (n : Nat) (f : Svc → Svc) : (modSvc s n f).limited = s.limited := rfl

/-! ### modJob -/

@[simp] theorem modJob_cur (a : Nat) (f : Job → Job) : (modJob s a f).cur = s.cur := rfl
@[simp] theorem modJob_actor (a : Nat) (f : Job → Job) : (modJob s a f).actor = s.actor := rfl
@[simp] theorem modJob_agenda (a : Nat) (f : Job → Job) : (modJob s a f).agenda = s.agenda := rfl
@[simp] theorem modJob_deferred (a : Nat) (f : Job → Job) : (modJob s a f).deferred = s.deferred := rfl
@[simp] theorem modJob_stale (a : Nat) (f : Job → Job) : (modJob s a f).stale = s.stale := rfl
@[simp] theorem modJob_free (a : Nat) (f : Job → Job) : (modJob s a f).free = s.free := rfl
@[simp] theorem modJob_reply (a : Nat) (f : Job → Job) : (modJob s a f).reply = s.reply := rfl
@[simp] theorem modJob_events (a : Nat) (f : Job → Job) : (modJob s a f).events = s.events := rfl
@[simp] theorem modJob_cycle (a : Nat) (f : Job → Job) : (modJob s a f).cycle = s.cycle := rfl
@[simp] theorem modJob_cores (a : Nat) (f : Job → Job) : (modJob s a f).cores = s.cores := rfl
@[simp] theorem modJob_svcs (a : Nat) (f : Job → Job) : (modJob s a f).svcs = s.svcs := rfl
@[simp] theorem modJob_hbm (a : Nat) (f : Job → Job) : (modJob s a f).hbm = s.hbm := rfl
@[simp] theorem modJob_hostMem (a : Nat) (f : Job → Job) : (modJob s a f).hostMem = s.hostMem := rfl
@[simp] theorem modJob_poison (a : Nat) (f : Job → Job) : (modJob s a f).poison = s.poison := rfl
@[simp] theorem modJob_partials (a : Nat) (f : Job → Job) : (modJob s a f).partials = s.partials := rfl
@[simp] theorem modJob_lines (a : Nat) (f : Job → Job) : (modJob s a f).lines = s.lines := rfl
@[simp] theorem modJob_scAt (a : Nat) (f : Job → Job) : (modJob s a f).scAt = s.scAt := rfl
@[simp] theorem modJob_plru (a : Nat) (f : Job → Job) : (modJob s a f).plru = s.plru := rfl
@[simp] theorem modJob_combine (a : Nat) (f : Job → Job) : (modJob s a f).combine = s.combine := rfl
@[simp] theorem modJob_reqs (a : Nat) (f : Job → Job) : (modJob s a f).reqs = s.reqs := rfl
@[simp] theorem modJob_nextId (a : Nat) (f : Job → Job) : (modJob s a f).nextId = s.nextId := rfl
@[simp] theorem modJob_btlb (a : Nat) (f : Job → Job) : (modJob s a f).btlb = s.btlb := rfl
@[simp] theorem modJob_walks (a : Nat) (f : Job → Job) : (modJob s a f).walks = s.walks := rfl
@[simp] theorem modJob_hostReads (a : Nat) (f : Job → Job) : (modJob s a f).hostReads = s.hostReads := rfl
@[simp] theorem modJob_hostQ (a : Nat) (f : Job → Job) : (modJob s a f).hostQ = s.hostQ := rfl
@[simp] theorem modJob_packets (a : Nat) (f : Job → Job) : (modJob s a f).packets = s.packets := rfl
@[simp] theorem modJob_flows (a : Nat) (f : Job → Job) : (modJob s a f).flows = s.flows := rfl
@[simp] theorem modJob_slotsResv (a : Nat) (f : Job → Job) : (modJob s a f).slotsResv = s.slotsResv := rfl
@[simp] theorem modJob_bufreqs (a : Nat) (f : Job → Job) : (modJob s a f).bufreqs = s.bufreqs := rfl
@[simp] theorem modJob_hbmStacks (a : Nat) (f : Job → Job) : (modJob s a f).hbmStacks = s.hbmStacks := rfl
@[simp] theorem modJob_vlogs (a : Nat) (f : Job → Job) : (modJob s a f).vlogs = s.vlogs := rfl
@[simp] theorem modJob_queues (a : Nat) (f : Job → Job) : (modJob s a f).queues = s.queues := rfl
@[simp] theorem modJob_tasks (a : Nat) (f : Job → Job) : (modJob s a f).tasks = s.tasks := rfl
@[simp] theorem modJob_nextTask (a : Nat) (f : Job → Job) : (modJob s a f).nextTask = s.nextTask := rfl
@[simp] theorem modJob_lastStart (a : Nat) (f : Job → Job) : (modJob s a f).lastStart = s.lastStart := rfl
@[simp] theorem modJob_served (a : Nat) (f : Job → Job) : (modJob s a f).served = s.served := rfl
@[simp] theorem modJob_rings (a : Nat) (f : Job → Job) : (modJob s a f).rings = s.rings := rfl
@[simp] theorem modJob_vfwin (a : Nat) (f : Job → Job) : (modJob s a f).vfwin = s.vfwin := rfl
@[simp] theorem modJob_msix (a : Nat) (f : Job → Job) : (modJob s a f).msix = s.msix := rfl
@[simp] theorem modJob_exid (a : Nat) (f : Job → Job) : (modJob s a f).exid = s.exid := rfl
@[simp] theorem modJob_xports (a : Nat) (f : Job → Job) : (modJob s a f).xports = s.xports := rfl
@[simp] theorem modJob_messages (a : Nat) (f : Job → Job) : (modJob s a f).messages = s.messages := rfl
@[simp] theorem modJob_redSlots (a : Nat) (f : Job → Job) : (modJob s a f).redSlots = s.redSlots := rfl
@[simp] theorem modJob_redWait (a : Nat) (f : Job → Job) : (modJob s a f).redWait = s.redWait := rfl
@[simp] theorem modJob_redIn (a : Nat) (f : Job → Job) : (modJob s a f).redIn = s.redIn := rfl
@[simp] theorem modJob_resIn (a : Nat) (f : Job → Job) : (modJob s a f).resIn = s.resIn := rfl
@[simp] theorem modJob_sends (a : Nat) (f : Job → Job) : (modJob s a f).sends = s.sends := rfl
@[simp] theorem modJob_frames (a : Nat) (f : Job → Job) : (modJob s a f).frames = s.frames := rfl
@[simp] theorem modJob_tickOut (a : Nat) (f : Job → Job) : (modJob s a f).tickOut = s.tickOut := rfl
@[simp] theorem modJob_time (a : Nat) (f : Job → Job) : (modJob s a f).time = s.time := rfl
@[simp] theorem modJob_boot (a : Nat) (f : Job → Job) : (modJob s a f).boot = s.boot := rfl
@[simp] theorem modJob_pwrlim (a : Nat) (f : Job → Job) : (modJob s a f).pwrlim = s.pwrlim := rfl
@[simp] theorem modJob_limited (a : Nat) (f : Job → Job) : (modJob s a f).limited = s.limited := rfl

/-! ### modQueue -/

@[simp] theorem modQueue_cur (q : Nat) (f : Queue → Queue) : (modQueue s q f).cur = s.cur := rfl
@[simp] theorem modQueue_actor (q : Nat) (f : Queue → Queue) : (modQueue s q f).actor = s.actor := rfl
@[simp] theorem modQueue_agenda (q : Nat) (f : Queue → Queue) : (modQueue s q f).agenda = s.agenda := rfl
@[simp] theorem modQueue_deferred (q : Nat) (f : Queue → Queue) : (modQueue s q f).deferred = s.deferred := rfl
@[simp] theorem modQueue_stale (q : Nat) (f : Queue → Queue) : (modQueue s q f).stale = s.stale := rfl
@[simp] theorem modQueue_free (q : Nat) (f : Queue → Queue) : (modQueue s q f).free = s.free := rfl
@[simp] theorem modQueue_reply (q : Nat) (f : Queue → Queue) : (modQueue s q f).reply = s.reply := rfl
@[simp] theorem modQueue_events (q : Nat) (f : Queue → Queue) : (modQueue s q f).events = s.events := rfl
@[simp] theorem modQueue_cycle (q : Nat) (f : Queue → Queue) : (modQueue s q f).cycle = s.cycle := rfl
@[simp] theorem modQueue_cores (q : Nat) (f : Queue → Queue) : (modQueue s q f).cores = s.cores := rfl
@[simp] theorem modQueue_svcs (q : Nat) (f : Queue → Queue) : (modQueue s q f).svcs = s.svcs := rfl
@[simp] theorem modQueue_hbm (q : Nat) (f : Queue → Queue) : (modQueue s q f).hbm = s.hbm := rfl
@[simp] theorem modQueue_hostMem (q : Nat) (f : Queue → Queue) : (modQueue s q f).hostMem = s.hostMem := rfl
@[simp] theorem modQueue_poison (q : Nat) (f : Queue → Queue) : (modQueue s q f).poison = s.poison := rfl
@[simp] theorem modQueue_partials (q : Nat) (f : Queue → Queue) : (modQueue s q f).partials = s.partials := rfl
@[simp] theorem modQueue_lines (q : Nat) (f : Queue → Queue) : (modQueue s q f).lines = s.lines := rfl
@[simp] theorem modQueue_scAt (q : Nat) (f : Queue → Queue) : (modQueue s q f).scAt = s.scAt := rfl
@[simp] theorem modQueue_plru (q : Nat) (f : Queue → Queue) : (modQueue s q f).plru = s.plru := rfl
@[simp] theorem modQueue_combine (q : Nat) (f : Queue → Queue) : (modQueue s q f).combine = s.combine := rfl
@[simp] theorem modQueue_reqs (q : Nat) (f : Queue → Queue) : (modQueue s q f).reqs = s.reqs := rfl
@[simp] theorem modQueue_nextId (q : Nat) (f : Queue → Queue) : (modQueue s q f).nextId = s.nextId := rfl
@[simp] theorem modQueue_btlb (q : Nat) (f : Queue → Queue) : (modQueue s q f).btlb = s.btlb := rfl
@[simp] theorem modQueue_walks (q : Nat) (f : Queue → Queue) : (modQueue s q f).walks = s.walks := rfl
@[simp] theorem modQueue_hostReads (q : Nat) (f : Queue → Queue) : (modQueue s q f).hostReads = s.hostReads := rfl
@[simp] theorem modQueue_hostQ (q : Nat) (f : Queue → Queue) : (modQueue s q f).hostQ = s.hostQ := rfl
@[simp] theorem modQueue_packets (q : Nat) (f : Queue → Queue) : (modQueue s q f).packets = s.packets := rfl
@[simp] theorem modQueue_flows (q : Nat) (f : Queue → Queue) : (modQueue s q f).flows = s.flows := rfl
@[simp] theorem modQueue_slotsResv (q : Nat) (f : Queue → Queue) : (modQueue s q f).slotsResv = s.slotsResv := rfl
@[simp] theorem modQueue_bufreqs (q : Nat) (f : Queue → Queue) : (modQueue s q f).bufreqs = s.bufreqs := rfl
@[simp] theorem modQueue_hbmStacks (q : Nat) (f : Queue → Queue) : (modQueue s q f).hbmStacks = s.hbmStacks := rfl
@[simp] theorem modQueue_vlogs (q : Nat) (f : Queue → Queue) : (modQueue s q f).vlogs = s.vlogs := rfl
@[simp] theorem modQueue_tasks (q : Nat) (f : Queue → Queue) : (modQueue s q f).tasks = s.tasks := rfl
@[simp] theorem modQueue_nextTask (q : Nat) (f : Queue → Queue) : (modQueue s q f).nextTask = s.nextTask := rfl
@[simp] theorem modQueue_lastStart (q : Nat) (f : Queue → Queue) : (modQueue s q f).lastStart = s.lastStart := rfl
@[simp] theorem modQueue_served (q : Nat) (f : Queue → Queue) : (modQueue s q f).served = s.served := rfl
@[simp] theorem modQueue_jobs (q : Nat) (f : Queue → Queue) : (modQueue s q f).jobs = s.jobs := rfl
@[simp] theorem modQueue_rings (q : Nat) (f : Queue → Queue) : (modQueue s q f).rings = s.rings := rfl
@[simp] theorem modQueue_vfwin (q : Nat) (f : Queue → Queue) : (modQueue s q f).vfwin = s.vfwin := rfl
@[simp] theorem modQueue_msix (q : Nat) (f : Queue → Queue) : (modQueue s q f).msix = s.msix := rfl
@[simp] theorem modQueue_exid (q : Nat) (f : Queue → Queue) : (modQueue s q f).exid = s.exid := rfl
@[simp] theorem modQueue_xports (q : Nat) (f : Queue → Queue) : (modQueue s q f).xports = s.xports := rfl
@[simp] theorem modQueue_messages (q : Nat) (f : Queue → Queue) : (modQueue s q f).messages = s.messages := rfl
@[simp] theorem modQueue_redSlots (q : Nat) (f : Queue → Queue) : (modQueue s q f).redSlots = s.redSlots := rfl
@[simp] theorem modQueue_redWait (q : Nat) (f : Queue → Queue) : (modQueue s q f).redWait = s.redWait := rfl
@[simp] theorem modQueue_redIn (q : Nat) (f : Queue → Queue) : (modQueue s q f).redIn = s.redIn := rfl
@[simp] theorem modQueue_resIn (q : Nat) (f : Queue → Queue) : (modQueue s q f).resIn = s.resIn := rfl
@[simp] theorem modQueue_sends (q : Nat) (f : Queue → Queue) : (modQueue s q f).sends = s.sends := rfl
@[simp] theorem modQueue_frames (q : Nat) (f : Queue → Queue) : (modQueue s q f).frames = s.frames := rfl
@[simp] theorem modQueue_tickOut (q : Nat) (f : Queue → Queue) : (modQueue s q f).tickOut = s.tickOut := rfl
@[simp] theorem modQueue_time (q : Nat) (f : Queue → Queue) : (modQueue s q f).time = s.time := rfl
@[simp] theorem modQueue_boot (q : Nat) (f : Queue → Queue) : (modQueue s q f).boot = s.boot := rfl
@[simp] theorem modQueue_pwrlim (q : Nat) (f : Queue → Queue) : (modQueue s q f).pwrlim = s.pwrlim := rfl
@[simp] theorem modQueue_limited (q : Nat) (f : Queue → Queue) : (modQueue s q f).limited = s.limited := rfl

/-! ### modStack -/

@[simp] theorem modStack_cur (k : Nat) (f : Stack → Stack) : (modStack s k f).cur = s.cur := rfl
@[simp] theorem modStack_actor (k : Nat) (f : Stack → Stack) : (modStack s k f).actor = s.actor := rfl
@[simp] theorem modStack_agenda (k : Nat) (f : Stack → Stack) : (modStack s k f).agenda = s.agenda := rfl
@[simp] theorem modStack_deferred (k : Nat) (f : Stack → Stack) : (modStack s k f).deferred = s.deferred := rfl
@[simp] theorem modStack_stale (k : Nat) (f : Stack → Stack) : (modStack s k f).stale = s.stale := rfl
@[simp] theorem modStack_free (k : Nat) (f : Stack → Stack) : (modStack s k f).free = s.free := rfl
@[simp] theorem modStack_reply (k : Nat) (f : Stack → Stack) : (modStack s k f).reply = s.reply := rfl
@[simp] theorem modStack_events (k : Nat) (f : Stack → Stack) : (modStack s k f).events = s.events := rfl
@[simp] theorem modStack_cycle (k : Nat) (f : Stack → Stack) : (modStack s k f).cycle = s.cycle := rfl
@[simp] theorem modStack_cores (k : Nat) (f : Stack → Stack) : (modStack s k f).cores = s.cores := rfl
@[simp] theorem modStack_svcs (k : Nat) (f : Stack → Stack) : (modStack s k f).svcs = s.svcs := rfl
@[simp] theorem modStack_hbm (k : Nat) (f : Stack → Stack) : (modStack s k f).hbm = s.hbm := rfl
@[simp] theorem modStack_hostMem (k : Nat) (f : Stack → Stack) : (modStack s k f).hostMem = s.hostMem := rfl
@[simp] theorem modStack_poison (k : Nat) (f : Stack → Stack) : (modStack s k f).poison = s.poison := rfl
@[simp] theorem modStack_partials (k : Nat) (f : Stack → Stack) : (modStack s k f).partials = s.partials := rfl
@[simp] theorem modStack_lines (k : Nat) (f : Stack → Stack) : (modStack s k f).lines = s.lines := rfl
@[simp] theorem modStack_scAt (k : Nat) (f : Stack → Stack) : (modStack s k f).scAt = s.scAt := rfl
@[simp] theorem modStack_plru (k : Nat) (f : Stack → Stack) : (modStack s k f).plru = s.plru := rfl
@[simp] theorem modStack_combine (k : Nat) (f : Stack → Stack) : (modStack s k f).combine = s.combine := rfl
@[simp] theorem modStack_reqs (k : Nat) (f : Stack → Stack) : (modStack s k f).reqs = s.reqs := rfl
@[simp] theorem modStack_nextId (k : Nat) (f : Stack → Stack) : (modStack s k f).nextId = s.nextId := rfl
@[simp] theorem modStack_btlb (k : Nat) (f : Stack → Stack) : (modStack s k f).btlb = s.btlb := rfl
@[simp] theorem modStack_walks (k : Nat) (f : Stack → Stack) : (modStack s k f).walks = s.walks := rfl
@[simp] theorem modStack_hostReads (k : Nat) (f : Stack → Stack) : (modStack s k f).hostReads = s.hostReads := rfl
@[simp] theorem modStack_hostQ (k : Nat) (f : Stack → Stack) : (modStack s k f).hostQ = s.hostQ := rfl
@[simp] theorem modStack_packets (k : Nat) (f : Stack → Stack) : (modStack s k f).packets = s.packets := rfl
@[simp] theorem modStack_flows (k : Nat) (f : Stack → Stack) : (modStack s k f).flows = s.flows := rfl
@[simp] theorem modStack_slotsResv (k : Nat) (f : Stack → Stack) : (modStack s k f).slotsResv = s.slotsResv := rfl
@[simp] theorem modStack_bufreqs (k : Nat) (f : Stack → Stack) : (modStack s k f).bufreqs = s.bufreqs := rfl
@[simp] theorem modStack_vlogs (k : Nat) (f : Stack → Stack) : (modStack s k f).vlogs = s.vlogs := rfl
@[simp] theorem modStack_queues (k : Nat) (f : Stack → Stack) : (modStack s k f).queues = s.queues := rfl
@[simp] theorem modStack_tasks (k : Nat) (f : Stack → Stack) : (modStack s k f).tasks = s.tasks := rfl
@[simp] theorem modStack_nextTask (k : Nat) (f : Stack → Stack) : (modStack s k f).nextTask = s.nextTask := rfl
@[simp] theorem modStack_lastStart (k : Nat) (f : Stack → Stack) : (modStack s k f).lastStart = s.lastStart := rfl
@[simp] theorem modStack_served (k : Nat) (f : Stack → Stack) : (modStack s k f).served = s.served := rfl
@[simp] theorem modStack_jobs (k : Nat) (f : Stack → Stack) : (modStack s k f).jobs = s.jobs := rfl
@[simp] theorem modStack_rings (k : Nat) (f : Stack → Stack) : (modStack s k f).rings = s.rings := rfl
@[simp] theorem modStack_vfwin (k : Nat) (f : Stack → Stack) : (modStack s k f).vfwin = s.vfwin := rfl
@[simp] theorem modStack_msix (k : Nat) (f : Stack → Stack) : (modStack s k f).msix = s.msix := rfl
@[simp] theorem modStack_exid (k : Nat) (f : Stack → Stack) : (modStack s k f).exid = s.exid := rfl
@[simp] theorem modStack_xports (k : Nat) (f : Stack → Stack) : (modStack s k f).xports = s.xports := rfl
@[simp] theorem modStack_messages (k : Nat) (f : Stack → Stack) : (modStack s k f).messages = s.messages := rfl
@[simp] theorem modStack_redSlots (k : Nat) (f : Stack → Stack) : (modStack s k f).redSlots = s.redSlots := rfl
@[simp] theorem modStack_redWait (k : Nat) (f : Stack → Stack) : (modStack s k f).redWait = s.redWait := rfl
@[simp] theorem modStack_redIn (k : Nat) (f : Stack → Stack) : (modStack s k f).redIn = s.redIn := rfl
@[simp] theorem modStack_resIn (k : Nat) (f : Stack → Stack) : (modStack s k f).resIn = s.resIn := rfl
@[simp] theorem modStack_sends (k : Nat) (f : Stack → Stack) : (modStack s k f).sends = s.sends := rfl
@[simp] theorem modStack_frames (k : Nat) (f : Stack → Stack) : (modStack s k f).frames = s.frames := rfl
@[simp] theorem modStack_tickOut (k : Nat) (f : Stack → Stack) : (modStack s k f).tickOut = s.tickOut := rfl
@[simp] theorem modStack_time (k : Nat) (f : Stack → Stack) : (modStack s k f).time = s.time := rfl
@[simp] theorem modStack_boot (k : Nat) (f : Stack → Stack) : (modStack s k f).boot = s.boot := rfl
@[simp] theorem modStack_pwrlim (k : Nat) (f : Stack → Stack) : (modStack s k f).pwrlim = s.pwrlim := rfl
@[simp] theorem modStack_limited (k : Nat) (f : Stack → Stack) : (modStack s k f).limited = s.limited := rfl

/-! ### modTask -/

@[simp] theorem modTask_cur (i : Nat) (f : Task → Task) : (modTask s i f).cur = s.cur := rfl
@[simp] theorem modTask_actor (i : Nat) (f : Task → Task) : (modTask s i f).actor = s.actor := rfl
@[simp] theorem modTask_agenda (i : Nat) (f : Task → Task) : (modTask s i f).agenda = s.agenda := rfl
@[simp] theorem modTask_deferred (i : Nat) (f : Task → Task) : (modTask s i f).deferred = s.deferred := rfl
@[simp] theorem modTask_stale (i : Nat) (f : Task → Task) : (modTask s i f).stale = s.stale := rfl
@[simp] theorem modTask_free (i : Nat) (f : Task → Task) : (modTask s i f).free = s.free := rfl
@[simp] theorem modTask_reply (i : Nat) (f : Task → Task) : (modTask s i f).reply = s.reply := rfl
@[simp] theorem modTask_events (i : Nat) (f : Task → Task) : (modTask s i f).events = s.events := rfl
@[simp] theorem modTask_cycle (i : Nat) (f : Task → Task) : (modTask s i f).cycle = s.cycle := rfl
@[simp] theorem modTask_cores (i : Nat) (f : Task → Task) : (modTask s i f).cores = s.cores := rfl
@[simp] theorem modTask_svcs (i : Nat) (f : Task → Task) : (modTask s i f).svcs = s.svcs := rfl
@[simp] theorem modTask_hbm (i : Nat) (f : Task → Task) : (modTask s i f).hbm = s.hbm := rfl
@[simp] theorem modTask_hostMem (i : Nat) (f : Task → Task) : (modTask s i f).hostMem = s.hostMem := rfl
@[simp] theorem modTask_poison (i : Nat) (f : Task → Task) : (modTask s i f).poison = s.poison := rfl
@[simp] theorem modTask_partials (i : Nat) (f : Task → Task) : (modTask s i f).partials = s.partials := rfl
@[simp] theorem modTask_lines (i : Nat) (f : Task → Task) : (modTask s i f).lines = s.lines := rfl
@[simp] theorem modTask_scAt (i : Nat) (f : Task → Task) : (modTask s i f).scAt = s.scAt := rfl
@[simp] theorem modTask_plru (i : Nat) (f : Task → Task) : (modTask s i f).plru = s.plru := rfl
@[simp] theorem modTask_combine (i : Nat) (f : Task → Task) : (modTask s i f).combine = s.combine := rfl
@[simp] theorem modTask_reqs (i : Nat) (f : Task → Task) : (modTask s i f).reqs = s.reqs := rfl
@[simp] theorem modTask_nextId (i : Nat) (f : Task → Task) : (modTask s i f).nextId = s.nextId := rfl
@[simp] theorem modTask_btlb (i : Nat) (f : Task → Task) : (modTask s i f).btlb = s.btlb := rfl
@[simp] theorem modTask_walks (i : Nat) (f : Task → Task) : (modTask s i f).walks = s.walks := rfl
@[simp] theorem modTask_hostReads (i : Nat) (f : Task → Task) : (modTask s i f).hostReads = s.hostReads := rfl
@[simp] theorem modTask_hostQ (i : Nat) (f : Task → Task) : (modTask s i f).hostQ = s.hostQ := rfl
@[simp] theorem modTask_packets (i : Nat) (f : Task → Task) : (modTask s i f).packets = s.packets := rfl
@[simp] theorem modTask_flows (i : Nat) (f : Task → Task) : (modTask s i f).flows = s.flows := rfl
@[simp] theorem modTask_slotsResv (i : Nat) (f : Task → Task) : (modTask s i f).slotsResv = s.slotsResv := rfl
@[simp] theorem modTask_bufreqs (i : Nat) (f : Task → Task) : (modTask s i f).bufreqs = s.bufreqs := rfl
@[simp] theorem modTask_hbmStacks (i : Nat) (f : Task → Task) : (modTask s i f).hbmStacks = s.hbmStacks := rfl
@[simp] theorem modTask_vlogs (i : Nat) (f : Task → Task) : (modTask s i f).vlogs = s.vlogs := rfl
@[simp] theorem modTask_queues (i : Nat) (f : Task → Task) : (modTask s i f).queues = s.queues := rfl
@[simp] theorem modTask_nextTask (i : Nat) (f : Task → Task) : (modTask s i f).nextTask = s.nextTask := rfl
@[simp] theorem modTask_lastStart (i : Nat) (f : Task → Task) : (modTask s i f).lastStart = s.lastStart := rfl
@[simp] theorem modTask_served (i : Nat) (f : Task → Task) : (modTask s i f).served = s.served := rfl
@[simp] theorem modTask_jobs (i : Nat) (f : Task → Task) : (modTask s i f).jobs = s.jobs := rfl
@[simp] theorem modTask_rings (i : Nat) (f : Task → Task) : (modTask s i f).rings = s.rings := rfl
@[simp] theorem modTask_vfwin (i : Nat) (f : Task → Task) : (modTask s i f).vfwin = s.vfwin := rfl
@[simp] theorem modTask_msix (i : Nat) (f : Task → Task) : (modTask s i f).msix = s.msix := rfl
@[simp] theorem modTask_exid (i : Nat) (f : Task → Task) : (modTask s i f).exid = s.exid := rfl
@[simp] theorem modTask_xports (i : Nat) (f : Task → Task) : (modTask s i f).xports = s.xports := rfl
@[simp] theorem modTask_messages (i : Nat) (f : Task → Task) : (modTask s i f).messages = s.messages := rfl
@[simp] theorem modTask_redSlots (i : Nat) (f : Task → Task) : (modTask s i f).redSlots = s.redSlots := rfl
@[simp] theorem modTask_redWait (i : Nat) (f : Task → Task) : (modTask s i f).redWait = s.redWait := rfl
@[simp] theorem modTask_redIn (i : Nat) (f : Task → Task) : (modTask s i f).redIn = s.redIn := rfl
@[simp] theorem modTask_resIn (i : Nat) (f : Task → Task) : (modTask s i f).resIn = s.resIn := rfl
@[simp] theorem modTask_sends (i : Nat) (f : Task → Task) : (modTask s i f).sends = s.sends := rfl
@[simp] theorem modTask_frames (i : Nat) (f : Task → Task) : (modTask s i f).frames = s.frames := rfl
@[simp] theorem modTask_tickOut (i : Nat) (f : Task → Task) : (modTask s i f).tickOut = s.tickOut := rfl
@[simp] theorem modTask_time (i : Nat) (f : Task → Task) : (modTask s i f).time = s.time := rfl
@[simp] theorem modTask_boot (i : Nat) (f : Task → Task) : (modTask s i f).boot = s.boot := rfl
@[simp] theorem modTask_pwrlim (i : Nat) (f : Task → Task) : (modTask s i f).pwrlim = s.pwrlim := rfl
@[simp] theorem modTask_limited (i : Nat) (f : Task → Task) : (modTask s i f).limited = s.limited := rfl

/-! ### emit -/

@[simp] theorem emit_cur (e : OutEv) : (emit s e).cur = s.cur := rfl
@[simp] theorem emit_actor (e : OutEv) : (emit s e).actor = s.actor := rfl
@[simp] theorem emit_agenda (e : OutEv) : (emit s e).agenda = s.agenda := rfl
@[simp] theorem emit_deferred (e : OutEv) : (emit s e).deferred = s.deferred := rfl
@[simp] theorem emit_stale (e : OutEv) : (emit s e).stale = s.stale := rfl
@[simp] theorem emit_free (e : OutEv) : (emit s e).free = s.free := rfl
@[simp] theorem emit_reply (e : OutEv) : (emit s e).reply = s.reply := rfl
@[simp] theorem emit_cycle (e : OutEv) : (emit s e).cycle = s.cycle := rfl
@[simp] theorem emit_cores (e : OutEv) : (emit s e).cores = s.cores := rfl
@[simp] theorem emit_svcs (e : OutEv) : (emit s e).svcs = s.svcs := rfl
@[simp] theorem emit_hbm (e : OutEv) : (emit s e).hbm = s.hbm := rfl
@[simp] theorem emit_hostMem (e : OutEv) : (emit s e).hostMem = s.hostMem := rfl
@[simp] theorem emit_poison (e : OutEv) : (emit s e).poison = s.poison := rfl
@[simp] theorem emit_partials (e : OutEv) : (emit s e).partials = s.partials := rfl
@[simp] theorem emit_lines (e : OutEv) : (emit s e).lines = s.lines := rfl
@[simp] theorem emit_scAt (e : OutEv) : (emit s e).scAt = s.scAt := rfl
@[simp] theorem emit_plru (e : OutEv) : (emit s e).plru = s.plru := rfl
@[simp] theorem emit_combine (e : OutEv) : (emit s e).combine = s.combine := rfl
@[simp] theorem emit_reqs (e : OutEv) : (emit s e).reqs = s.reqs := rfl
@[simp] theorem emit_nextId (e : OutEv) : (emit s e).nextId = s.nextId := rfl
@[simp] theorem emit_btlb (e : OutEv) : (emit s e).btlb = s.btlb := rfl
@[simp] theorem emit_walks (e : OutEv) : (emit s e).walks = s.walks := rfl
@[simp] theorem emit_hostReads (e : OutEv) : (emit s e).hostReads = s.hostReads := rfl
@[simp] theorem emit_hostQ (e : OutEv) : (emit s e).hostQ = s.hostQ := rfl
@[simp] theorem emit_packets (e : OutEv) : (emit s e).packets = s.packets := rfl
@[simp] theorem emit_flows (e : OutEv) : (emit s e).flows = s.flows := rfl
@[simp] theorem emit_slotsResv (e : OutEv) : (emit s e).slotsResv = s.slotsResv := rfl
@[simp] theorem emit_bufreqs (e : OutEv) : (emit s e).bufreqs = s.bufreqs := rfl
@[simp] theorem emit_hbmStacks (e : OutEv) : (emit s e).hbmStacks = s.hbmStacks := rfl
@[simp] theorem emit_vlogs (e : OutEv) : (emit s e).vlogs = s.vlogs := rfl
@[simp] theorem emit_queues (e : OutEv) : (emit s e).queues = s.queues := rfl
@[simp] theorem emit_tasks (e : OutEv) : (emit s e).tasks = s.tasks := rfl
@[simp] theorem emit_nextTask (e : OutEv) : (emit s e).nextTask = s.nextTask := rfl
@[simp] theorem emit_lastStart (e : OutEv) : (emit s e).lastStart = s.lastStart := rfl
@[simp] theorem emit_served (e : OutEv) : (emit s e).served = s.served := rfl
@[simp] theorem emit_jobs (e : OutEv) : (emit s e).jobs = s.jobs := rfl
@[simp] theorem emit_rings (e : OutEv) : (emit s e).rings = s.rings := rfl
@[simp] theorem emit_vfwin (e : OutEv) : (emit s e).vfwin = s.vfwin := rfl
@[simp] theorem emit_msix (e : OutEv) : (emit s e).msix = s.msix := rfl
@[simp] theorem emit_exid (e : OutEv) : (emit s e).exid = s.exid := rfl
@[simp] theorem emit_xports (e : OutEv) : (emit s e).xports = s.xports := rfl
@[simp] theorem emit_messages (e : OutEv) : (emit s e).messages = s.messages := rfl
@[simp] theorem emit_redSlots (e : OutEv) : (emit s e).redSlots = s.redSlots := rfl
@[simp] theorem emit_redWait (e : OutEv) : (emit s e).redWait = s.redWait := rfl
@[simp] theorem emit_redIn (e : OutEv) : (emit s e).redIn = s.redIn := rfl
@[simp] theorem emit_resIn (e : OutEv) : (emit s e).resIn = s.resIn := rfl
@[simp] theorem emit_sends (e : OutEv) : (emit s e).sends = s.sends := rfl
@[simp] theorem emit_frames (e : OutEv) : (emit s e).frames = s.frames := rfl
@[simp] theorem emit_tickOut (e : OutEv) : (emit s e).tickOut = s.tickOut := rfl
@[simp] theorem emit_time (e : OutEv) : (emit s e).time = s.time := rfl
@[simp] theorem emit_boot (e : OutEv) : (emit s e).boot = s.boot := rfl
@[simp] theorem emit_pwrlim (e : OutEv) : (emit s e).pwrlim = s.pwrlim := rfl
@[simp] theorem emit_limited (e : OutEv) : (emit s e).limited = s.limited := rfl

/-! ### The parts an update makes -/

@[simp] theorem setCore_cores (c : Nat) (x : Core) : (setCore s c x).cores = put s.cores c x := rfl
@[simp] theorem modSvc_svcs (n : Nat) (f : Svc → Svc) : (modSvc s n f).svcs = put s.svcs n (f (svcOf s n)) := rfl
@[simp] theorem modJob_jobs (a : Nat) (f : Job → Job) : (modJob s a f).jobs = put s.jobs a (f (jobOf s a)) := rfl
@[simp] theorem emit_events (e : OutEv) : (emit s e).events = s.events ++ [e] := rfl

end Sys2Proof.Machine
end

