-- ==== Sys2Proof/Laws/Ops.lean ====
section
/-! SUPPORT. What the shared operations on a sequencer do: one lemma for each, which says all of it. -/
namespace Sys2Proof.Machine
open Sys2Proof.Safety

/-! ### Reading a part after updating it -/

@[simp] theorem coreOf_modCore_same (s : State) (c : Nat) (f : Core → Core) :
    coreOf (modCore s c f) c = f (coreOf s c) := by simp [coreOf, modCore, setCore]

theorem coreOf_modCore_other (s : State) {c d : Nat} (f : Core → Core) (h : d ≠ c) :
    coreOf (modCore s c f) d = coreOf s d := by simp [coreOf, modCore, setCore, lookD_put_other _ _ _ h]

@[simp] theorem ctxOf_modCtx_same (s : State) (c k : Nat) (f : Ctx → Ctx) :
    ctxOf (modCtx s c k f) c k = f (ctxOf s c k) := by simp [ctxOf, modCtx, setCtx, ctxIn]

@[simp] theorem svcOf_modSvc_same (s : State) (n : Nat) (f : Svc → Svc) : svcOf (modSvc s n f) n = f (svcOf s n) := by
  simp [svcOf, modSvc]

@[simp] theorem modCore_modCore (s : State) (c : Nat) (f g : Core → Core) :
    modCore (modCore s c f) c g = modCore s c fun x => g (f x) := by
  simp [modCore, setCore, coreOf]

@[simp] theorem modCtx_modCtx (s : State) (c k : Nat) (f g : Ctx → Ctx) :
    modCtx (modCtx s c k f) c k g = modCtx s c k fun x => g (f x) := by
  simp [modCtx, setCtx, ctxOf, ctxIn]

@[simp] theorem modSvc_modSvc (s : State) (n : Nat) (f g : Svc → Svc) :
    modSvc (modSvc s n f) n g = modSvc s n fun v => g (f v) := by
  simp [modSvc, svcOf]

theorem modCtx_congr (s : State) (c k : Nat) (f g : Ctx → Ctx) (h : f (ctxOf s c k) = g (ctxOf s c k)) :
    modCtx s c k f = modCtx s c k g := by simp [modCtx, h]

theorem modSvc_congr (s : State) (n : Nat) (f g : Svc → Svc) (h : f (svcOf s n) = g (svcOf s n)) :
    modSvc s n f = modSvc s n g := by simp [modSvc, h]

/-! ### Registers of a sequencer -/

@[simp] theorem readS_zero (q : Seq) : readS q 0 = 0 := by simp [readS]
@[simp] theorem readP_zero (q : Seq) : readP q 0 = true := by simp [readP]

/-- Reading a scalar after a write: S0 discards it (R3). -/
theorem readS_writeS (q : Seq) (d r : Reg) (v : Word) :
    readS (writeS q d v) r = if r = d ∧ d ≠ 0 then v else readS q r := by
  by_cases hd : d = 0
  · rw [writeS, if_pos hd, if_neg fun h => h.2 hd]
  · by_cases hr : r = 0
    · rw [hr, readS, if_pos rfl, readS, if_pos rfl, if_neg fun h => hd h.1.symm]
    · rw [writeS, if_neg hd, readS, if_neg hr, readS, if_neg hr]
      by_cases h : r = d
      · rw [if_pos ⟨h, hd⟩, h]; exact lookD_put_same _ _ _ _
      · rw [if_neg fun e => h e.1]
        exact lookD_put_other _ _ _ fun e => h (BitVec.eq_of_toNat_eq e)

/-- Reading a predicate after a write: P0 stays true (R3). -/
theorem readP_writeP (q : Seq) (d p : Pred) (v : Bool) :
    readP (writeP q d v) p = if p = d ∧ d ≠ 0 then v else readP q p := by
  by_cases hd : d = 0
  · simp [writeP, hd]
  · have key : ∀ (x : BitVec 8) (d p : BitVec 3) (v : Bool),
        (if v then x ||| (1#8 <<< d.toNat) else x &&& ~~~(1#8 <<< d.toNat)).getLsbD p.toNat =
          if p = d then v else x.getLsbD p.toNat := by
      intro x d p v
      by_cases h : p = d
      · subst h
        cases v <;> simp [BitVec.getLsbD_shiftLeft] <;> omega
      · have hn : p.toNat ≠ d.toNat := fun e => h (BitVec.eq_of_toNat_eq e)
        have hp : p.toNat < 8 := p.isLt
        cases v <;> simp [BitVec.getLsbD_shiftLeft, h, BitVec.getLsbD_one] <;> omega
    by_cases hp : p = 0
    · rw [hp, readP, if_pos rfl, readP, if_pos rfl, if_neg fun h => hd h.1.symm]
    · simp only [readP, hp, if_false, writeP, hd, ne_eq, not_false_eq_true, and_true]
      exact key q.p d p v

/-! ### Changing the executing sequencer -/

theorem modSeq_cur (s : State) (a : Actor) (f : Seq → Seq) : (modSeq s a f).cur = s.cur := by
  cases a <;> rfl

@[simp] theorem modCur_cur (s : State) (f : Seq → Seq) : (modCur s f).cur = s.cur := modSeq_cur s s.cur f

@[simp] theorem progressed_cur (s : State) : (progressed s).cur = s.cur := by
  unfold progressed; split <;> simp_all [markProgress]

/-- The executing sequencer after a change that also marks progress. -/
theorem curSeq_progressed_modCur (s : State) (f : Seq → Seq) (h : seqActs s = true) :
    curSeq (progressed (modCur s f)) = f (curSeq s) := by
  cases hc : s.cur <;> simp_all [seqActs, curSeq, progressed, modCur, modSeq, seqOf, markProgress]

theorem curSeq_modCur (s : State) (f : Seq → Seq) (h : seqActs s = true) : curSeq (modCur s f) = f (curSeq s) := by
  cases hc : s.cur <;> simp_all [seqActs, curSeq, modCur, modSeq, seqOf]

/-- A change of the executing sequencer changes nothing else. -/
theorem onlySeq_progressed_modCur (s : State) (f : Seq → Seq) : OnlySeq s (progressed (modCur s f)) := by
  cases hc : s.cur <;> simp [OnlySeq, hideSeq, progressed, modCur, modSeq, markProgress, hc]

theorem onlySeq_modCur (s : State) (f : Seq → Seq) : OnlySeq s (modCur s f) := by
  cases hc : s.cur <;> simp [OnlySeq, hideSeq, modCur, modSeq, hc]

/-! ### Retirement -/

theorem seqRetired_writeS (q : Seq) (d : Reg) (v : Word) (n : Nat) :
    seqRetired (writeS q d v) n = writeS (seqRetired q n) d v := by
  unfold writeS seqRetired; split <;> rfl

theorem seqRetired_writeP (q : Seq) (d : Pred) (v : Bool) (n : Nat) :
    seqRetired (writeP q d v) n = writeP (seqRetired q n) d v := by
  unfold writeP seqRetired; split <;> rfl

@[simp] theorem readS_seqRetired (q : Seq) (n : Nat) (r : Reg) : readS (seqRetired q n) r = readS q r := rfl
@[simp] theorem readP_seqRetired (q : Seq) (n : Nat) (p : Pred) : readP (seqRetired q n) p = readP q p := rfl

/-- All that writing a scalar and retiring does. -/
theorem retireS_spec (s : State) (d : Reg) (v : Word) (n : Nat) (h : seqActs s = true) :
    WritesS s (retireS s d v n) d v n := by
  refine ⟨fun r => ?_, ?_, onlySeq_progressed_modCur s _⟩
  · rw [retireS, curSeq_progressed_modCur s _ h, readS_seqRetired, readS_writeS]
  · rw [RetiresButS, retireS, curSeq_progressed_modCur s _ h, seqRetired_writeS]
    unfold writeS seqRetired; split <;> rfl

/-- All that writing a predicate and retiring does. -/
theorem retireP_spec (s : State) (d : Pred) (v : Bool) (h : seqActs s = true) : WritesP s (retireP s d v) d v := by
  refine ⟨fun p => ?_, ?_, onlySeq_progressed_modCur s _⟩
  · rw [retireP, curSeq_progressed_modCur s _ h, readP_seqRetired, readP_writeP]
  · rw [RetiresButP, retireP, curSeq_progressed_modCur s _ h, seqRetired_writeP]
    unfold writeP seqRetired; split <;> rfl

/-- All that retiring does. -/
theorem retire_spec (s : State) (n : Nat) (h : seqActs s = true) : Retires s (retire s n) n ∧ OnlySeq s (retire s n) :=
  ⟨curSeq_progressed_modCur s _ h, onlySeq_progressed_modCur s _⟩

/-- A guard that passes runs the meaning; one that fails only retires the instruction (R217). -/
theorem guarded_pass (g : Guard) (s : State) (b : State → State) (h : guardHolds (curSeq s) g = true) :
    guarded g s b = b s := by simp [guarded, h]
theorem guarded_fail (g : Guard) (s : State) (b : State → State) (h : guardHolds (curSeq s) g = false) :
    guarded g s b = retire s 1 := by simp [guarded, h]

/-- Without an active loop, an instruction of n words continues at the next word (R215). -/
theorem seqRetired_pc (q : Seq) (n : Nat) (h : q.loops = []) (hn : n = 1 ∨ n = 2) :
    (seqRetired q n).pc = q.pc + BitVec.ofNat 64 (4 * n) := by
  rcases hn with rfl | rfl
  · simp [seqRetired, h, loopStep]
  · simp only [seqRetired, h, loopStep]
    show q.pc + BitVec.ofNat 64 4 + 4 = q.pc + BitVec.ofNat 64 8
    rw [BitVec.add_assoc]; rfl

/-! ### Plies -/

theorem placePly_perm (p : Nat × Ply) (l : List (Nat × Ply)) : (placePly p l).Perm (p :: l) := by
  induction l with
  | nil => exact .refl _
  | cons q r ih =>
    unfold placePly
    split
    · exact .refl _
    · exact (ih.cons q).trans (.swap p q r)

/-- A unit's plies are those its core's contexts hold for it, in an order of their own (R62). -/
theorem unitPlies_perm (y : Core) (u : Nat) :
    (unitPlies y u).Perm (y.ctxs.flatMap fun p => (lookD p.2.plies u []).map fun l => (p.1, l)) := by
  have key : ∀ l m : List (Nat × Ply), (l.foldl (fun r p => placePly p r) m).Perm (m ++ l) := by
    intro l
    induction l with
    | nil => intro m; simp
    | cons p r ih => exact fun m => (ih _).trans (((placePly_perm p m).append_right r).trans List.perm_middle.symm)
  simpa [unitPlies] using key _ []

/-- An event's operand keeps its index and what the arrays give (log 75). -/
@[simp] theorem eccOf_withEcc (i : Nat) (x : Ecc) : eccOf (withEcc i x) = x := by
  cases x <;> simp [withEcc, eccOf, Nat.add_mod]

@[simp] theorem withEcc_div (i : Nat) (x : Ecc) : withEcc i x / 3 = i := by
  cases x <;> simp only [withEcc] <;> omega

end Sys2Proof.Machine
end

