-- ==== Sys2Proof/Laws/PerInstr.lean ====
section
/-! SUPPORT. Statements about every instruction as syntax, one lemma per constructor: an encoding has at most two words. -/
namespace Sys2Proof.Laws.EncodingLength
set_option Elab.async false

/-- An instruction encodes in at most two words; an event, which has no word, in none (R216, R222, R225). -/
def Statement (i : Instr) : Prop := (encode i).length ≤ 2

theorem add (x0 x1 x2 x3) : Statement (.add x0 x1 x2 x3) := Nat.le_succ 1
theorem sub (x0 x1 x2 x3) : Statement (.sub x0 x1 x2 x3) := Nat.le_succ 1
theorem mul (x0 x1 x2 x3) : Statement (.mul x0 x1 x2 x3) := Nat.le_succ 1
theorem mulh (x0 x1 x2 x3) : Statement (.mulh x0 x1 x2 x3) := Nat.le_succ 1
theorem mulhu (x0 x1 x2 x3) : Statement (.mulhu x0 x1 x2 x3) := Nat.le_succ 1
theorem div (x0 x1 x2 x3) : Statement (.div x0 x1 x2 x3) := Nat.le_succ 1
theorem divu (x0 x1 x2 x3) : Statement (.divu x0 x1 x2 x3) := Nat.le_succ 1
theorem rem (x0 x1 x2 x3) : Statement (.rem x0 x1 x2 x3) := Nat.le_succ 1
theorem remu (x0 x1 x2 x3) : Statement (.remu x0 x1 x2 x3) := Nat.le_succ 1
theorem and (x0 x1 x2 x3) : Statement (.and x0 x1 x2 x3) := Nat.le_succ 1
theorem or (x0 x1 x2 x3) : Statement (.or x0 x1 x2 x3) := Nat.le_succ 1
theorem xor (x0 x1 x2 x3) : Statement (.xor x0 x1 x2 x3) := Nat.le_succ 1
theorem andn (x0 x1 x2 x3) : Statement (.andn x0 x1 x2 x3) := Nat.le_succ 1
theorem shl (x0 x1 x2 x3) : Statement (.shl x0 x1 x2 x3) := Nat.le_succ 1
theorem shr (x0 x1 x2 x3) : Statement (.shr x0 x1 x2 x3) := Nat.le_succ 1
theorem sra (x0 x1 x2 x3) : Statement (.sra x0 x1 x2 x3) := Nat.le_succ 1
theorem rol (x0 x1 x2 x3) : Statement (.rol x0 x1 x2 x3) := Nat.le_succ 1
theorem min (x0 x1 x2 x3) : Statement (.min x0 x1 x2 x3) := Nat.le_succ 1
theorem max (x0 x1 x2 x3) : Statement (.max x0 x1 x2 x3) := Nat.le_succ 1
theorem minu (x0 x1 x2 x3) : Statement (.minu x0 x1 x2 x3) := Nat.le_succ 1
theorem maxu (x0 x1 x2 x3) : Statement (.maxu x0 x1 x2 x3) := Nat.le_succ 1
theorem clz (x0 x1 x2) : Statement (.clz x0 x1 x2) := Nat.le_succ 1
theorem ctz (x0 x1 x2) : Statement (.ctz x0 x1 x2) := Nat.le_succ 1
theorem popc (x0 x1 x2) : Statement (.popc x0 x1 x2) := Nat.le_succ 1
theorem brev (x0 x1 x2) : Statement (.brev x0 x1 x2) := Nat.le_succ 1
theorem sextB (x0 x1 x2) : Statement (.sextB x0 x1 x2) := Nat.le_succ 1
theorem sextH (x0 x1 x2) : Statement (.sextH x0 x1 x2) := Nat.le_succ 1
theorem sextW (x0 x1 x2) : Statement (.sextW x0 x1 x2) := Nat.le_succ 1
theorem zextB (x0 x1 x2) : Statement (.zextB x0 x1 x2) := Nat.le_succ 1
theorem zextH (x0 x1 x2) : Statement (.zextH x0 x1 x2) := Nat.le_succ 1
theorem zextW (x0 x1 x2) : Statement (.zextW x0 x1 x2) := Nat.le_succ 1
theorem lea (x0 x1 x2 x3 x4) : Statement (.lea x0 x1 x2 x3 x4) := Nat.le_succ 1
theorem addi (x0 x1 x2) : Statement (.addi x0 x1 x2) := Nat.le_succ 1
theorem andi (x0 x1 x2) : Statement (.andi x0 x1 x2) := Nat.le_succ 1
theorem ori (x0 x1 x2) : Statement (.ori x0 x1 x2) := Nat.le_succ 1
theorem xori (x0 x1 x2) : Statement (.xori x0 x1 x2) := Nat.le_succ 1
theorem shli (x0 x1 x2) : Statement (.shli x0 x1 x2) := Nat.le_succ 1
theorem shri (x0 x1 x2) : Statement (.shri x0 x1 x2) := Nat.le_succ 1
theorem srai (x0 x1 x2) : Statement (.srai x0 x1 x2) := Nat.le_succ 1
theorem lui (x0 x1) : Statement (.lui x0 x1) := Nat.le_succ 1
theorem movi (x0 x1) : Statement (.movi x0 x1) := Nat.le_succ 1
theorem moviSx (x0 x1) : Statement (.moviSx x0 x1) := Nat.le_refl 2
theorem pset (x0 x1 x2 x3 x4) : Statement (.pset x0 x1 x2 x3 x4) := Nat.le_succ 1
theorem pseti (x0 x1 x2 x3) : Statement (.pseti x0 x1 x2 x3) := Nat.le_succ 1
theorem pand (x0 x1 x2 x3) : Statement (.pand x0 x1 x2 x3) := Nat.le_succ 1
theorem por (x0 x1 x2 x3) : Statement (.por x0 x1 x2 x3) := Nat.le_succ 1
theorem pxor (x0 x1 x2 x3) : Statement (.pxor x0 x1 x2 x3) := Nat.le_succ 1
theorem pnot (x0 x1 x2) : Statement (.pnot x0 x1 x2) := Nat.le_succ 1
theorem sel (x0 x1 x2 x3) : Statement (.sel x0 x1 x2 x3) := Nat.le_succ 1
theorem br (x0 x1) : Statement (.br x0 x1) := Nat.le_succ 1
theorem jmp (x0) : Statement (.jmp x0) := Nat.le_succ 1
theorem call (x0) : Statement (.call x0) := Nat.le_succ 1
theorem jr (x0 x1) : Statement (.jr x0 x1) := Nat.le_succ 1
theorem callr (x0 x1) : Statement (.callr x0 x1) := Nat.le_succ 1
theorem ret (x0) : Statement (.ret x0) := Nat.le_succ 1
theorem trap (x0 x1) : Statement (.trap x0 x1) := Nat.le_succ 1
theorem hret (x0) : Statement (.hret x0) := Nat.le_succ 1
theorem dstop (x0) : Statement (.dstop x0) := Nat.le_succ 1
theorem nop (x0) : Statement (.nop x0) := Nat.le_succ 1
theorem halt (x0) : Statement (.halt x0) := Nat.le_succ 1
theorem loop (x0 x1 x2) : Statement (.loop x0 x1 x2) := Nat.le_succ 1
theorem loopr (x0 x1 x2) : Statement (.loopr x0 x1 x2) := Nat.le_succ 1
theorem lds (x0 x1 x2 x3 x4) : Statement (.lds x0 x1 x2 x3 x4) := Nat.le_succ 1
theorem ldsc (x0 x1 x2 x3) : Statement (.ldsc x0 x1 x2 x3) := Nat.le_succ 1
theorem ldsSx (x0 x1 x2 x3 x4) : Statement (.ldsSx x0 x1 x2 x3 x4) := Nat.le_refl 2
theorem sts (x0 x1 x2 x3 x4) : Statement (.sts x0 x1 x2 x3 x4) := Nat.le_succ 1
theorem stsc (x0 x1 x2 x3) : Statement (.stsc x0 x1 x2 x3) := Nat.le_succ 1
theorem stsSx (x0 x1 x2 x3 x4) : Statement (.stsSx x0 x1 x2 x3 x4) := Nat.le_refl 2
theorem aadd (x0 x1 x2 x3 x4 x5) : Statement (.aadd x0 x1 x2 x3 x4 x5) := Nat.le_succ 1
theorem aand (x0 x1 x2 x3 x4 x5) : Statement (.aand x0 x1 x2 x3 x4 x5) := Nat.le_succ 1
theorem aor (x0 x1 x2 x3 x4 x5) : Statement (.aor x0 x1 x2 x3 x4 x5) := Nat.le_succ 1
theorem axor (x0 x1 x2 x3 x4 x5) : Statement (.axor x0 x1 x2 x3 x4 x5) := Nat.le_succ 1
theorem amin (x0 x1 x2 x3 x4 x5) : Statement (.amin x0 x1 x2 x3 x4 x5) := Nat.le_succ 1
theorem amax (x0 x1 x2 x3 x4 x5) : Statement (.amax x0 x1 x2 x3 x4 x5) := Nat.le_succ 1
theorem aminu (x0 x1 x2 x3 x4 x5) : Statement (.aminu x0 x1 x2 x3 x4 x5) := Nat.le_succ 1
theorem amaxu (x0 x1 x2 x3 x4 x5) : Statement (.amaxu x0 x1 x2 x3 x4 x5) := Nat.le_succ 1
theorem aswp (x0 x1 x2 x3 x4 x5) : Statement (.aswp x0 x1 x2 x3 x4 x5) := Nat.le_succ 1
theorem acas (x0 x1 x2 x3 x4 x5) : Statement (.acas x0 x1 x2 x3 x4 x5) := Nat.le_succ 1
theorem afmin (x0 x1 x2 x3 x4) : Statement (.afmin x0 x1 x2 x3 x4) := Nat.le_succ 1
theorem afmax (x0 x1 x2 x3 x4) : Statement (.afmax x0 x1 x2 x3 x4) := Nat.le_succ 1
theorem axadd (x0 x1 x2 x3) : Statement (.axadd x0 x1 x2 x3) := Nat.le_succ 1
theorem axrd (x0 x1 x2 x3) : Statement (.axrd x0 x1 x2 x3) := Nat.le_succ 1
theorem axclr (x0 x1) : Statement (.axclr x0 x1) := Nat.le_succ 1
theorem bld (x0 x1 x2 x3 x4) : Statement (.bld x0 x1 x2 x3 x4) := Nat.le_succ 1
theorem bst (x0 x1 x2 x3 x4) : Statement (.bst x0 x1 x2 x3 x4) := Nat.le_succ 1
theorem bldSx (x0 x1 x2 x3) : Statement (.bldSx x0 x1 x2 x3) := Nat.le_refl 2
theorem bstSx (x0 x1 x2 x3) : Statement (.bstSx x0 x1 x2 x3) := Nat.le_refl 2
theorem halloc (x0 x1 x2 x3) : Statement (.halloc x0 x1 x2 x3) := Nat.le_succ 1
theorem hfree (x0 x1) : Statement (.hfree x0 x1) := Nat.le_succ 1
theorem hgive (x0 x1 x2) : Statement (.hgive x0 x1 x2) := Nat.le_succ 1
theorem htake (x0 x1 x2 x3) : Statement (.htake x0 x1 x2 x3) := Nat.le_succ 1
theorem hqry (x0 x1 x2) : Statement (.hqry x0 x1 x2) := Nat.le_succ 1
theorem copy (x0 x1 x2) : Statement (.copy x0 x1 x2) := Nat.le_succ 1
theorem cpwait (x0 x1) : Statement (.cpwait x0 x1) := Nat.le_succ 1
theorem cpqry (x0 x1 x2) : Statement (.cpqry x0 x1 x2) := Nat.le_succ 1
theorem fence (x0 x1) : Statement (.fence x0 x1) := Nat.le_succ 1
theorem fenceAcq (x0 x1) : Statement (.fenceAcq x0 x1) := Nat.le_succ 1
theorem fenceRel (x0 x1) : Statement (.fenceRel x0 x1) := Nat.le_succ 1
theorem bara (x0 x1 x2 x3) : Statement (.bara x0 x1 x2 x3) := Nat.le_succ 1
theorem barw (x0 x1 x2 x3) : Statement (.barw x0 x1 x2 x3) := Nat.le_succ 1
theorem bar (x0 x1 x2) : Statement (.bar x0 x1 x2) := Nat.le_succ 1
theorem nmcmd (x0 x1) : Statement (.nmcmd x0 x1) := Nat.le_succ 1
theorem nmfence (x0) : Statement (.nmfence x0) := Nat.le_succ 1
theorem nmstat (x0 x1 x2) : Statement (.nmstat x0 x1 x2) := Nat.le_succ 1
theorem xsend (x0 x1) : Statement (.xsend x0 x1) := Nat.le_succ 1
theorem xrecv (x0 x1 x2 x3) : Statement (.xrecv x0 x1 x2 x3) := Nat.le_succ 1
theorem xred (x0 x1) : Statement (.xred x0 x1) := Nat.le_succ 1
theorem xrslt (x0 x1 x2) : Statement (.xrslt x0 x1 x2) := Nat.le_succ 1
theorem blkrun (x0 x1 x2 x3) : Statement (.blkrun x0 x1 x2 x3) := Nat.le_succ 1
theorem blkpin (x0 x1 x2) : Statement (.blkpin x0 x1 x2) := Nat.le_succ 1
theorem blkunpin (x0) : Statement (.blkunpin x0) := Nat.le_succ 1
theorem jigmap (x0 x1) : Statement (.jigmap x0 x1) := Nat.le_succ 1
theorem cfgswap (x0) : Statement (.cfgswap x0) := Nat.le_succ 1
theorem inj (x0 x1 x2 x3) : Statement (.inj x0 x1 x2 x3) := Nat.le_succ 1
theorem snkrd (x0 x1 x2 x3) : Statement (.snkrd x0 x1 x2 x3) := Nat.le_succ 1
theorem argw (x0 x1) : Statement (.argw x0 x1) := Nat.le_succ 1
theorem round : Statement (.round) := Nat.le_succ 1
theorem gate (x0 x1) : Statement (.gate x0 x1) := Nat.le_succ 1
theorem gateWait (x0 x1) : Statement (.gateWait x0 x1) := Nat.le_succ 1
theorem gateOpen (x0 x1) : Statement (.gateOpen x0 x1) := Nat.le_succ 1
theorem strm (x0 x1) : Statement (.strm x0 x1) := Nat.le_succ 1
theorem sbar (x0) : Statement (.sbar x0) := Nat.le_succ 1
theorem spos (x0 x1) : Statement (.spos x0 x1) := Nat.le_succ 1
theorem tdef (x0 x1) : Statement (.tdef x0 x1) := Nat.le_succ 1
theorem tqry (x0 x1) : Statement (.tqry x0 x1) := Nat.le_succ 1
theorem ttagFull (x0) : Statement (.ttagFull x0) := Nat.le_succ 1
theorem ttagEmpty (x0) : Statement (.ttagEmpty x0) := Nat.le_succ 1
theorem ttagWaitfull (x0) : Statement (.ttagWaitfull x0) := Nat.le_succ 1
theorem ttagWaitempty (x0) : Statement (.ttagWaitempty x0) := Nat.le_succ 1
theorem gath (x0 x1 x2) : Statement (.gath x0 x1 x2) := Nat.le_succ 1
theorem mmbind (x0 x1 x2) : Statement (.mmbind x0 x1 x2) := Nat.le_succ 1
theorem mmunb (x0) : Statement (.mmunb x0) := Nat.le_succ 1
theorem mmepi (x0 x1 x2 x3 x4) : Statement (.mmepi x0 x1 x2 x3 x4) := Nat.le_succ 1
theorem mmsmxStart (x0 x1 x2) : Statement (.mmsmxStart x0 x1 x2) := Nat.le_succ 1
theorem mmsmxFin (x0 x1 x2) : Statement (.mmsmxFin x0 x1 x2) := Nat.le_succ 1
theorem mmstat (x0 x1 x2) : Statement (.mmstat x0 x1 x2) := Nat.le_succ 1
theorem qtld (x0 x1) : Statement (.qtld x0 x1) := Nat.le_succ 1
theorem qwld (x0 x1) : Statement (.qwld x0 x1) := Nat.le_succ 1
theorem qctxClaim : Statement (.qctxClaim) := Nat.le_succ 1
theorem qctxRelease : Statement (.qctxRelease) := Nat.le_succ 1
theorem qctxClear : Statement (.qctxClear) := Nat.le_succ 1
theorem qrun (x0) : Statement (.qrun x0) := Nat.le_succ 1
theorem xpose (x0 x1 x2) : Statement (.xpose x0 x1 x2) := Nat.le_succ 1
theorem xposb (x0 x1) : Statement (.xposb x0 x1) := Nat.le_succ 1
theorem qpopc (x0 x1 x2 x3 x4) : Statement (.qpopc x0 x1 x2 x3 x4) := Nat.le_succ 1
theorem qbrk (x0 x1) : Statement (.qbrk x0 x1) := Nat.le_succ 1
theorem qstatMq (x0 x1) : Statement (.qstatMq x0 x1) := Nat.le_succ 1
theorem qpush (x0 x1 x2 x3) : Statement (.qpush x0 x1 x2 x3) := Nat.le_succ 1
theorem qpushw (x0 x1 x2) : Statement (.qpushw x0 x1 x2) := Nat.le_succ 1
theorem qpop (x0 x1 x2 x3) : Statement (.qpop x0 x1 x2 x3) := Nat.le_succ 1
theorem qstat (x0 x1 x2) : Statement (.qstat x0 x1 x2) := Nat.le_succ 1
theorem doze (x0 x1 x2) : Statement (.doze x0 x1 x2) := Nat.le_succ 1
theorem poke (x0 x1) : Statement (.poke x0 x1) := Nat.le_succ 1
theorem mfsr (x0 x1) : Statement (.mfsr x0 x1) := Nat.le_succ 1
theorem mtsr (x0 x1) : Statement (.mtsr x0 x1) := Nat.le_succ 1
theorem tlbinv (x0 x1 x2 x3) : Statement (.tlbinv x0 x1 x2 x3) := Nat.le_succ 1
theorem tlbinvAsid (x0 x1 x2) : Statement (.tlbinvAsid x0 x1 x2) := Nat.le_succ 1
theorem tlbinvAll (x0 x1) : Statement (.tlbinvAll x0 x1) := Nat.le_succ 1
theorem icinv (x0 x1) : Statement (.icinv x0 x1) := Nat.le_succ 1
theorem icinvAll (x0) : Statement (.icinvAll x0) := Nat.le_succ 1
theorem clamp (x0) : Statement (.clamp x0) := Nat.le_succ 1
theorem ctxsave (x0 x1 x2 x3) : Statement (.ctxsave x0 x1 x2 x3) := Nat.le_succ 1
theorem ctxrest (x0 x1 x2 x3) : Statement (.ctxrest x0 x1 x2 x3) := Nat.le_succ 1
theorem trcon (x0 x1) : Statement (.trcon x0 x1) := Nat.le_succ 1
theorem trcoff (x0) : Statement (.trcoff x0) := Nat.le_succ 1
theorem trmark (x0 x1) : Statement (.trmark x0 x1) := Nat.le_succ 1
theorem ldecl (x0 x1) : Statement (.ldecl x0 x1) := Nat.le_refl 2
theorem ply (x0 x1 x2 x3) : Statement (.ply x0 x1 x2 x3) := Nat.le_refl 2
theorem rdl (x0 x1 x2 x3) : Statement (.rdl x0 x1 x2 x3) := Nat.le_refl 2
theorem settle (x0) : Statement (.settle x0) := Nat.le_refl 2
theorem fadd (x0 x1 x2) : Statement (.fadd x0 x1 x2) := Nat.le_succ 1
theorem fsub (x0 x1 x2) : Statement (.fsub x0 x1 x2) := Nat.le_succ 1
theorem fmul (x0 x1 x2) : Statement (.fmul x0 x1 x2) := Nat.le_succ 1
theorem ffma (x0 x1 x2) : Statement (.ffma x0 x1 x2) := Nat.le_succ 1
theorem ffms (x0 x1 x2) : Statement (.ffms x0 x1 x2) := Nat.le_succ 1
theorem fmin (x0 x1) : Statement (.fmin x0 x1) := Nat.le_succ 1
theorem fmax (x0 x1) : Statement (.fmax x0 x1) := Nat.le_succ 1
theorem fabs (x0 x1) : Statement (.fabs x0 x1) := Nat.le_succ 1
theorem fneg (x0 x1) : Statement (.fneg x0 x1) := Nat.le_succ 1
theorem frcp (x0) : Statement (.frcp x0) := Nat.le_succ 1
theorem fsqrt (x0) : Statement (.fsqrt x0) := Nat.le_succ 1
theorem frsq (x0) : Statement (.frsq x0) := Nat.le_succ 1
theorem fexp2 (x0) : Statement (.fexp2 x0) := Nat.le_succ 1
theorem flog2 (x0) : Statement (.flog2 x0) := Nat.le_succ 1
theorem ftanh (x0) : Statement (.ftanh x0) := Nat.le_succ 1
theorem fcmp (x0 x1 x2) : Statement (.fcmp x0 x1 x2) := Nat.le_succ 1
theorem cvt (x0 x1 x2 x3 x4 x5) : Statement (.cvt x0 x1 x2 x3 x4 x5) := Nat.le_succ 1
theorem iadd (x0 x1 x2 x3) : Statement (.iadd x0 x1 x2 x3) := Nat.le_succ 1
theorem isub (x0 x1 x2 x3) : Statement (.isub x0 x1 x2 x3) := Nat.le_succ 1
theorem imul (x0 x1) : Statement (.imul x0 x1) := Nat.le_succ 1
theorem imulh (x0 x1 x2) : Statement (.imulh x0 x1 x2) := Nat.le_succ 1
theorem imad (x0 x1 x2 x3) : Statement (.imad x0 x1 x2 x3) := Nat.le_succ 1
theorem iand (x0 x1) : Statement (.iand x0 x1) := Nat.le_succ 1
theorem ior (x0 x1) : Statement (.ior x0 x1) := Nat.le_succ 1
theorem ixor (x0 x1) : Statement (.ixor x0 x1) := Nat.le_succ 1
theorem ishl (x0 x1) : Statement (.ishl x0 x1) := Nat.le_succ 1
theorem ishr (x0 x1) : Statement (.ishr x0 x1) := Nat.le_succ 1
theorem isra (x0 x1) : Statement (.isra x0 x1) := Nat.le_succ 1
theorem imin (x0 x1 x2) : Statement (.imin x0 x1 x2) := Nat.le_succ 1
theorem imax (x0 x1 x2) : Statement (.imax x0 x1 x2) := Nat.le_succ 1
theorem icmp (x0 x1 x2) : Statement (.icmp x0 x1 x2) := Nat.le_succ 1
theorem selE (x0) : Statement (.selE x0) := Nat.le_succ 1
theorem mov (x0) : Statement (.mov x0) := Nat.le_succ 1
theorem lbc (x0 x1) : Statement (.lbc x0 x1) := Nat.le_succ 1
theorem lshf (x0 x1 x2) : Statement (.lshf x0 x1 x2) := Nat.le_succ 1
theorem lred (x0 x1 x2) : Statement (.lred x0 x1 x2) := Nat.le_succ 1
theorem pack (x0 x1) : Statement (.pack x0 x1) := Nat.le_succ 1
theorem unpack (x0) : Statement (.unpack x0) := Nat.le_succ 1
theorem ctxa (x0) : Statement (.ctxa x0) := Nat.le_succ 1
theorem ctxf (x0) : Statement (.ctxf x0) := Nat.le_succ 1
theorem null (x0) : Statement (.null x0) := Nat.le_succ 1
theorem exit (x0) : Statement (.exit x0) := Nat.le_succ 1
theorem steer (x0) : Statement (.steer x0) := Nat.le_succ 1
theorem merge (x0) : Statement (.merge x0) := Nat.le_succ 1
theorem sink (x0) : Statement (.sink x0) := Nat.le_succ 1
theorem ldeclE (x0 x1) : Statement (.ldeclE x0 x1) := Nat.le_succ 1
theorem plyE (x0 x1 x2) : Statement (.plyE x0 x1 x2) := Nat.le_succ 1
theorem rdlE (x0 x1 x2) : Statement (.rdlE x0 x1 x2) := Nat.le_succ 1
theorem settleE (x0 x1) : Statement (.settleE x0 x1) := Nat.le_succ 1
theorem cnt (x0 x1 x2) : Statement (.cnt x0 x1 x2) := Nat.le_succ 1
theorem acc (x0 x1 x2) : Statement (.acc x0 x1 x2) := Nat.le_succ 1
theorem lde (x0 x1 x2 x3) : Statement (.lde x0 x1 x2 x3) := Nat.le_succ 1
theorem ldscE (x0 x1 x2) : Statement (.ldscE x0 x1 x2) := Nat.le_succ 1
theorem ste (x0 x1 x2 x3) : Statement (.ste x0 x1 x2 x3) := Nat.le_succ 1
theorem stscE (x0 x1 x2) : Statement (.stscE x0 x1 x2) := Nat.le_succ 1
theorem bldE (x0 x1 x2 x3) : Statement (.bldE x0 x1 x2 x3) := Nat.le_succ 1
theorem bstE (x0 x1 x2 x3) : Statement (.bstE x0 x1 x2 x3) := Nat.le_succ 1
theorem aaddE (x0 x1 x2) : Statement (.aaddE x0 x1 x2) := Nat.le_succ 1
theorem aandE (x0 x1 x2) : Statement (.aandE x0 x1 x2) := Nat.le_succ 1
theorem aorE (x0 x1 x2) : Statement (.aorE x0 x1 x2) := Nat.le_succ 1
theorem axorE (x0 x1 x2) : Statement (.axorE x0 x1 x2) := Nat.le_succ 1
theorem aminE (x0 x1 x2) : Statement (.aminE x0 x1 x2) := Nat.le_succ 1
theorem amaxE (x0 x1 x2) : Statement (.amaxE x0 x1 x2) := Nat.le_succ 1
theorem aminuE (x0 x1 x2) : Statement (.aminuE x0 x1 x2) := Nat.le_succ 1
theorem amaxuE (x0 x1 x2) : Statement (.amaxuE x0 x1 x2) := Nat.le_succ 1
theorem aswpE (x0 x1 x2) : Statement (.aswpE x0 x1 x2) := Nat.le_succ 1
theorem acasE (x0 x1 x2) : Statement (.acasE x0 x1 x2) := Nat.le_succ 1
theorem afminE (x0 x1 x2) : Statement (.afminE x0 x1 x2) := Nat.le_succ 1
theorem afmaxE (x0 x1 x2) : Statement (.afmaxE x0 x1 x2) := Nat.le_succ 1
theorem axaddE (x0 x1 x2 x3) : Statement (.axaddE x0 x1 x2 x3) := Nat.le_succ 1
theorem axrdE (x0 x1 x2 x3) : Statement (.axrdE x0 x1 x2 x3) := Nat.le_succ 1
theorem axclrE (x0 x1 x2) : Statement (.axclrE x0 x1 x2) := Nat.le_succ 1
theorem copyE (x0) : Statement (.copyE x0) := Nat.le_succ 1
theorem hostPostedWrite (x0 x1 x2 x3 x4) : Statement (.hostPostedWrite x0 x1 x2 x3 x4) := Nat.zero_le 2
theorem hostRead (x0 x1 x2 x3) : Statement (.hostRead x0 x1 x2 x3) := Nat.zero_le 2
theorem hostCompletion (x0 x1) : Statement (.hostCompletion x0 x1) := Nat.zero_le 2
theorem completionTimeout (x0) : Statement (.completionTimeout x0) := Nat.zero_le 2
theorem qdbRing (x0 x1 x2) : Statement (.qdbRing x0 x1 x2) := Nat.zero_le 2
theorem registerWrite (x0 x1 x2 x3) : Statement (.registerWrite x0 x1 x2 x3) := Nat.zero_le 2
theorem violationEntryFree (x0 x1 x2) : Statement (.violationEntryFree x0 x1 x2) := Nat.zero_le 2
theorem fqctlWrite (x0 x1 x2 x3) : Statement (.fqctlWrite x0 x1 x2 x3) := Nat.zero_le 2
theorem fqptrWrite (x0 x1 x2 x3) : Statement (.fqptrWrite x0 x1 x2 x3) := Nat.zero_le 2
theorem ovfbaseWrite (x0 x1 x2 x3) : Statement (.ovfbaseWrite x0 x1 x2 x3) := Nat.zero_le 2
theorem bwctlWrite (x0 x1 x2) : Statement (.bwctlWrite x0 x1 x2) := Nat.zero_le 2
theorem bwshareWrite (x0 x1 x2 x3) : Statement (.bwshareWrite x0 x1 x2 x3) := Nat.zero_le 2
theorem trapreqDone (x0 x1 x2) : Statement (.trapreqDone x0 x1 x2) := Nat.zero_le 2
theorem firstxRearm (x0 x1 x2) : Statement (.firstxRearm x0 x1 x2) := Nat.zero_le 2
theorem ueaddrClear (x0 x1) : Statement (.ueaddrClear x0 x1) := Nat.zero_le 2
theorem configSpaceWrite (x0 x1 x2 x3) : Statement (.configSpaceWrite x0 x1 x2 x3) := Nat.zero_le 2
theorem jobctlKill (x0 x1) : Statement (.jobctlKill x0 x1) := Nat.zero_le 2
theorem clampcmdClamp (x0 x1 x2) : Statement (.clampcmdClamp x0 x1 x2) := Nat.zero_le 2
theorem clampcmdFire (x0 x1 x2) : Statement (.clampcmdFire x0 x1 x2) := Nat.zero_le 2
theorem clampcmdBlock (x0 x1 x2) : Statement (.clampcmdBlock x0 x1 x2) := Nat.zero_le 2
theorem clampcmdTick (x0 x1 x2) : Statement (.clampcmdTick x0 x1 x2) := Nat.zero_le 2
theorem clampcmdUnclamp (x0 x1 x2) : Statement (.clampcmdUnclamp x0 x1 x2) := Nat.zero_le 2
theorem clampcmdReverse (x0 x1 x2) : Statement (.clampcmdReverse x0 x1 x2) := Nat.zero_le 2
theorem dbgdataWrite (x0 x1 x2 x3) : Statement (.dbgdataWrite x0 x1 x2 x3) := Nat.zero_le 2
theorem dbgdataRead (x0 x1 x2) : Statement (.dbgdataRead x0 x1 x2) := Nat.zero_le 2
theorem queueReset (x0 x1) : Statement (.queueReset x0 x1) := Nat.zero_le 2
theorem coreReset (x0 x1) : Statement (.coreReset x0 x1) := Nat.zero_le 2
theorem dieReset (x0 x1) : Statement (.dieReset x0 x1) := Nat.zero_le 2
theorem deviceReset : Statement (.deviceReset) := Nat.zero_le 2
theorem bootImageFetched (x0) : Statement (.bootImageFetched x0) := Nat.zero_le 2
theorem bootRetry : Statement (.bootRetry) := Nat.zero_le 2
theorem walkComplete (x0) : Statement (.walkComplete x0) := Nat.zero_le 2
theorem faultedUnitRestart (x0 x1 x2) : Statement (.faultedUnitRestart x0 x1 x2) := Nat.zero_le 2
theorem sliceAccess (x0) : Statement (.sliceAccess x0) := Nat.zero_le 2
theorem lineFill (x0 x1 x2) : Statement (.lineFill x0 x1 x2) := Nat.zero_le 2
theorem patrolScrub (x0 x1) : Statement (.patrolScrub x0 x1) := Nat.zero_le 2
theorem scTokenVisit (x0) : Statement (.scTokenVisit x0) := Nat.zero_le 2
theorem remoteBufferRequest (x0) : Statement (.remoteBufferRequest x0) := Nat.zero_le 2
theorem packetHop (x0) : Statement (.packetHop x0) := Nat.zero_le 2
theorem packetAccept (x0) : Statement (.packetAccept x0) := Nat.zero_le 2
theorem reservationHeader (x0) : Statement (.reservationHeader x0) := Nat.zero_le 2
theorem escapeOccupancyTimeout (x0) : Statement (.escapeOccupancyTimeout x0) := Nat.zero_le 2
theorem flowIdleTimeout (x0) : Statement (.flowIdleTimeout x0) := Nat.zero_le 2
theorem bwWindowRefill (x0) : Statement (.bwWindowRefill x0) := Nat.zero_le 2
theorem handleDrainComplete (x0 x1 x2) : Statement (.handleDrainComplete x0 x1 x2) := Nat.zero_le 2
theorem handleMoveComplete (x0 x1 x2) : Statement (.handleMoveComplete x0 x1 x2) := Nat.zero_le 2
theorem granuleClearComplete (x0 x1) : Statement (.granuleClearComplete x0 x1) := Nat.zero_le 2
theorem copyCommandToken (x0 x1) : Statement (.copyCommandToken x0 x1) := Nat.zero_le 2
theorem copyChunk (x0 x1) : Statement (.copyChunk x0 x1) := Nat.zero_le 2
theorem copyRetire (x0 x1) : Statement (.copyRetire x0 x1) := Nat.zero_le 2
theorem tokenArrive (x0 x1 x2) : Statement (.tokenArrive x0 x1 x2) := Nat.zero_le 2
theorem overflowReinject (x0 x1 x2) : Statement (.overflowReinject x0 x1 x2) := Nat.zero_le 2
theorem elementIssue (x0 x1) : Statement (.elementIssue x0 x1) := Nat.zero_le 2
theorem firingResult (x0 x1) : Statement (.firingResult x0 x1) := Nat.zero_le 2
theorem loadResponse (x0 x1) : Statement (.loadResponse x0 x1) := Nat.zero_le 2
theorem tokenHop (x0 x1) : Statement (.tokenHop x0 x1) := Nat.zero_le 2
theorem instanceCreate (x0 x1) : Statement (.instanceCreate x0 x1) := Nat.zero_le 2
theorem instanceCommit (x0) : Statement (.instanceCommit x0) := Nat.zero_le 2
theorem plyPushArrive (x0 x1 x2) : Statement (.plyPushArrive x0 x1 x2) := Nat.zero_le 2
theorem laminatedGather (x0 x1 x2) : Statement (.laminatedGather x0 x1 x2) := Nat.zero_le 2
theorem configRecordFetch (x0 x1 x2) : Statement (.configRecordFetch x0 x1 x2) := Nat.zero_le 2
theorem jigPlacement (x0 x1) : Statement (.jigPlacement x0 x1) := Nat.zero_le 2
theorem frontEndFetch (x0 x1) : Statement (.frontEndFetch x0 x1) := Nat.zero_le 2
theorem counterEmit (x0 x1 x2 x3) : Statement (.counterEmit x0 x1 x2 x3) := Nat.zero_le 2
theorem roundBoundary (x0 x1) : Statement (.roundBoundary x0 x1) := Nat.zero_le 2
theorem accFlush (x0 x1 x2) : Statement (.accFlush x0 x1 x2) := Nat.zero_le 2
theorem colourFree (x0 x1 x2) : Statement (.colourFree x0 x1 x2) := Nat.zero_le 2
theorem streamRun (x0 x1) : Statement (.streamRun x0 x1) := Nat.zero_le 2
theorem streamComplete (x0 x1) : Statement (.streamComplete x0 x1) := Nat.zero_le 2
theorem nmCommandArrive (x0) : Statement (.nmCommandArrive x0) := Nat.zero_le 2
theorem nmSlotStart (x0) : Statement (.nmSlotStart x0) := Nat.zero_le 2
theorem nmRangeLock (x0 x1) : Statement (.nmRangeLock x0 x1) := Nat.zero_le 2
theorem nmChunk (x0 x1) : Statement (.nmChunk x0 x1) := Nat.zero_le 2
theorem nmComplete (x0 x1) : Statement (.nmComplete x0 x1) := Nat.zero_le 2
theorem mmFiringStart (x0) : Statement (.mmFiringStart x0) := Nat.zero_le 2
theorem mmGatherComplete (x0) : Statement (.mmGatherComplete x0) := Nat.zero_le 2
theorem mmKgroup (x0) : Statement (.mmKgroup x0) := Nat.zero_le 2
theorem mmFiringEnd (x0) : Statement (.mmFiringEnd x0) := Nat.zero_le 2
theorem mmIndexSetArrive (x0 x1) : Statement (.mmIndexSetArrive x0 x1) := Nat.zero_le 2
theorem mmDrainRow (x0) : Statement (.mmDrainRow x0) := Nat.zero_le 2
theorem mmDrainComplete (x0) : Statement (.mmDrainComplete x0) := Nat.zero_le 2
theorem mmSoftmaxRow (x0) : Statement (.mmSoftmaxRow x0) := Nat.zero_le 2
theorem mqCommandStart (x0) : Statement (.mqCommandStart x0) := Nat.zero_le 2
theorem mqEvaluation (x0) : Statement (.mqEvaluation x0) := Nat.zero_le 2
theorem mqCommandComplete (x0) : Statement (.mqCommandComplete x0) := Nat.zero_le 2
theorem mqPopcountDeliver (x0) : Statement (.mqPopcountDeliver x0) := Nat.zero_le 2
theorem packetAtHead (x0) : Statement (.packetAtHead x0) := Nat.zero_le 2
theorem dispatchDecision : Statement (.dispatchDecision) := Nat.zero_le 2
theorem waitsigPoll (x0) : Statement (.waitsigPoll x0) := Nat.zero_le 2
theorem signalPerform (x0) : Statement (.signalPerform x0) := Nat.zero_le 2
theorem phaseEnd (x0) : Statement (.phaseEnd x0) := Nat.zero_le 2
theorem detlevelApply (x0) : Statement (.detlevelApply x0) := Nat.zero_le 2
theorem memberEnd (x0 x1) : Statement (.memberEnd x0 x1) := Nat.zero_le 2
theorem watchdogExpire (x0 x1) : Statement (.watchdogExpire x0 x1) := Nat.zero_le 2
theorem qpushwTimeout (x0 x1) : Statement (.qpushwTimeout x0 x1) := Nat.zero_le 2
theorem dozeTimeout (x0 x1) : Statement (.dozeTimeout x0 x1) := Nat.zero_le 2
theorem pokeDeliver (x0 x1) : Statement (.pokeDeliver x0 x1) := Nat.zero_le 2
theorem barrierArrival (x0 x1) : Statement (.barrierArrival x0 x1) := Nat.zero_le 2
theorem quiescenceDrainEnd (x0 x1) : Statement (.quiescenceDrainEnd x0 x1) := Nat.zero_le 2
theorem quiescenceStopEnd (x0 x1) : Statement (.quiescenceStopEnd x0 x1) := Nat.zero_le 2
theorem quiescenceReport (x0 x1) : Statement (.quiescenceReport x0 x1) := Nat.zero_le 2
theorem contextSaved (x0 x1) : Statement (.contextSaved x0 x1) := Nat.zero_le 2
theorem restoreComplete (x0 x1) : Statement (.restoreComplete x0 x1) := Nat.zero_le 2
theorem clampRequest (x0) : Statement (.clampRequest x0) := Nat.zero_le 2
theorem clampLand (x0) : Statement (.clampLand x0) := Nat.zero_le 2
theorem clampResume (x0) : Statement (.clampResume x0) := Nat.zero_le 2
theorem blockStepTimeout (x0) : Statement (.blockStepTimeout x0) := Nat.zero_le 2
theorem tickStepEnd (x0) : Statement (.tickStepEnd x0) := Nat.zero_le 2
theorem exchangeFlitReceive (x0 x1) : Statement (.exchangeFlitReceive x0 x1) := Nat.zero_le 2
theorem exchangeReplay (x0 x1) : Statement (.exchangeReplay x0 x1) := Nat.zero_le 2
theorem messageDelivery (x0 x1) : Statement (.messageDelivery x0 x1) := Nat.zero_le 2
theorem redContributionArrive (x0) : Statement (.redContributionArrive x0) := Nat.zero_le 2
theorem redSlotTimeout (x0) : Statement (.redSlotTimeout x0) := Nat.zero_le 2
theorem redResultArrive (x0 x1 x2) : Statement (.redResultArrive x0 x1 x2) := Nat.zero_le 2
theorem ptpMessage (x0 x1) : Statement (.ptpMessage x0 x1) := Nat.zero_le 2
theorem tickBoundary : Statement (.tickBoundary) := Nat.zero_le 2
theorem tempNotify : Statement (.tempNotify) := Nat.zero_le 2
theorem tempTrip : Statement (.tempTrip) := Nat.zero_le 2
theorem powerLimitWindow (x0) : Statement (.powerLimitWindow x0) := Nat.zero_le 2
theorem reservedEncoding : Statement (.reservedEncoding) := Nat.zero_le 2
theorem holdover : Statement (.holdover) := Nat.zero_le 2
theorem atomicopRequest (x0 x1 x2 x3 x4 x5 x6) : Statement (.atomicopRequest x0 x1 x2 x3 x4 x5 x6) := Nat.zero_le 2
theorem attestationReport (x0) : Statement (.attestationReport x0) := Nat.zero_le 2
theorem measurementExtend (x0 x1 x2) : Statement (.measurementExtend x0 x1 x2) := Nat.zero_le 2
theorem healthMonitorUpdate (x0 x1) : Statement (.healthMonitorUpdate x0 x1) := Nat.zero_le 2
theorem bootNetworkFailure : Statement (.bootNetworkFailure) := Nat.zero_le 2

end Sys2Proof.Laws.EncodingLength
end

