-- ==== Sys2Proof/Tests/Slice0.lean ====
section
/-! SUPPORT. Tests: ill-formed terms refused, words decoded, single steps on small states whose results the spec gives, and
for each statement with hypotheses a state and operands that meet them. -/
open Sys2Proof Sys2Proof.Machine Sys2Proof.Safety Sys2Proof.Claims
namespace Sys2Proof.Tests
set_option Elab.async false

/-! ### Well-formedness: one ill-formed term for each check -/

theorem test_illformed_guard : Instr.check (.add { p := 0, neg := true } 1 2 3) = some .guard := rfl
theorem test_illformed_destination_p0 : Instr.check (.pseti 0 1 .eq 5) = some .destinationP0 := rfl
theorem test_illformed_system_register : Instr.check (.mfsr 1 0x0022) = some .systemRegister := rfl
theorem test_illformed_scope : Instr.check (.tlbinvAll { p := 0, neg := false } .pod) = some .scope := rfl
theorem test_illformed_space_code : Instr.check (.halloc { p := 0, neg := false } 1 2 3) = some .spaceCode := rfl
theorem test_illformed_header :
    Instr.check (.mov { pm := .always, nt := 1, ks := 7, kp := 1, om := 1 }) = some .header := rfl
theorem test_illformed_predicate_mode :
    Instr.check (.selE { pm := .ifTrue, nt := 3, ks := 7, kp := 0, om := 1 }) = some .predicateMode := rfl
theorem test_illformed_operand_count :
    Instr.check (.fadd { pm := .always, nt := 1, ks := 7, kp := 0, om := 1 } .fp32 .rne) = some .operandCount := rfl
theorem test_illformed_type :
    Instr.check (.fadd { pm := .always, nt := 2, ks := 7, kp := 0, om := 1 } .i32 .rne) = some .type := rfl
theorem test_illformed_rounding :
    Instr.check (.fadd { pm := .always, nt := 2, ks := 7, kp := 0, om := 1 } .fp32 .sr) = some .rounding := rfl
theorem test_illformed_conversion :
    Instr.check (.iadd { pm := .always, nt := 2, ks := 7, kp := 0, om := 1 } .i32 true false) = some .conversion := rfl
theorem test_illformed_ordering :
    Instr.check (.lde { pm := .always, nt := 1, ks := 7, kp := 0, om := 1 } .i32 0 .sc) = some .ordering := rfl
theorem test_illformed_unit_number : Instr.check (.memberEnd 224 0) = some .unitNumber := rfl

theorem test_illformed_output_port :
    Instr.check (.sink { pm := .always, nt := 1, ks := 7, kp := 0, om := 1 }) = some .outputPort := rfl
theorem test_illformed_null :
    Instr.check (.null { pm := .ifTrue, nt := 1, ks := 7, kp := 0, om := 1 }) = some .operandCount ∧
    Instr.check (.null { pm := .always, nt := 0, ks := 2, kp := 0, om := 1 }) = some .operandCount := ⟨rfl, rfl⟩
/-! ### Decoding: words with the fields of spec/opcode_table.json set to distinct values, and the SX form of R222 -/

theorem test_decode_maj_00 :
    decodeSeq 0x00443B80 0 = .ok (.add { p := 3, neg := true } 2 4 7) ∧
    decodeSeq 0x01072B81 0 = .ok (.sub { p := 3, neg := true } 8 7 5) ∧
    decodeSeq 0x01090B82 0 = .ok (.mul { p := 3, neg := true } 8 9 1) ∧
    decodeSeq 0x00A41F83 0 = .ok (.mulh { p := 7, neg := true } 5 4 3) ∧
    decodeSeq 0x00503984 0 = .ok (.mulhu { p := 1, neg := true } 2 16 7) ∧
    decodeSeq 0x01384585 0 = .ok (.div { p := 5, neg := true } 9 24 8) ∧
    decodeSeq 0x0089BF86 0 = .ok (.divu { p := 7, neg := true } 4 9 23) ∧
    decodeSeq 0x00694587 0 = .ok (.rem { p := 5, neg := true } 3 9 8) ∧
    decodeSeq 0x00C8C188 0 = .ok (.remu { p := 1, neg := true } 6 8 24) ∧
    decodeSeq 0x00272289 0 = .ok (.and { p := 2, neg := true } 1 7 4) ∧
    decodeSeq 0x0061170A 0 = .ok (.or { p := 7, neg := false } 3 1 2) ∧
    decodeSeq 0x0048868B 0 = .ok (.xor { p := 6, neg := true } 2 8 16) ∧
    decodeSeq 0x0144298C 0 = .ok (.andn { p := 1, neg := true } 10 4 5) ∧
    decodeSeq 0x0064BA8D 0 = .ok (.shl { p := 2, neg := true } 3 4 23) ∧
    decodeSeq 0x0029438E 0 = .ok (.shr { p := 3, neg := true } 1 9 8) ∧
    decodeSeq 0x0089EA8F 0 = .ok (.sra { p := 2, neg := true } 4 9 29) :=
  ⟨rfl, rfl, rfl, rfl, rfl, rfl, rfl, rfl, rfl, rfl, rfl, rfl, rfl, rfl, rfl, rfl⟩
theorem test_decode_maj_00_2 :
    decodeSeq 0x02483590 0 = .ok (.rol { p := 5, neg := true } 18 8 6) ∧
    decodeSeq 0x03C24F91 0 = .ok (.min { p := 7, neg := true } 30 2 9) ∧
    decodeSeq 0x0083A592 0 = .ok (.max { p := 5, neg := true } 4 3 20) ∧
    decodeSeq 0x00248B93 0 = .ok (.minu { p := 3, neg := true } 1 4 17) ∧
    decodeSeq 0x00443994 0 = .ok (.maxu { p := 1, neg := true } 2 4 7) ∧
    decodeSeq 0x00440395 0 = .ok (.clz { p := 3, neg := true } 2 4) ∧
    decodeSeq 0x01260396 0 = .ok (.ctz { p := 3, neg := true } 9 6) ∧
    decodeSeq 0x00C30497 0 = .ok (.popc { p := 4, neg := true } 6 3) ∧
    decodeSeq 0x01490198 0 = .ok (.brev { p := 1, neg := true } 10 9) ∧
    decodeSeq 0x00690799 0 = .ok (.sextB { p := 7, neg := true } 3 9) ∧
    decodeSeq 0x0089029A 0 = .ok (.sextH { p := 2, neg := true } 4 9) ∧
    decodeSeq 0x0126039B 0 = .ok (.sextW { p := 3, neg := true } 9 6) ∧
    decodeSeq 0x0067049C 0 = .ok (.zextB { p := 4, neg := true } 3 7) ∧
    decodeSeq 0x0025079D 0 = .ok (.zextH { p := 7, neg := true } 1 5) ∧
    decodeSeq 0x0065069E 0 = .ok (.zextW { p := 6, neg := true } 3 5) ∧
    decodeSeq 0x03A80FA3 0 = .ok (.lea { p := 7, neg := true } 29 8 1 3) :=
  ⟨rfl, rfl, rfl, rfl, rfl, rfl, rfl, rfl, rfl, rfl, rfl, rfl, rfl, rfl, rfl, rfl⟩
theorem test_decode_maj_01 :
    decodeSeq 0x051103E5 0 = .ok (.addi 8 17 997) :=
  rfl
theorem test_decode_maj_02 :
    decodeSeq 0x0849407A 0 = .ok (.andi 2 9 16506) :=
  rfl
theorem test_decode_maj_03 :
    decodeSeq 0x0C891A7A 0 = .ok (.ori 4 9 6778) :=
  rfl
theorem test_decode_maj_04 :
    decodeSeq 0x10E21877 0 = .ok (.xori 7 2 6263) :=
  rfl
theorem test_decode_maj_05 :
    decodeSeq 0x15090002 0 = .ok (.shli 8 9 2) :=
  rfl
theorem test_decode_maj_06 :
    decodeSeq 0x19060007 0 = .ok (.shri 8 6 7) :=
  rfl
theorem test_decode_maj_07 :
    decodeSeq 0x1F650004 0 = .ok (.srai 27 5 4) :=
  rfl
theorem test_decode_maj_08 :
    decodeSeq 0x2020155A 0 = .ok (.lui 1 5466) :=
  rfl
theorem test_decode_maj_09 :
    decodeSeq 0x24C00438 0 = .ok (.movi 6 1080) :=
  rfl
theorem test_decode_sx :
    decodeSeq 0xFC418000 0x80000001 = .ok (.moviSx 3 0x80000001) :=
  rfl
theorem test_decode_maj_10 :
    decodeSeq 0x40C33D87 0 = .ok (.pset { p := 5, neg := true } 6 3 7 .gt) :=
  rfl
theorem test_decode_maj_11 :
    decodeSeq 0x4462600F 0 = .ok (.pseti 3 2 .le 15) :=
  rfl
theorem test_decode_maj_12 :
    decodeSeq 0x48642F80 0 = .ok (.pand { p := 7, neg := true } 3 4 5) ∧
    decodeSeq 0x48451E81 0 = .ok (.por { p := 6, neg := true } 2 5 3) ∧
    decodeSeq 0x48451F82 0 = .ok (.pxor { p := 7, neg := true } 2 5 3) ∧
    decodeSeq 0x48610683 0 = .ok (.pnot { p := 6, neg := true } 3 1) ∧
    decodeSeq 0x48654488 0 = .ok (.sel { p := 4, neg := true } 3 5 8) :=
  ⟨rfl, rfl, rfl, rfl, rfl⟩
theorem test_decode_maj_18 :
    decodeSeq 0x63C12E57 0 = .ok (.br { p := 7, neg := true } 77399) :=
  rfl
theorem test_decode_maj_19 :
    decodeSeq 0x6400A7B9 0 = .ok (.jmp 42937) :=
  rfl
theorem test_decode_maj_1A :
    decodeSeq 0x6800190F 0 = .ok (.call 6415) :=
  rfl
theorem test_decode_maj_1B :
    decodeSeq 0x6C060580 0 = .ok (.jr { p := 5, neg := true } 6) ∧
    decodeSeq 0x6C030581 0 = .ok (.callr { p := 5, neg := true } 3) ∧
    decodeSeq 0x6C000482 0 = .ok (.ret { p := 4, neg := true }) ∧
    decodeSeq 0x6C200583 0 = .ok (.trap { p := 5, neg := true } 1) ∧
    decodeSeq 0x6C000484 0 = .ok (.hret { p := 4, neg := true }) ∧
    decodeSeq 0x6C000585 0 = .ok (.dstop { p := 5, neg := true }) ∧
    decodeSeq 0x6C000686 0 = .ok (.nop { p := 6, neg := true }) ∧
    decodeSeq 0x6C000287 0 = .ok (.halt { p := 2, neg := true }) :=
  ⟨rfl, rfl, rfl, rfl, rfl, rfl, rfl, rfl⟩
theorem test_decode_maj_1C :
    decodeSeq 0x72370030 0 = .ok (.loop .lc2 55 48) ∧
    decodeSeq 0x712D9000 0 = .ok (.loopr .lc1 45 4) :=
  ⟨rfl, rfl⟩
theorem test_decode_maj_20 :
    decodeSeq 0x80693805 0 = .ok (.lds 3 9 896 .h true) ∧
    decodeSeq 0x80A1392E 0 = .ok (.ldsc 5 1 914 .d) :=
  ⟨rfl, rfl⟩
theorem test_decode_sx_2 :
    decodeSeq 0xFC02144B 0xFFFFFFF8 = .ok (.ldsSx 4 5 .w (.sync .dev) 0xFFFFFFF8) :=
  rfl
theorem test_decode_maj_21 :
    decodeSeq 0x84483489 0 = .ok (.sts 2 8 840 .w true) ∧
    decodeSeq 0x84A70A1A 0 = .ok (.stsc 5 7 161 .w) :=
  ⟨rfl, rfl⟩
theorem test_decode_sx_3 :
    decodeSeq 0xFC131C70 0x00001234 = .ok (.stsSx 6 7 .d .sc 0x1234) :=
  rfl
theorem test_decode_maj_22 :
    decodeSeq 0x88AF0B87 0 = .ok (.aadd { p := 3, neg := true } 5 15 1 true .sc) ∧
    decodeSeq 0x8A61BD8F 0 = .ok (.aand { p := 5, neg := true } 19 1 23 true .sc) ∧
    decodeSeq 0x8824F797 0 = .ok (.aor { p := 7, neg := true } 1 4 30 true .sc) ∧
    decodeSeq 0x8886199B 0 = .ok (.axor { p := 1, neg := true } 4 6 3 false .sc) ∧
    decodeSeq 0x882DFAA7 0 = .ok (.amin { p := 2, neg := true } 1 13 31 true .sc) ∧
    decodeSeq 0x892134AE 0 = .ok (.amax { p := 4, neg := true } 9 1 6 true .rel) ∧
    decodeSeq 0x891F14B7 0 = .ok (.aminu { p := 4, neg := true } 8 31 2 true .sc) ∧
    decodeSeq 0x8BE13BBD 0 = .ok (.amaxu { p := 3, neg := true } 31 1 7 true .acq) ∧
    decodeSeq 0x89033CC6 0 = .ok (.aswp { p := 4, neg := true } 8 3 7 true .rel) ∧
    decodeSeq 0x88463D4F 0 = .ok (.acas { p := 5, neg := false } 2 6 7 true .sc) ∧
    decodeSeq 0x88E92253 0 = .ok (.afmin { p := 2, neg := false } 7 9 4 .sc) ∧
    decodeSeq 0x8826AADB 0 = .ok (.afmax { p := 2, neg := true } 1 6 21 .sc) :=
  ⟨rfl, rfl, rfl, rfl, rfl, rfl, rfl, rfl, rfl, rfl, rfl, rfl⟩
theorem test_decode_maj_23 :
    decodeSeq 0x8C054282 0 = .ok (.axadd { p := 2, neg := true } 5 8 .fp16) ∧
    decodeSeq 0x8CE40684 0 = .ok (.axrd { p := 6, neg := true } 7 4 .fp32) ∧
    decodeSeq 0x8C060588 0 = .ok (.axclr { p := 5, neg := true } 6) :=
  ⟨rfl, rfl, rfl⟩
theorem test_decode_maj_24 :
    decodeSeq 0x90862981 0 = .ok (.bld { p := 1, neg := true } 4 6 5 .h) ∧
    decodeSeq 0x90899584 0 = .ok (.bst { p := 5, neg := true } 4 9 18 .b) :=
  ⟨rfl, rfl⟩
theorem test_decode_sx_4 :
    decodeSeq 0xFC242420 0x000ABCDE = .ok (.bldSx 8 9 .h 0xABCDE) ∧
    decodeSeq 0xFC352C00 0x00054321 = .ok (.bstSx 10 11 .b 0x54321) :=
  ⟨rfl, rfl⟩
theorem test_decode_maj_25 :
    decodeSeq 0x94411680 0 = .ok (.halloc { p := 6, neg := true } 2 1 2) ∧
    decodeSeq 0x94090281 0 = .ok (.hfree { p := 2, neg := true } 9) ∧
    decodeSeq 0x94093382 0 = .ok (.hgive { p := 3, neg := true } 9 6) ∧
    decodeSeq 0x96861383 0 = .ok (.htake { p := 3, neg := true } 20 6 2) ∧
    decodeSeq 0x96240684 0 = .ok (.hqry { p := 6, neg := true } 17 4) :=
  ⟨rfl, rfl, rfl, rfl, rfl⟩
theorem test_decode_maj_26 :
    decodeSeq 0x98E80480 0 = .ok (.copy { p := 4, neg := true } 7 8) ∧
    decodeSeq 0x98070281 0 = .ok (.cpwait { p := 2, neg := true } 7) ∧
    decodeSeq 0x98E90282 0 = .ok (.cpqry { p := 2, neg := true } 7 9) :=
  ⟨rfl, rfl, rfl⟩
theorem test_decode_maj_27 :
    decodeSeq 0x9C000683 0 = .ok (.fence { p := 6, neg := true } .dev) ∧
    decodeSeq 0x9C00078C 0 = .ok (.fenceAcq { p := 7, neg := true } .pod) ∧
    decodeSeq 0x9C000493 0 = .ok (.fenceRel { p := 4, neg := true } .dev) ∧
    decodeSeq 0x9CB2069B 0 = .ok (.bara { p := 6, neg := true } 5 18 .dev) ∧
    decodeSeq 0x9C0147A3 0 = .ok (.barw { p := 7, neg := true } 1 8 .dev) ∧
    decodeSeq 0x9C0907AC 0 = .ok (.bar { p := 7, neg := true } 9 .pod) ∧
    decodeSeq 0x9C0904B0 0 = .ok (.nmcmd { p := 4, neg := true } 9) ∧
    decodeSeq 0x9C0007B8 0 = .ok (.nmfence { p := 7, neg := true }) ∧
    decodeSeq 0x9C2706C0 0 = .ok (.nmstat { p := 6, neg := true } 1 7) ∧
    decodeSeq 0x9C0604C8 0 = .ok (.xsend { p := 4, neg := true } 6) ∧
    decodeSeq 0x9C4146D0 0 = .ok (.xrecv { p := 6, neg := true } 2 1 8) ∧
    decodeSeq 0x9C0604D8 0 = .ok (.xred { p := 4, neg := true } 6) ∧
    decodeSeq 0x9CA903E0 0 = .ok (.xrslt { p := 3, neg := true } 5 9) :=
  ⟨rfl, rfl, rfl, rfl, rfl, rfl, rfl, rfl, rfl, rfl, rfl, rfl, rfl⟩
theorem test_decode_maj_28 :
    decodeSeq 0xA002A460 0 = .ok (.blkrun 5 9 3 false) ∧
    decodeSeq 0xA01220A0 0 = .ok (.blkpin 4 8 5) ∧
    decodeSeq 0xA0201000 0 = .ok (.blkunpin 4) ∧
    decodeSeq 0xA0310400 0 = .ok (.jigmap 2 1) ∧
    decodeSeq 0xA0408000 0 = .ok (.cfgswap 1) ∧
    decodeSeq 0xA05090E1 0 = .ok (.inj 1 4 7 true) ∧
    decodeSeq 0xA062A203 0 = .ok (.snkrd 5 8 16 3) ∧
    decodeSeq 0xA0720C00 0 = .ok (.argw 4 3) ∧
    decodeSeq 0xA0800000 0 = .ok (.round) ∧
    decodeSeq 0xA0939800 0 = .ok (.gate 7 6) ∧
    decodeSeq 0xA0939802 0 = .ok (.gateWait 7 6) ∧
    decodeSeq 0xA0911C01 0 = .ok (.gateOpen 2 7) :=
  ⟨rfl, rfl, rfl, rfl, rfl, rfl, rfl, rfl, rfl, rfl, rfl, rfl⟩
theorem test_decode_maj_29 :
    decodeSeq 0xA4038003 0 = .ok (.strm 7 3) ∧
    decodeSeq 0xA4110000 0 = .ok (.sbar 2) ∧
    decodeSeq 0xA4200101 0 = .ok (.spos 8 1) :=
  ⟨rfl, rfl, rfl⟩
theorem test_decode_maj_2A :
    decodeSeq 0xA8022400 0 = .ok (.tdef 4 9) ∧
    decodeSeq 0xA8120060 0 = .ok (.tqry 4 3) ∧
    decodeSeq 0xA8218000 0 = .ok (.ttagFull 3) ∧
    decodeSeq 0xA8240001 0 = .ok (.ttagEmpty 8) ∧
    decodeSeq 0xA8220002 0 = .ok (.ttagWaitfull 4) ∧
    decodeSeq 0xA8240003 0 = .ok (.ttagWaitempty 8) ∧
    decodeSeq 0xA8331401 0 = .ok (.gath 6 5 1) ∧
    decodeSeq 0xA84224E0 0 = .ok (.mmbind 4 9 7) ∧
    decodeSeq 0xA8510000 0 = .ok (.mmunb 2) ∧
    decodeSeq 0xA8640F05 0 = .ok (.mmepi 8 3 24 true 1) ∧
    decodeSeq 0xA8739440 0 = .ok (.mmsmxStart 7 5 2) ∧
    decodeSeq 0xA8741841 0 = .ok (.mmsmxFin 8 6 2) ∧
    decodeSeq 0xA8848083 0 = .ok (.mmstat 9 4 3) :=
  ⟨rfl, rfl, rfl, rfl, rfl, rfl, rfl, rfl, rfl, rfl, rfl, rfl, rfl⟩
theorem test_decode_maj_2B :
    decodeSeq 0xAC029000 0 = .ok (.qtld 5 4) ∧
    decodeSeq 0xAC111C00 0 = .ok (.qwld 2 7) ∧
    decodeSeq 0xAC200000 0 = .ok (.qctxClaim) ∧
    decodeSeq 0xAC200001 0 = .ok (.qctxRelease) ∧
    decodeSeq 0xAC200002 0 = .ok (.qctxClear) ∧
    decodeSeq 0xAC310000 0 = .ok (.qrun 2) ∧
    decodeSeq 0xAC452460 0 = .ok (.xpose 10 9 3) ∧
    decodeSeq 0xAC509400 0 = .ok (.xposb 1 5) ∧
    decodeSeq 0xAC620CE6 0 = .ok (.qpopc 4 3 7 true 2) ∧
    decodeSeq 0xAC730003 0 = .ok (.qbrk 6 3) ∧
    decodeSeq 0xAC800062 0 = .ok (.qstatMq 3 2) :=
  ⟨rfl, rfl, rfl, rfl, rfl, rfl, rfl, rfl, rfl, rfl, rfl⟩
theorem test_decode_maj_30 :
    decodeSeq 0xC1017680 0 = .ok (.qpush { p := 6, neg := true } 8 1 14) ∧
    decodeSeq 0xC0054181 0 = .ok (.qpushw { p := 1, neg := true } 5 8) ∧
    decodeSeq 0xC1222E82 0 = .ok (.qpop { p := 6, neg := true } 9 2 5) ∧
    decodeSeq 0xC1250683 0 = .ok (.qstat { p := 6, neg := true } 9 5) ∧
    decodeSeq 0xC1020484 0 = .ok (.doze { p := 4, neg := true } 8 2) ∧
    decodeSeq 0xC0010585 0 = .ok (.poke { p := 5, neg := true } 1) :=
  ⟨rfl, rfl, rfl, rfl, rfl, rfl⟩
theorem test_decode_maj_31 :
    decodeSeq 0xC5200031 0 = .ok (.mfsr 9 0x31) :=
  rfl
theorem test_decode_maj_32 :
    decodeSeq 0xC807005F 0 = .ok (.mtsr 7 0x5F) :=
  rfl
theorem test_decode_maj_33 :
    decodeSeq 0xCC244D80 0 = .ok (.tlbinv { p := 5, neg := true } .bay 4 9) ∧
    decodeSeq 0xCD204B80 0 = .ok (.tlbinvAsid { p := 3, neg := true } .bay 9) ∧
    decodeSeq 0xCE200480 0 = .ok (.tlbinvAll { p := 4, neg := true } .bay) ∧
    decodeSeq 0xCC060381 0 = .ok (.icinv { p := 3, neg := true } 6) ∧
    decodeSeq 0xCC200381 0 = .ok (.icinvAll { p := 3, neg := true }) ∧
    decodeSeq 0xCC000382 0 = .ok (.clamp { p := 3, neg := true }) ∧
    decodeSeq 0xCD183983 0 = .ok (.ctxsave { p := 1, neg := true } 8 24 7) ∧
    decodeSeq 0xCD383784 0 = .ok (.ctxrest { p := 7, neg := true } 9 24 6) ∧
    decodeSeq 0xCC070285 0 = .ok (.trcon { p := 2, neg := true } 7) ∧
    decodeSeq 0xCC000486 0 = .ok (.trcoff { p := 4, neg := true }) ∧
    decodeSeq 0xCC070387 0 = .ok (.trmark { p := 3, neg := true } 7) :=
  ⟨rfl, rfl, rfl, rfl, rfl, rfl, rfl, rfl, rfl, rfl, rfl⟩
theorem test_decode_sx_5 :
    decodeSeq 0xFC503000 0x00000021 = .ok (.ldecl 12 33) ∧
    decodeSeq 0xFC603400 0x0000546A = .ok (.ply 13 42 17 5) ∧
    decodeSeq 0xFC770000 0x000017D5 = .ok (.rdl 14 21 31 .hi) ∧
    decodeSeq 0xFC800000 0x0000003F = .ok (.settle 63) :=
  ⟨rfl, rfl, rfl, rfl⟩
theorem test_decode_elem_0 :
    decodeElem 0x002E0620 = .ok (.fadd { pm := .always, nt := 2, ks := 7, kp := 0, om := 6 } .fp32 .rtz) ∧
    decodeElem 0x012E2F60 = .ok (.fsub { pm := .always, nt := 2, ks := 7, kp := 0, om := 15 } .fp16 .rdn) ∧
    decodeElem 0x022E0520 = .ok (.fmul { pm := .always, nt := 2, ks := 7, kp := 0, om := 5 } .fp32 .rtz) ∧
    decodeElem 0x033E1640 = .ok (.ffma { pm := .always, nt := 3, ks := 7, kp := 0, om := 6 } .bf16 .rup) ∧
    decodeElem 0x043E2100 = .ok (.ffms { pm := .always, nt := 3, ks := 7, kp := 0, om := 1 } .fp16 .rne) ∧
    decodeElem 0x052E0100 = .ok (.fmin { pm := .always, nt := 2, ks := 7, kp := 0, om := 1 } .fp32) ∧
    decodeElem 0x06670800 = .ok (.fmax { pm := .ifTrue, nt := 2, ks := 3, kp := 2, om := 8 } .fp32) ∧
    decodeElem 0x076E1500 = .ok (.fabs { pm := .ifTrue, nt := 2, ks := 7, kp := 0, om := 5 } .bf16) ∧
    decodeElem 0x081E1300 = .ok (.fneg { pm := .always, nt := 1, ks := 7, kp := 0, om := 3 } .bf16) ∧
    decodeElem 0x091E0400 = .ok (.frcp { pm := .always, nt := 1, ks := 7, kp := 0, om := 4 }) ∧
    decodeElem 0x0A1E0500 = .ok (.fsqrt { pm := .always, nt := 1, ks := 7, kp := 0, om := 5 }) ∧
    decodeElem 0x0B1E0200 = .ok (.frsq { pm := .always, nt := 1, ks := 7, kp := 0, om := 2 }) ∧
    decodeElem 0x0C1E0400 = .ok (.fexp2 { pm := .always, nt := 1, ks := 7, kp := 0, om := 4 }) ∧
    decodeElem 0x0D1E0800 = .ok (.flog2 { pm := .always, nt := 1, ks := 7, kp := 0, om := 8 }) ∧
    decodeElem 0x0E1E0600 = .ok (.ftanh { pm := .always, nt := 1, ks := 7, kp := 0, om := 6 }) ∧
    decodeElem 0x0F669701 = .ok (.fcmp { pm := .ifTrue, nt := 2, ks := 3, kp := 1, om := 7 } .bf16 .ne) :=
  ⟨rfl, rfl, rfl, rfl, rfl, rfl, rfl, rfl, rfl, rfl, rfl, rfl, rfl, rfl, rfl, rfl⟩
theorem test_decode_elem_1 :
    decodeElem 0x101E7F2C = .ok (.cvt { pm := .always, nt := 1, ks := 7, kp := 0, om := 15 } .i8 .rtz .e4m3 false false) :=
  rfl
theorem test_decode_elem_4 :
    decodeElem 0x402E6C01 = .ok (.iadd { pm := .always, nt := 2, ks := 7, kp := 0, om := 12 } .i16 false true) ∧
    decodeElem 0x417E6903 = .ok (.isub { pm := .ifTrue, nt := 3, ks := 7, kp := 0, om := 9 } .i16 true true) ∧
    decodeElem 0x42697600 = .ok (.imul { pm := .ifTrue, nt := 2, ks := 4, kp := 2, om := 6 } .i8) ∧
    decodeElem 0x432E5602 = .ok (.imulh { pm := .always, nt := 2, ks := 7, kp := 0, om := 6 } .i32 true) ∧
    decodeElem 0x443E7A03 = .ok (.imad { pm := .always, nt := 3, ks := 7, kp := 0, om := 10 } .i8 true true) ∧
    decodeElem 0x452E7500 = .ok (.iand { pm := .always, nt := 2, ks := 7, kp := 0, om := 5 } .i8) ∧
    decodeElem 0x462E7300 = .ok (.ior { pm := .always, nt := 2, ks := 7, kp := 0, om := 3 } .i8) ∧
    decodeElem 0x472E7F00 = .ok (.ixor { pm := .always, nt := 2, ks := 7, kp := 0, om := 15 } .i8) ∧
    decodeElem 0x487E6400 = .ok (.ishl { pm := .ifTrue, nt := 3, ks := 7, kp := 0, om := 4 } .i16) ∧
    decodeElem 0x492E7900 = .ok (.ishr { pm := .always, nt := 2, ks := 7, kp := 0, om := 9 } .i8) ∧
    decodeElem 0x4A2E7900 = .ok (.isra { pm := .always, nt := 2, ks := 7, kp := 0, om := 9 } .i8) ∧
    decodeElem 0x4B2E6602 = .ok (.imin { pm := .always, nt := 2, ks := 7, kp := 0, om := 6 } .i16 true) ∧
    decodeElem 0x4C7E7202 = .ok (.imax { pm := .ifTrue, nt := 3, ks := 7, kp := 0, om := 2 } .i8 true) ∧
    decodeElem 0x4D7E7410 = .ok (.icmp { pm := .ifTrue, nt := 3, ks := 7, kp := 0, om := 4 } .i8 .ne) :=
  ⟨rfl, rfl, rfl, rfl, rfl, rfl, rfl, rfl, rfl, rfl, rfl, rfl, rfl, rfl⟩
theorem test_decode_elem_8 :
    decodeElem 0x802C8E00 = .ok (.selE { pm := .always, nt := 2, ks := 6, kp := 1, om := 14 }) ∧
    decodeElem 0x811E0200 = .ok (.mov { pm := .always, nt := 1, ks := 7, kp := 0, om := 2 }) ∧
    decodeElem 0x821E0904 = .ok (.lbc { pm := .always, nt := 1, ks := 7, kp := 0, om := 9 } 4) ∧
    decodeElem 0x831E032F = .ok (.lshf { pm := .always, nt := 1, ks := 7, kp := 0, om := 3 } .up 15) ∧
    decodeElem 0x846E7902 = .ok (.lred { pm := .ifTrue, nt := 2, ks := 7, kp := 0, om := 9 } .i8 .min) ∧
    decodeElem 0x882E0904 = .ok (.pack { pm := .always, nt := 2, ks := 7, kp := 0, om := 9 } 4) ∧
    decodeElem 0x891A8600 = .ok (.unpack { pm := .always, nt := 1, ks := 5, kp := 1, om := 6 }) ∧
    decodeElem 0x8A1E0600 = .ok (.ctxa { pm := .always, nt := 1, ks := 7, kp := 0, om := 6 }) ∧
    decodeElem 0x8B1E0000 = .ok (.ctxf { pm := .always, nt := 1, ks := 7, kp := 0, om := 0 }) :=
  ⟨rfl, rfl, rfl, rfl, rfl, rfl, rfl, rfl, rfl⟩
theorem test_decode_elem_9 :
    decodeElem 0x901E0500 = .ok (.null { pm := .always, nt := 1, ks := 7, kp := 0, om := 5 }) ∧
    decodeElem 0x911E0000 = .ok (.exit { pm := .always, nt := 1, ks := 7, kp := 0, om := 0 }) ∧
    decodeElem 0x922E0800 = .ok (.steer { pm := .always, nt := 2, ks := 7, kp := 0, om := 8 }) ∧
    decodeElem 0x93148300 = .ok (.merge { pm := .always, nt := 1, ks := 2, kp := 1, om := 3 }) ∧
    decodeElem 0x941E0000 = .ok (.sink { pm := .always, nt := 1, ks := 7, kp := 0, om := 0 }) :=
  ⟨rfl, rfl, rfl, rfl, rfl⟩
theorem test_decode_elem_A :
    decodeElem 0xA01E0006 = .ok (.ldeclE { pm := .always, nt := 1, ks := 7, kp := 0, om := 0 } 6) ∧
    decodeElem 0xA11E703B = .ok (.plyE { pm := .always, nt := 1, ks := 7, kp := 0, om := 0 } .i8 59) ∧
    decodeElem 0xA26E0948 = .ok (.rdlE { pm := .ifTrue, nt := 2, ks := 7, kp := 0, om := 9 } .hi 8) ∧
    decodeElem 0xA31E000A = .ok (.settleE { pm := .always, nt := 1, ks := 7, kp := 0, om := 0 } 10) ∧
    decodeElem 0xA802560E = .ok (.cnt { pm := .always, nt := 0, ks := 1, kp := 0, om := 6 } 3 2) ∧
    decodeElem 0xA91E6906 = .ok (.acc { pm := .always, nt := 1, ks := 7, kp := 0, om := 9 } .i16 .or) :=
  ⟨rfl, rfl, rfl, rfl, rfl, rfl⟩
theorem test_decode_elem_C :
    decodeElem 0xC01E49A0 = .ok (.lde { pm := .always, nt := 1, ks := 7, kp := 0, om := 9 } .e5m2 20 .plain) ∧
    decodeElem 0xC06CECEE = .ok (.ldscE { pm := .ifTrue, nt := 2, ks := 6, kp := 1, om := 12 } .i16 29) ∧
    decodeElem 0xC13E40F8 = .ok (.ste { pm := .always, nt := 3, ks := 7, kp := 0, om := 0 } .e5m2 31 .plain) ∧
    decodeElem 0xC12E30EE = .ok (.stscE { pm := .always, nt := 2, ks := 7, kp := 0, om := 0 } .e4m3 29) ∧
    decodeElem 0xC2BE4FF5 = .ok (.bldE { pm := .ifFalse, nt := 3, ks := 7, kp := 0, om := 15 } .e5m2 30 (.sync .pod)) ∧
    decodeElem 0xC33E4089 = .ok (.bstE { pm := .always, nt := 3, ks := 7, kp := 0, om := 0 } .e5m2 17 (.sync .core)) ∧
    decodeElem 0xC8A6D8B5 = .ok (.aaddE { pm := .ifFalse, nt := 2, ks := 3, kp := 1, om := 8 } 22 (.sync .pod)) ∧
    decodeElem 0xC92CDA2A = .ok (.aandE { pm := .always, nt := 2, ks := 6, kp := 1, om := 10 } 5 (.sync .bay)) ∧
    decodeElem 0xCA28D955 = .ok (.aorE { pm := .always, nt := 2, ks := 4, kp := 1, om := 9 } 10 (.sync .pod)) ∧
    decodeElem 0xCB2E5B46 = .ok (.axorE { pm := .always, nt := 2, ks := 7, kp := 0, om := 11 } 8 .sc) ∧
    decodeElem 0xCCACD48A = .ok (.aminE { pm := .ifFalse, nt := 2, ks := 6, kp := 1, om := 4 } 17 (.sync .bay)) ∧
    decodeElem 0xCD3E582E = .ok (.amaxE { pm := .always, nt := 3, ks := 7, kp := 0, om := 8 } 5 .sc) ∧
    decodeElem 0xCE3E54DE = .ok (.aminuE { pm := .always, nt := 3, ks := 7, kp := 0, om := 4 } 27 .sc) ∧
    decodeElem 0xCF7E547E = .ok (.amaxuE { pm := .ifTrue, nt := 3, ks := 7, kp := 0, om := 4 } 15 .sc) :=
  ⟨rfl, rfl, rfl, rfl, rfl, rfl, rfl, rfl, rfl, rfl, rfl, rfl, rfl, rfl⟩
theorem test_decode_elem_D :
    decodeElem 0xD07E5226 = .ok (.aswpE { pm := .ifTrue, nt := 3, ks := 7, kp := 0, om := 2 } 4 .sc) ∧
    decodeElem 0xD126DE7B = .ok (.acasE { pm := .always, nt := 2, ks := 3, kp := 1, om := 14 } 15 (.sync .stack)) ∧
    decodeElem 0xD23E06FE = .ok (.afminE { pm := .always, nt := 3, ks := 7, kp := 0, om := 6 } 31 .sc) ∧
    decodeElem 0xD3668745 = .ok (.afmaxE { pm := .ifTrue, nt := 2, ks := 3, kp := 1, om := 7 } 8 (.sync .pod)) ∧
    decodeElem 0xD42AA056 = .ok (.axaddE { pm := .always, nt := 2, ks := 5, kp := 1, om := 0 } .fp16 10 .sc) ∧
    decodeElem 0xD52E21A6 = .ok (.axrdE { pm := .always, nt := 2, ks := 7, kp := 0, om := 1 } .fp16 20 .sc) ∧
    decodeElem 0xD62E004E = .ok (.axclrE { pm := .always, nt := 2, ks := 7, kp := 0, om := 0 } 9 .sc) :=
  ⟨rfl, rfl, rfl, rfl, rfl, rfl, rfl⟩
theorem test_decode_elem_E :
    decodeElem 0xE02E0000 = .ok (.copyE { pm := .always, nt := 2, ks := 7, kp := 0, om := 0 }) :=
  rfl

/-! ### The encodings that the spec itself writes out -/

theorem test_spec_words_control :
    decodeSeq 0x6C000002 0 = .ok (.ret { p := 0, neg := false }) ∧ decodeSeq 0x6C090000 0 = .ok (.jr { p := 0, neg := false } 9) ∧
    decodeSeq 0x6CA00003 0 = .ok (.trap { p := 0, neg := false } 5) := ⟨rfl, rfl, rfl⟩
theorem test_spec_words_fabric :
    decodeSeq 0xA0008860 0 = .ok (.blkrun 1 2 3 false) ∧ decodeSeq 0xA0008861 0 = .ok (.blkrun 1 2 3 true) ∧
    decodeSeq 0xA0910C01 0 = .ok (.gateOpen 2 3) ∧ decodeSeq 0xA4020003 0 = .ok (.strm 4 3) := ⟨rfl, rfl, rfl, rfl⟩
theorem test_spec_words_laminated :
    decodeSeq 0xFC600800 5 = .ok (.ply 2 5 0 0) ∧ decodeSeq 0xFC748000 5 = .ok (.rdl 9 5 0 .value) := ⟨rfl, rfl⟩
theorem test_spec_words_memory :
    decodeSeq 0x844B0009 0 = .ok (.sts 2 11 0 .w true) ∧ decodeSeq 0x806B0009 0 = .ok (.lds 3 11 0 .w true) ∧
    decodeSeq 0xFC029869 0x1000 = .ok (.ldsSx 5 6 .d (.sync .bay) 0x1000) ∧ decodeSeq 0xFC310C40 0x40 = .ok (.bstSx 2 3 .w 0x40) ∧
    decodeSeq 0x88A63806 0 = .ok (.aadd { p := 0, neg := false } 5 6 7 true .rel) := ⟨rfl, rfl, rfl, rfl, rfl⟩
theorem test_spec_words_handles :
    decodeSeq 0x94650800 0 = .ok (.halloc { p := 0, neg := false } 3 5 1) ∧ decodeSeq 0x94033802 0 = .ok (.hgive { p := 0, neg := false } 3 7) ∧
    decodeSeq 0x95281803 0 = .ok (.htake { p := 0, neg := false } 9 8 3) := ⟨rfl, rfl, rfl⟩
theorem test_spec_words_sync :
    decodeSeq 0x9C000003 0 = .ok (.fence { p := 0, neg := false } .dev) ∧ decodeSeq 0x9C000013 0 = .ok (.fenceRel { p := 0, neg := false } .dev) ∧
    decodeSeq 0x9C000029 0 = .ok (.bar { p := 0, neg := false } 0 .bay) := ⟨rfl, rfl, rfl⟩
theorem test_spec_words_matrix :
    decodeSeq 0xA8408860 0 = .ok (.mmbind 1 2 3) ∧ decodeSeq 0xA8008800 0 = .ok (.tdef 1 2) ∧ decodeSeq 0xA88080A0 0 = .ok (.mmstat 1 5 0) ∧
    decodeSeq 0xA8220000 0 = .ok (.ttagFull 4) ∧ decodeSeq 0xA8220002 0 = .ok (.ttagWaitfull 4) := ⟨rfl, rfl, rfl, rfl, rfl⟩
theorem test_spec_words_marquetry :
    decodeSeq 0xAC008800 0 = .ok (.qtld 1 2) ∧ decodeSeq 0xAC108C00 0 = .ok (.qwld 1 3) ∧ decodeSeq 0xAC200002 0 = .ok .qctxClear ∧
    decodeSeq 0xAC320000 0 = .ok (.qrun 4) ∧ decodeSeq 0xAC429800 0 = .ok (.xpose 5 6 0) ∧ decodeSeq 0xAC529800 0 = .ok (.xposb 5 6) ∧
    decodeSeq 0xAC63A120 0 = .ok (.qpopc 7 8 9 false 0) ∧ decodeSeq 0xAC720001 0 = .ok (.qbrk 4 1) ∧ decodeSeq 0xAC8000A1 0 = .ok (.qstatMq 5 1) :=
  ⟨rfl, rfl, rfl, rfl, rfl, rfl, rfl, rfl, rfl⟩
theorem test_spec_words_element :
    decodeElem 0x101E3001 = .ok (.cvt { pm := .always, nt := 1, ks := 7, kp := 0, om := 0 } .e4m3 .rne .fp32 false true) ∧
    decodeElem 0xC01E5014 = .ok (.lde { pm := .always, nt := 1, ks := 7, kp := 0, om := 0 } .i32 2 (.sync .dev)) := ⟨rfl, rfl⟩

/-! ### States used below: a service core, and a context with one mapped page of code and data -/

/-- The guard that always holds, and one that fails while P1 is 0. -/
def g0 : Guard := { p := 0, neg := false }
def gF : Guard := { p := 1, neg := false }
/-- Service core 0 executes; S1 is 0x1000, S2 is 2. -/
def svc : State := { State.reset with cur := .svc 0, svcs := [(0, { Svc.reset with seq := { Seq.reset with s := [(1, 0x1000), (2, 2)] } })] }
/-- Slot 0 of core 0 executes with translation on and 1 GiB mapped onto itself; S1 is 0x8000, S2 is 0x8001. -/
def ctx : State :=
  { modCtx { State.reset with hbm := placedTables [] } 0 0 fun x =>
      { placedCtx x 0x4000 with seq := { (placedCtx x 0x4000).seq with s := [(1, 0x8000), (2, 0x8001)] } } with cur := .seq 0 0 }
/-- Whether an answer is this value. -/
def isOk {α β : Type} [DecidableEq β] (e : Except α β) (b : β) : Bool := match e with | .ok x => x == b | .error _ => false
theorem ok_of {α β : Type} [DecidableEq β] {e : Except α β} {b : β} (h : isOk e b = true) : e = .ok b := by
  unfold isOk at h; split at h
  · exact congrArg _ (of_decide_eq_true h)
  · cases h
/-- The same with a change of the sequencer, or of the context. -/
def ctxSeq (f : Seq → Seq) : State := modCtx ctx 0 0 fun x => { x with seq := f x.seq }

/-! ### Witnesses: sequencer arithmetic, control and loops -/

theorem test_witness_IntegerArithmetic :
    (∃ p, p ∈ twoSources) ∧ (∃ p, p ∈ oneSource) ∧ (∃ p, p ∈ halfImmediate) ∧ (∃ p, p ∈ shiftImmediate) ∧
    seqActs svc = true ∧ guardHolds (curSeq svc) g0 = true ∧ seqActs ctx = true ∧ guardHolds (curSeq ctx) g0 = true :=
  ⟨⟨_, List.mem_cons_self⟩, ⟨_, List.mem_cons_self⟩, ⟨_, List.mem_cons_self⟩, ⟨_, List.mem_cons_self⟩, rfl, rfl, rfl, rfl⟩

theorem test_witness_PredicatesAndSelect : seqActs ctx = true ∧ guardHolds (curSeq ctx) g0 = true ∧
    guardHolds (curSeq ctx) gF = false := ⟨rfl, rfl, rfl⟩

theorem test_witness_FailedGuardOnlyRetires :
    guardOf (.add gF 1 2 3) = some gF ∧ seqActs ctx = true ∧ guardHolds (curSeq ctx) gF = false ∧
    (¬ ∃ z a b, b ≠ 0 ∧ (Instr.add gF 1 2 3 = .tlbinv gF z a b ∨ Instr.add gF 1 2 3 = .tlbinvAsid gF z b)) ∧
    guardOf (.tlbinv gF .dev 1 2) = some gF ∧ (∃ c k, ctx.cur = .seq c k) ∧
    (∃ z a b, b ≠ (0 : Reg) ∧ (Instr.tlbinv gF .dev 1 2 = .tlbinv gF z a b ∨ Instr.tlbinv gF .dev 1 2 = .tlbinvAsid gF z b)) :=
  ⟨rfl, rfl, rfl, fun ⟨_, _, _, _, h⟩ => by cases h <;> contradiction, rfl, ⟨0, 0, rfl⟩, ⟨.dev, 1, 2, by decide, .inl rfl⟩⟩

theorem test_witness_TransfersOfControl :
    seqActs ctx = true ∧ (relative ctx 0x3FFFFF).toNat % 4 = 0 ∧ guardHolds (curSeq ctx) g0 = true ∧
    guardHolds (curSeq ctx) gF = false ∧ (readS (curSeq ctx) 1).toNat % 4 = 0 ∧ (readS (curSeq ctx) 31).toNat % 4 = 0 :=
  ⟨rfl, rfl, rfl, rfl, rfl, rfl⟩
theorem test_witness_TransfersOfControl_misaligned :
    (relative (ctxSeq fun q => { q with pc := 0x4002, s := [(31, 1)] }) 0).toNat % 4 ≠ 0 ∧
    (readS (curSeq ctx) 2).toNat % 4 ≠ 0 ∧
    (readS (curSeq (ctxSeq fun q => { q with pc := 0x4002, s := [(31, 1)] })) 31).toNat % 4 ≠ 0 := by decide

theorem test_witness_NopsHaltsTrapsAndReturns :
    seqActs svc = true ∧ svc.cur = .svc 0 ∧ guardHolds (curSeq svc) g0 = true ∧ ctx.cur = .seq 0 0 ∧
    (curSeq ctx).wait ≠ .trapped ∧
    (let h : State := { svc with svcs := [(0, { Svc.reset with inHandler := true, hpc := 0x1004 })] }
     h.cur = .svc 0 ∧ (svcOf h 0).hpc.toNat % 4 = 0 ∧ (svcOf h 0).inHandler = true) := by decide

/-- Three loops active; one whose body ends at 0x4008. -/
def looping (n : Nat) : State := ctxSeq fun q => { q with loops := (List.range n).map fun i => { lc := BitVec.ofNat 2 i, first := 0x4000, last := 0x4008 } }
theorem test_witness_HardwareLoops :
    seqActs ctx = true ∧ ¬ LoopRefused ctx .lc0 5 ∧ (curSeq ctx).loops = [] ∧ (readS (curSeq ctx) 1).toNat < 2 ^ 32 ∧
    readS (curSeq ctx) 1 ≠ 0 ∧ readS (curSeq ctx) 3 = 0 ∧
    (readS (curSeq (ctxSeq fun q => { q with s := [(1, 0x100000000)] })) 1).toNat ≥ 2 ^ 32 := by
  refine ⟨rfl, ?_, rfl, by decide, by decide, rfl, by decide⟩
  rintro (h | ⟨f, h, _⟩ | ⟨f, r, h, _⟩ | h) <;> first | exact absurd h (by decide) | cases h | exact nomatch h
theorem test_witness_HardwareLoops_refused :
    LoopRefused (looping 3) .lc0 0 ∧ LoopRefused (looping 1) .lc0 0 ∧ LoopRefused (looping 1) .lc1 2 ∧
    ¬ LoopRefused (looping 1) .lc1 1 :=
  ⟨.inl (by decide), .inr (.inl ⟨_, List.mem_cons_self, rfl⟩), .inr (.inr (.inl ⟨_, _, rfl, by decide⟩)), by
    rintro (h | ⟨f, h, g⟩ | ⟨f, r, h, g⟩ | h)
    · exact absurd h (by decide)
    · cases h with | head => exact absurd g (by decide) | tail _ h => cases h
    · cases h; exact absurd g (by decide)
    · exact absurd h (by decide)⟩
theorem test_witness_HardwareLoops_pass :
    (let s := ctxSeq fun q => { q with pc := 0x4008, loops := [{ lc := 1, first := 0x4000, last := 0x4008 }] }
     guardHolds (curSeq s) g0 = true ∧ (curSeq s).loops = [{ lc := 1, first := 0x4000, last := 0x4008 }] ∧
      (0x4008 : Word) = (curSeq s).pc) := by decide

/-! ### Witnesses: memory accesses, typed buffers, handles and copies -/

def onCtx (f : Ctx → Ctx) (s : State := ctx) : State := modCtx s 0 0 f
def onCore (f : Core → Core) (s : State := ctx) : State := modCore s 0 f
theorem calm_svc : Calm svc := ⟨rfl, rfl, rfl, rfl, rfl, (fun _ h => nomatch h), trivial⟩
theorem calm_ctx : Calm ctx := ⟨rfl, rfl, rfl, rfl, rfl, (fun _ h => nomatch h), rfl, rfl⟩
theorem reaches_of {s : State} {c k n : Nat} {va : Word} {need : Need} {p : Phys} (hc : s.cur = .seq c k)
    (h1 : va.toNat % n = 0) (h2 : isOk (translate s c (ctxOf s c k).r.xlroot va need).2 p = true) :
    Reaches s va n need (translate s c (ctxOf s c k).r.xlroot va need).1 p := by
  refine ⟨h1, ?_⟩; rw [hc]; exact Prod.ext rfl (ok_of h2)

/-- Where VA 0x8000 leads in `ctx`: PA 0x8000, through the leaf with its A and D bits set. -/
def at8000 : Phys := { pa := 0x8000, leaf := 0xC0F }
theorem test_witness_LoadsAndStores :
    seqActs ctx = true ∧ Canonical ctx = true ∧ Calm ctx ∧
    (∃ t, Reaches ctx (address ctx 1 (0 : BitVec 12)) Size.d.bytes needLoad t at8000 ∧ Clean t at8000 8) ∧
    (∃ t, Reaches ctx (address ctx 1 (0 : W32)) Size.d.bytes needLoad t at8000 ∧ Clean t at8000 8) ∧
    (∃ t, Reaches ctx (address ctx 2 (0xFFF : BitVec 12)) Size.b.bytes needStore t at8000) ∧
    (∃ t, Reaches ctx (address ctx 2 (0xFFFFFFFF : W32)) Size.w.bytes needStore t at8000) ∧
    (MemOrd.plain ≠ .sc ∧ MemOrd.sync .pod ≠ .sc) ∧ seqActs svc = true ∧ Canonical svc = true ∧ Calm svc ∧
    Reaches svc (address svc 1 (0 : BitVec 12)) 8 needLoad svc { pa := 0x1000, leaf := 0 } :=
  ⟨rfl, by decide +kernel, calm_ctx,
   ⟨_, reaches_of rfl (by decide +kernel) (by decide +kernel), .inr (by decide +kernel)⟩,
   ⟨_, reaches_of rfl (by decide +kernel) (by decide +kernel), .inr (by decide +kernel)⟩,
   ⟨_, reaches_of rfl (by decide +kernel) (by decide +kernel)⟩, ⟨_, reaches_of rfl (by decide +kernel) (by decide +kernel)⟩,
   by decide, rfl, rfl, calm_svc, by decide, by decide, rfl, by decide⟩

/-- An SC operation whose request the ring has answered with 7. -/
def answered : Req :=
  { id := 5, who := .unit 0 0 0, pa := 0x8000, va := 0x8000, host := false, ord := 0, sc := true, op := .load 8, asid := 0
    accepted := some 1, within := none, answer := some (7, false), batch := 5, acq := false, axb := 0 }
theorem test_witness_ScOperationsTakeTheRingsAnswer :
    let s : State := { ctxSeq (fun q => { q with wait := .request 5 }) with reqs := [answered] }
    seqActs s = true ∧ curWait s = .request 5 ∧ s.reqs.find? (fun x => x.id == 5) = some answered ∧
    answered.answer = some (7, false) ∧ guardHolds (curSeq s) g0 = true := ⟨rfl, rfl, rfl, rfl, rfl⟩
theorem test_witness_ScOperationsTakeTheRingsAnswer_sent : ∀ b, ∃ t, Reaches ctx (address ctx 1 (0 : BitVec 12)) 8 (needSc b) t at8000 :=
  fun b => by cases b <;> exact ⟨_, reaches_of rfl (by decide +kernel) (by decide +kernel)⟩

theorem test_witness_AtomicsAndAccumulates :
    (∃ x, x ∈ atomics) ∧ seqActs ctx = true ∧ Canonical ctx = true ∧ Calm ctx ∧ guardHolds (curSeq ctx) g0 = true ∧ AtomOrd.rel ≠ .sc ∧
    (∀ b, ∃ t, Reaches ctx (readS (curSeq ctx) 1) 8 { needStore with host := b } t at8000 ∧ Clean t at8000 8) ∧
    (∃ t, Reaches ctx (readS (curSeq ctx) 1) 64 { needStore with host := false } t at8000 ∧ Clean t at8000 64) ∧
    (∃ t, Reaches ctx (readS (curSeq ctx) 1) 64 { needLoad with host := false } t at8000 ∧ Clean t at8000 64) :=
  ⟨⟨_, List.mem_cons_self⟩, rfl, by decide +kernel, calm_ctx, rfl, by decide,
   fun b => by cases b <;> exact ⟨_, reaches_of rfl (by decide +kernel) (by decide +kernel), .inr (by decide +kernel)⟩,
   ⟨_, reaches_of rfl (by decide +kernel) (by decide +kernel), .inr (by decide +kernel)⟩,
   ⟨_, reaches_of rfl (by decide +kernel) (by decide +kernel), .inr (by decide +kernel)⟩⟩
/-- 2^−149, the least FP32 value, is one unit. -/
theorem test_witness_AtomicsAndAccumulates_value : (axFmt .fp32).read 1 = .fin false 1 (-149) ∧ (-149 : Int) ≤ -149 := by
  decide +kernel

theorem test_witness_MisalignedAccessFaults :
    let s := onCtx fun x => { x with r := { x.r with fqctl := 0x0000000000100001 } }
    s.cur = .seq 0 0 ∧ curWait s = .none ∧ guardHolds (curSeq s) g0 = true ∧ Canonical s = true ∧
    (ctxOf s 0 0).r.fqctl.getLsbD 0 = true ∧ (ctxOf s 0 0).pending = [] ∧ unreleased (ctxOf s 0 0).r < 63 ∧
    (address s 2 (0 : BitVec 12)).toNat % Size.h.bytes ≠ 0 ∧ (address s 1 (0xFFFFFFFF : W32)).toNat % Size.d.bytes ≠ 0 ∧
    (readS (curSeq s) 2).toNat % (if true then 8 else 4) ≠ 0 ∧ (readS (curSeq s) 2).toNat % 64 ≠ 0 := by decide +kernel

/-- Descriptor 0 of space W is HELD by the sequencer, with one granule; H1 names it, and S3 a target. -/
def bufCtx (st : DescState := .held 0) : State :=
  onCore (fun x => { x with descs := [(0, { Desc.reset with st := st, size := 1 })] })
    (ctxSeq fun q => { q with h := [(1, 0)], s := [(1, 64), (2, 0x8000), (3, 1), (4, 0x0)] })
theorem calm_buf : Calm bufCtx := ⟨rfl, rfl, rfl, rfl, rfl, (fun _ h => nomatch h), rfl, rfl⟩
theorem test_witness_BufferLoadsAndStores :
    bufCtx.cur = .seq 0 0 ∧ Canonical bufCtx = true ∧ Calm bufCtx ∧ PortFree bufCtx 0 0 ∧ guardHolds (curSeq bufCtx) g0 = true ∧
    (∀ w, bufCheck bufCtx 0 0 0 (readH (curSeq bufCtx) 1) none (readS (curSeq bufCtx) 1).toNat Size.d.bytes w =
      .ok { core := 0, space := 0, at_ := 64 }) ∧
    (bufRead bufCtx { core := 0, space := 0, at_ := 64 } 8).2 = none ∧
    (∀ w, bufCheck bufCtx 0 0 0 (readH (curSeq bufCtx) 1) none (4088 : BitVec 20).toNat Size.d.bytes w =
      .ok { core := 0, space := 0, at_ := 4088 }) :=
  ⟨rfl, by decide +kernel, calm_buf, .inr rfl, rfl, fun w => ok_of (by cases w <;> decide +kernel), by decide +kernel,
   fun w => ok_of (by cases w <;> decide +kernel)⟩

theorem test_witness_HandlesMove_alloc :
    let s := ctx
    let x := ctxOf bufCtx 0 0
    s.cur = .seq 0 0 ∧ guardHolds (curSeq s) g0 = true ∧
    (descOf (coreOf s 0) 1 0).st = .free ∧ usedRuns (coreOf s 0) 1 true = [] ∧
    (readS (curSeq bufCtx) 3).toNat = 1 ∧ (1 : BitVec 2) ≠ 3 ∧
    Valid bufCtx 0 (readH (curSeq bufCtx) 1) ∧ hOwner (readH (curSeq bufCtx) 1) = bayPos 0 ∧
    handleCore 0 (readH (curSeq bufCtx) 1) = 0 ∧ (named bufCtx 0 (readH (curSeq bufCtx) 1)).st = .held 0 ∧
    (named bufCtx 0 (readH (curSeq bufCtx) 1)).key = x.r.key :=
  ⟨rfl, rfl, rfl, rfl, by decide, by decide, ⟨by decide, by decide, by decide⟩, by decide, by decide, by decide, by decide⟩
theorem test_witness_HandlesMove_run : RunFree (coreOf ctx 0) 1 1 0 := ⟨by decide, fun _ h => nomatch h⟩
theorem test_witness_HandlesMove_full :
    let s := onCore fun x => { x with descs := (List.range 64).map fun i => (64 + i, { Desc.reset with st := .held 1 }) }
    ∀ j < 64, (descOf (coreOf s 0) 1 j).st ≠ .free := by decide +kernel
theorem test_witness_HandlesMove_give :
    let hv := readH (curSeq bufCtx) 1
    let v := readS (curSeq bufCtx) 3
    v.toNat < 128 ∧ field v 4 3 ≤ 4 ∧ targetRefused (field v 0 4) 0 (handleCore 0 hv) = false ∧ Calm bufCtx ∧
    requester bufCtx 0 0 (handleCore 0 hv) (named bufCtx 0 hv) (field v 4 3) = some 0 ∧
    (let s := modCtx (bufCtx (.offered 0 1)) 0 0 fun x => { x with seq := { x.seq with wait := .moving } }
     curWait s = .moving ∧ (named s 0 hv).st ≠ .draining 0 (field v 0 4)) :=
  ⟨by decide, by decide, by decide, calm_buf, by decide, by decide, by decide⟩
theorem test_witness_HandlesMove_take :
    let s := bufCtx (.offered 0 1)
    let v := readS (curSeq s) 4
    Valid s 0 (v.setWidth 16) ∧ v.toNat < 2 ^ 19 ∧ field v 16 3 ≤ 4 ∧
    requester s 0 0 (handleCore 0 (v.setWidth 16)) (named s 0 (v.setWidth 16)) (field v 16 3) = some 0 ∧
    (named s 0 (v.setWidth 16)).st = .offered 0 1 ∧ (named bufCtx 0 (v.setWidth 16)).st = .held 0 ∧
    (named s 0 (v.setWidth 16)).asid.toNat = asidOf (ctxOf s 0 0) ∧ (named s 0 (v.setWidth 16)).size ≤ 256 :=
  ⟨⟨by decide, by decide, by decide⟩, by decide, by decide, rfl, rfl, by decide, rfl, by decide⟩

def bufReq (d : Option Word) : BufReq := { id := 3, core := 0, slot := 0, unit := 0, handle := 0, off := 64, n := 8, data := d, answer := none }
def bufWitness (d : Option Word) : Bool :=
  let s : State := { bufCtx with bufreqs := [bufReq d] }
  Canonical s && s.packets == [] && isOk (bufCheck s 0 0 0 0 none 64 8 (bufReq d).data.isSome) { core := 0, space := 0, at_ := 64 } &&
    (bufRead s { core := 0, space := 0, at_ := 64 } 8).2 == none &&
    isOk (bufCheckOf true s 0 0 0 0 none 64 8 (bufReq d).data.isSome) { core := 0, space := 0, at_ := 64 } && (coreOf s 0).grants == []
theorem test_witness_DescriptorTableEvents :
    Canonical bufCtx = true ∧
    bufWitness none = true ∧ bufWitness (some 5) = true ∧
    (descOf (coreOf (bufCtx (.draining 0 1)) 0) 0 0).st = .draining 0 1 ∧
    handleBusy (bufCtx (.draining 0 1)) 0 (mkHandle 0 (bayPos 0) 0 0) = false ∧
    (descOf (coreOf (bufCtx (.moving 0 2)) 0) 0 0).st = .moving 0 2 ∧
    handleBusy (bufCtx (.moving 0 2)) 0 (mkHandle 0 (bayPos 0) 0 0) = false ∧
    lookD (coreOf (onCore fun x => { x with clearing := [(1, [(2, 3)])] }) 0).clearing 1 [] = [(2, 3)] := by decide +kernel

/-- A copy of 64 bytes within the buffer, from offset 0 to offset 64. -/
def copyWords : List Word := [0x5000000000000000, 64, 0x100000040, 0, 0, 0, 0, 0]
def plainCopy (chunks : List Nat) : Copy :=
  { id := 9, key := 0, elemIssued := none, words := copyWords, asid := 0, code := 0x4000, chunks := chunks, xb := 0, poison := false
    largest := 0, stop := none, age := 0, given := false, kept := [], fetch := none }
/-- Its descriptor in memory at 0x8000, whose address S2 holds. -/
def copyCtx : State := { bufCtx with hbm := writeBytes bufCtx.hbm 0x8000 (copyWords.flatMap fun w => natLE 8 w.toNat) }
theorem calm_copy : Calm copyCtx := ⟨rfl, rfl, rfl, rfl, rfl, (fun _ h => nomatch h), rfl, rfl⟩
theorem test_witness_CopiesRun_issue :
    copyCtx.cur = .seq 0 0 ∧ guardHolds (curSeq copyCtx) g0 = true ∧ Calm copyCtx ∧
    (∃ t, Reaches copyCtx (readS (curSeq copyCtx) 2) 64 needLoad t at8000 ∧ Clean t at8000 64 ∧
      copyIllegal (asidOf (ctxOf copyCtx 0 0)) (recordAt t at8000 8) = false) :=
  ⟨rfl, rfl, calm_copy, ⟨_, reaches_of rfl (by decide +kernel) (by decide +kernel), .inr (by decide +kernel), by decide +kernel⟩⟩
theorem test_witness_CopiesRun_query :
    let s := onCore (fun x => { x with copies := [plainCopy []] }) (ctxSeq fun q => { q with s := [(1, 9), (2, 255), (3, BitVec.allOnes 64)] })
    (plainCopy []) ∈ (coreOf s 0).copies ∧ (plainCopy []).id = (readS (curSeq s) 1).toNat ∧
    (∀ z ∈ (coreOf s 0).copies, z.key = (plainCopy []).key → z.id = (plainCopy []).id → z = plainCopy []) ∧
    (readS (curSeq s) 2).toNat < 256 ∧
    (∀ y ∈ (coreOf s 0).copies, y.key = (ctxOf s 0 0).r.key → y.id ≠ (readS (curSeq s) 2).toNat) ∧
    readS (curSeq s) 3 = BitVec.allOnes 64 ∧ (∀ y ∈ (coreOf ctx 0).copies, y.key ≠ (ctxOf ctx 0 0).r.key) := by decide +kernel
theorem sole_copy (y : List Copy) : SoleContext (onCore (fun x => { x with copies := y }) bufCtx) 0 0 := ⟨⟨_, rfl⟩, rfl, rfl, rfl⟩
theorem test_witness_CopiesRun_engine :
    let s := onCore (fun x => { x with copies := [plainCopy []] }) bufCtx
    SoleContext s 0 0 ∧ Canonical s = true ∧ (coreOf s 0).copies = [plainCopy []] ∧ cpConv copyWords = 0 ∧ cpRows copyWords = 1 ∧
    cpRowBytes copyWords = 64 ∧ (cpReads (plainCopy [])).meets (cpWrites (plainCopy [])) = false ∧
    field (dw copyWords 0) 60 2 ≠ 0 ∧ field (dw copyWords 0) 62 2 ≠ 0 ∧
    bufCheck s 0 0 4 (BitVec.ofNat 16 (field (dw copyWords 0) 32 16)) (some (field (dw copyWords 0) 60 2 - 1))
      (field (dw copyWords 0) 0 20) 64 false = .ok { core := 0, space := 0, at_ := 0 } ∧
    bufCheck s 0 0 4 (BitVec.ofNat 16 (field (dw copyWords 1) 32 16)) (some (field (dw copyWords 0) 62 2 - 1))
      (field (dw copyWords 1) 0 20) 64 true = .ok { core := 0, space := 0, at_ := 64 } ∧ (coreOf s 0).tpoison = [] ∧ (coreOf s 0).grants = [] ∧ (coreOf s 0).bwEn = false :=
  ⟨sole_copy _, by decide +kernel, by decide +kernel, by decide, by decide, by decide, by decide, by decide, by decide,
   ok_of (by decide +kernel), ok_of (by decide +kernel), by decide +kernel, rfl, rfl⟩
theorem test_witness_CopiesRun_retire :
    let y := plainCopy [0]
    let s := onCore (fun x => { x with copies := [y] }) bufCtx
    SoleContext s 0 0 ∧ Canonical s = true ∧ (coreOf s 0).copies = [y] ∧ copyChunks y.words ≤ y.chunks.length ∧
    (dw y.words 4).getLsbD 61 = false ∧ (dw y.words 5).getLsbD 63 = false :=
  ⟨sole_copy _, by decide +kernel, by decide +kernel, by decide, by decide, by decide⟩
/-- A command token that names the descriptor at 0x8000 waits at hard port 22. -/
def cmdFlight : Flight := { tok := { colour := 0, iter := 0, lanes := [0x8000, 0], xb := 0, last := false, src := 0 }, dest := { elem := 0, slot := 0, opnd := 0 }, entry := 0, origin := (0, 0), hops := 0 }
def cmdCtx : State := onCore (fun x => { x with hport := [(88, [cmdFlight])] }) copyCtx
def cmdVa : Nat := (nth cmdFlight.tok.lanes 0 0).toNat + 2 ^ 32 * field (nth cmdFlight.tok.lanes 1 0) 0 16
theorem test_witness_CopiesRun_token :
    SoleContext cmdCtx 0 0 ∧ Canonical cmdCtx = true ∧ lookD (coreOf cmdCtx 0).hport (22 * 4 + 0) [] = cmdFlight :: [] ∧
    (coreOf cmdCtx 0).copies.length < 16 ∧ cmdFlight.tok.lanes ≠ [] ∧ (ctxOf cmdCtx 0 0).cfgStop = [] ∧
    (ctxOf cmdCtx 0 0).insts = [] ∧ cmdCtx.hbmStacks = [] ∧ cmdCtx.reqs = [] ∧ cmdCtx.bufreqs = [] ∧ cmdVa % 64 = 0 :=
  ⟨⟨⟨_, rfl⟩, rfl, rfl, rfl⟩, by decide +kernel, by decide +kernel, by decide, by decide, rfl, rfl, rfl, rfl, rfl, by decide⟩
theorem test_witness_CopiesRun_token_descriptor :
    ∃ t, translate cmdCtx 0 (ctxOf cmdCtx 0 0).r.xlroot (BitVec.ofNat 64 cmdVa) needLoad = (t, .ok at8000) ∧ Clean t at8000 64 ∧
      copyIllegal (asidOf (ctxOf cmdCtx 0 0)) (recordAt t at8000 8) = false :=
  ⟨_, Prod.ext rfl (ok_of (by decide +kernel)), .inr (by decide +kernel), by decide +kernel⟩

/-! ### Witnesses: fences, barriers, pokes, system instructions, queues, tasks and members -/

/-- A store of one byte at 0x8000 of context 0, and a near-memory command whose lock holds its line. -/
def lockedStore : Req :=
  { id := 5, who := .unit 0 0 0, pa := 0x8000, va := 0x8000, host := false, ord := 0, sc := false, op := .store [1] false, asid := 0
    accepted := none, within := none, answer := none, batch := 5, acq := false, axb := 0 }
def nmCmd : NmCmd :=
  { words := [], core := 0, slot := 0, key := 0, asid := 0, root := 0x10001, cmpl := 0, ext := [(0x8000, 64)], obj := 0, pas := []
    ce := 0, locked := true, chunks := 0, poiscnt := 0, badva := 0, xb := 0, acc := 0, maxv := 0, abort := false, home := 0 }
theorem test_witness_FencesAndBarriers_locked :
    let s : State := { ctx with reqs := [lockedStore], hbmStacks := [(0, { Stack.reset with slots := [(0, nmCmd)] })] }
    seqActs s = true ∧ guardHolds (curSeq s) g0 = true ∧ s.reqs = [lockedStore] ∧ lockedStore.who = seqWho s ∧
    isLocked s lockedStore.pa 1 = true ∧ lockedStore.ord ≠ 2 ∧ { lockedStore with ord := 2 }.who = seqWho s := by decide

/-- A task of tier 1 whose bay holds cores 0 to 6. -/
def task0 : Task :=
  { id := 1, queue := 0, asid := 0, tier := 1, inst := 0, tag := 0, done := 0x9000, root := 0x10001, cores := [0, 1, 2, 3, 4, 5, 6]
    ended := [], lost := false, level := 0, bars := [], rsig := 0, wsig := 0, retired := false }
def taskCtx (f : Ctx → Ctx) : State := { onCtx (fun x => f { x with task := 1 }) (ctxSeq fun q => { q with s := [(1, 1), (2, 7), (3, 8), (4, 0xFFFF)] }) with tasks := [task0] }
theorem calm_task : Calm (taskCtx id) := ⟨rfl, rfl, rfl, rfl, rfl, (fun _ h => nomatch h), rfl, rfl⟩
theorem test_witness_FencesAndBarriers :
    seqActs ctx = true ∧ Calm ctx ∧ (taskCtx id).cur = .seq 0 0 ∧ guardHolds (curSeq (taskCtx id)) g0 = true ∧
    taskOf (taskCtx id) (ctxOf (taskCtx id) 0 0).task = some task0 ∧ Calm (taskCtx id) ∧
    (readS (curSeq (taskCtx id)) 2).toNat < 8 ∧ scopeRank .bay ≤ task0.tier ∧
    look (ctxOf (taskCtx id) 0 0).arrived (Scope.bay.code.toNat * 8 + 7) = none ∧
    (readS (curSeq (taskCtx id)) 4).toNat < 2 ^ 16 ∧ genComplete (barrier task0 .bay 0 7).2 ((readS (curSeq (taskCtx id)) 4).setWidth 16) = true ∧
    (readS (curSeq (taskCtx id)) 3).toNat ≥ 8 ∧ scopeRank .stack > task0.tier ∧ curWait (taskCtx id) = .none ∧
    (let s := taskCtx fun x => { x with seq := { x.seq with wait := .generation 0xFFFF } }
     curWait s = .generation 0xFFFF ∧ genComplete (barrier task0 .bay 0 7).2 0xFFFF = true) ∧
    (let s := taskCtx fun x => { x with arriving := [15] }
     (ctxOf s 0 0).arriving = (Scope.bay.code.toNat * 8 + 7) :: []) :=
  ⟨rfl, calm_ctx, rfl, rfl, by decide +kernel, calm_task, by decide, by decide, rfl, by decide, by decide +kernel, by decide,
   by decide, rfl, by decide +kernel, rfl⟩

/-- Core 1 runs the task too. -/
def pokeCtx : State := modCtx (taskCtx id) 1 2 fun x => { x with task := 1, r := { x.r with state := .running } }
theorem calm_poke : Calm pokeCtx := ⟨by decide, rfl, rfl, rfl, rfl, (fun _ h => nomatch h), by decide, by decide⟩
theorem test_witness_PokesClampsAndTrace :
    pokeCtx.cur = .seq 0 0 ∧ guardHolds (curSeq pokeCtx) g0 = true ∧ Calm pokeCtx ∧
    taskOf pokeCtx (ctxOf pokeCtx 0 0).task = some task0 ∧ 1 ∈ task0.cores ∧ readS (curSeq pokeCtx) 1 = BitVec.ofNat 64 1 ∧
    taskSlot pokeCtx 1 (ctxOf pokeCtx 0 0).task = some 2 ∧ ((1, 2) : Nat × Nat) ≠ (0, 0) ∧
    (curSeq (ctxSeq fun q => { q with evcnt := 0xFFFF })).evcnt ≠ 0 ∧ (readS (curSeq pokeCtx) 1).toNat < 2 ^ 13 ∧
    (readS (curSeq pokeCtx) 4).toNat ≥ 2 ^ 13 ∧ (coreOf pokeCtx 0).trbuf.length < 64 :=
  ⟨rfl, rfl, calm_poke, by decide +kernel, by decide, rfl, by decide +kernel, by decide, by decide, by decide +kernel, by decide, by decide⟩
/-- A DOZE of 1 cycle, or a QPUSHW with QTMO 1, that has waited since cycle 0. -/
def waited (w : Nat) (s : State := ctx) : State :=
  { modCtx s 0 0 fun x => { x with seq := { x.seq with s := [(2, 1)], wait := .since 0, qtmo := 1 } } with
    cycle := 1, hbm := writeBytes s.hbm 0x4000 (natLE 4 w) }
theorem test_witness_PokesClampsAndTrace_doze :
    let s := waited 0xC1020004
    let t := (waitingInstr s 0 0).1
    (waitingInstr s 0 0).2 = some (.doze g0 8 2) ∧ t.cur = .seq 0 0 ∧ (curSeq t).evcnt = 0 ∧ curWait t = .since 0 ∧
    readS (curSeq t) 2 ≠ 0 ∧ 0 + (readS (curSeq t) 2).toNat ≤ t.cycle := by decide +kernel
def pokePacket : Packet :=
  { id := 1, cls := 0, core := 1, slot := 0, flits := 1, dst := 3, dstUnit := 0, node := 3, dir := 0, esc := false, since := 0
    load := .poke 0 1, line := none, reserved := false, header := none }
theorem test_witness_PokesClampsAndTrace_poke :
    let s : State := { taskCtx id with packets := [pokePacket] }
    s.packets = [pokePacket] ∧ pokePacket.load = .poke 0 (ctxOf s 0 0).task ∧ pokePacket.node = pokePacket.dst ∧
    (ctxOf s 0 0).r.state = .running := by decide

theorem test_witness_SystemRegistersAndPrivilege :
    seqActs ctx = true ∧ (curSeq ctx).loops.length ≤ 3 ∧ (∃ x, x ∈ commonRegs ctx) ∧ ctx.cur = .seq 0 0 ∧ svc.cur = .svc 0 ∧
    (readS (curSeq svc) 1).toNat % 4 = 0 ∧ readS (curSeq svc) 2 &&& ~~~0x3E = 0 ∧ readS (curSeq ctx) 2 &&& ~~~0x3E ≠ 0 ∧
    guardHolds (curSeq ctx) g0 = true ∧ Scope.dev ≠ .pod :=
  ⟨rfl, by decide, ⟨_, List.mem_cons_self⟩, rfl, rfl, by decide, by decide, by decide, rfl, by decide⟩

theorem test_witness_Invalidations :
    guardHolds (curSeq ctx) g0 = true ∧ ctx.reqs = [] ∧ ctx.cur = .seq 0 0 ∧ Scope.bay ≠ .pod ∧
    guardHolds (curSeq svc) g0 = true ∧ svc.reqs = [] ∧ svc.cur = .svc 0 ∧ (readS (curSeq svc) 2).toNat < 4096 :=
  ⟨rfl, rfl, rfl, by decide, rfl, rfl, rfl, by decide⟩

/-- Queue 0 is open to ASID 0 both ways and holds n packets; S1 names it, S2 is 0x8000. -/
def packet0 (w0 : Word) (rest : List Word := [0x8000, 1, 0, 0, 0, 0, 0]) : List Word := w0 :: rest
def queueCtx (n : Nat) : State :=
  { ctxSeq fun q => { q with s := [(1, 0), (2, 0x8000), (3, 1)] } with
    queues := [(0, { Queue.reset with qcfg := 0xE0000000000, packets := List.replicate n (packet0 0x600000000000000) })] }
theorem calm_queue (n : Nat) : Calm (queueCtx n) := ⟨rfl, rfl, rfl, rfl, rfl, (fun _ h => nomatch h), rfl, rfl⟩
theorem test_witness_QueuesPushedAndPopped :
    (queueCtx 0).cur = .seq 0 0 ∧ guardHolds (curSeq (queueCtx 0)) g0 = true ∧ Canonical (queueCtx 0) = true ∧
    (∀ n, Calm (queueCtx n)) ∧ (∀ b, Opens (queueCtx 0) 0 0 1 b) ∧
    (∃ t, Reaches (queueCtx 0) (readS (curSeq (queueCtx 0)) 2) 64 needLoad t at8000 ∧ Clean t at8000 64) ∧
    (queueOf (queueCtx 63) 0).packets.length < 64 ∧ (queueOf (queueCtx 64) 0).packets.length ≥ 64 ∧
    (queueOf (queueCtx 1) 0).packets = packet0 0x600000000000000 :: [] ∧ (packet0 0).length = 8 ∧
    (∃ t, Reaches (queueCtx 1) (readS (curSeq (queueCtx 1)) 2) 64 needStore t at8000) ∧
    (queueOf (queueCtx 0) 0).packets = [] ∧ (readS (curSeq (queueCtx 0)) 2).toNat % 64 = 0 ∧
    (queueOf (queueCtx 64) 0).packets.length ≤ 64 :=
  ⟨rfl, rfl, by decide +kernel, calm_queue, fun b => ⟨by decide, by cases b <;> decide⟩,
   ⟨_, reaches_of rfl (by decide) (by decide +kernel), .inr (by decide +kernel)⟩, by decide, by decide, by decide, by decide,
   ⟨_, reaches_of rfl (by decide) (by decide +kernel)⟩, by decide, by decide, by decide⟩
theorem test_witness_QueuesPushedAndPopped_traps :
    (readS (curSeq (queueCtx 0)) 3).toNat < 128 ∧ (readS (curSeq (queueCtx 0)) 2).toNat % 64 = 0 ∧
    queueOpen (queueCtx 0) 0 0 1 true = false ∧ queueOpen (queueCtx 0) 0 0 1 false = false ∧
    lookD (queueCtx 0).vlogs (coreDie 0) VLog.reset = VLog.reset ∧
    (let s := waited 0 (queueCtx 64)
     curWait s = .since 0 ∧ (queueOf s 0).packets.length ≥ 64 ∧ (curSeq s).qtmo ≠ 0 ∧ 0 + (curSeq s).qtmo.toNat ≤ s.cycle) := by
  decide
theorem test_witness_QueuesPushedAndPopped_timeout :
    let s := waited 0xC0051001 (queueCtx 64)
    let t := (waitingInstr s 0 0).1
    (waitingInstr s 0 0).2 = some (.qpushw g0 5 2) ∧ t.cur = .seq 0 0 ∧ curWait t = .since 0 ∧
    (readS (curSeq t) 5).toNat < 128 ∧ (queueOf t (readS (curSeq t) 5).toNat).packets.length ≥ 64 ∧ (curSeq t).qtmo ≠ 0 ∧
    0 + (curSeq t).qtmo.toNat ≤ t.cycle := by decide +kernel

/-- Queue 0 of ASID 0, enabled, with one packet at its head. -/
def headState (p : List Word) (checked : Bool) : State :=
  { ctx with cycle := 2048, jobs := [(0, { Job.reset with root := some 0x10001 })], queues := [(0, { Queue.reset with qcfg := 0xE0000000000, packets := [p], checked := checked })] }
theorem head_asid (p : List Word) (b : Bool) : qAsid (queueOf (headState p b) 0) = 0 :=
  (by decide : field (0xE0000000000#64) 52 12 = 0)
theorem settled_head (p : List Word) (b : Bool) : Settled (headState p b) 0 :=
  ⟨(fun _ h => nomatch h), by rw [head_asid]; rfl, by rw [head_asid]; rfl⟩
theorem at_head (p : List Word) : AtHead (headState p true) 0 p (pkType p) := ⟨⟨[], rfl⟩, (by decide : (0xE0000000000#64).getLsbD 41 = true), rfl, rfl⟩
theorem test_witness_DispatcherWork_check :
    let s := headState (packet0 0x600000000000000 [9, 0, 0, 0, 0, 0, 0]) false
    let bad := headState (packet0 0x700000000000000) false
    (queueOf s 0).packets = (packet0 0x600000000000000 [9, 0, 0, 0, 0, 0, 0]) :: [] ∧ (queueOf s 0).qcfg.getLsbD 41 = true ∧
    (queueOf s 0).checked = false ∧ checkPacket s 0 (queueOf s 0) (packet0 0x600000000000000 [9, 0, 0, 0, 0, 0, 0]) = 0 ∧
    checkPacket bad 0 (queueOf bad 0) (packet0 0x700000000000000) = 1 ∧
    checkPacket s 0 (queueOf s 0) (packet0 0x500000000000000) = 0 ∧ pkType (packet0 0x500000000000000) = 5 := by decide
theorem test_witness_DispatcherWork :
    AtHead (headState (packet0 0x400000000000000) true) 0 (packet0 0x400000000000000) 4 ∧
    AtHead (headState (packet0 0x500000000000000) true) 0 (packet0 0x500000000000000) 5 ∧
    AtHead (headState (packet0 0x200000000000000) true) 0 (packet0 0x200000000000000) 2 ∧
    AtHead (headState (packet0 0x300000000000002) true) 0 (packet0 0x300000000000002) 3 ∧
    (∀ p, Settled (headState p true) 0) ∧ (∀ p, (headState p true).hbmStacks = [] ∧ (headState p true).reqs = []) ∧
    (∀ p, (queueOf (headState p true) 0).started = [] ∧ (queueOf (headState p true) 0).early = []) :=
  ⟨at_head _, at_head _, at_head _, at_head _, fun _ => settled_head _ _, fun _ => ⟨rfl, rfl⟩, fun _ => ⟨rfl, rfl⟩⟩
theorem test_witness_DispatcherWork_signals :
    let s := headState (packet0 0x400000000000000) true
    let u := headState (packet0 0x500000000000000) true
    (queueOf s 0).polled + 1024 ≤ s.cycle ∧ Canonical u = true ∧
    (∃ t, signalAt s (jobRoot s 0) 0x8000 false = (t, some at8000) ∧ Clean t at8000 8) ∧
    (∃ t, signalAt (popHead u 0) (jobRoot u 0) 0x8000 true = (t, some at8000) ∧ Clean t at8000 8) :=
  ⟨by decide, by decide +kernel, ⟨_, Prod.ext rfl (by decide +kernel), .inr (by decide +kernel)⟩,
   ⟨_, Prod.ext rfl (by decide +kernel), .inr (by decide +kernel)⟩⟩
theorem test_witness_DispatcherWork_conflict :
    firstConflict [{ task0 with wsig := 1 }, { task0 with id := 2, rsig := 3 }] = some { task0 with wsig := 1 } ∧
    firstConflict [{ task0 with wsig := 1 }, { task0 with id := 2, rsig := 2 }] = none ∧
    (headState (packet0 0x200000000000000) true).tasks.filter (fun x => x.asid.toNat == 0) = [] := by decide +kernel

/-- A LAUNCH of tier 0, quota 4, width 8, on core 0, with its code at 0x4000. -/
def launch0 : List Word := [0x0100900000000000, 0x4000, 0x10001, 0x100000, 0, 7, 0x9000, 0]
theorem queue_other (p : List Word) {m : Nat} (h : m ≠ 0) : queueOf (headState p true) m = Queue.reset := by
  simp [queueOf, headState, lookD, look, Ne.symm h]
theorem test_witness_MembersStartAndEnd :
    AtHead (headState launch0 true) 0 launch0 1 ∧ Settled (headState launch0 true) 0 ∧
    (headState launch0 true).lastStart ≤ (headState launch0 true).cycle ∧
    (∀ m, m ≠ 0 → startable (headState launch0 true) m = none) ∧ startable (headState launch0 true) 0 = some launch0 ∧
    (∃ i, fitsIn (headState launch0 true) 0 launch0 = some i ∧ (tierCores (pkTier launch0) i).Nodup) := by
  refine ⟨at_head _, settled_head _ _, by decide, fun m h => ?_, by decide, 0, by decide +kernel, by decide⟩
  unfold startable; rw [queue_other _ h]; rfl
theorem test_witness_MembersStartAndEnd_end :
    let s := taskCtx fun x => { x with seq := { x.seq with stopped := true } }
    (∀ t ∈ s.tasks, t.over = false) ∧ s.reqs = [] ∧ s.bufreqs = [] ∧ (ctxOf s 0 0).seq.stopped = true ∧ (ctxOf s 0 0).r.state = .running ∧
    (ctxOf s 0 0).trap = none ∧ instancesDone (ctxOf s 0 0) = true ∧ enginesDone s 0 0 = true ∧
    task0.ended.length + 1 < task0.cores.length := by decide +kernel
theorem test_witness_MembersStartAndEnd_watchdog :
    let s : State := { taskCtx id with cycle := 0x01000000 }
    (ctxOf s 0 0).r.state = .running ∧ (ctxOf s 0 0).trap = none ∧ (ctxOf s 0 0).r.wdlim ≠ 0 ∧
    (ctxOf s 0 0).progress + (ctxOf s 0 0).r.wdlim.toNat ≤ s.cycle := by decide

/-- A context in a state, with the stage of its gating. -/
def staged (st : CtxState) (gates : Nat) : State := onCtx fun x => { x with r := { x.r with state := st, prev := .gated }, gates := gates, area := 0x40000000 }
theorem test_witness_ContextsSavedAndRestored_gate :
    (ctxOf (staged .gated 1) 0 0).r.state = .gated ∧ (ctxOf (staged .gated 1) 0 0).gates = 1 ∧
    wayMatched (coreOf (staged .gated 1) 0) 0 = false ∧ wayFiring (coreOf (staged .gated 1) 0) 0 = false ∧
    (ctxOf (staged .gated 2) 0 0).gates = 2 ∧ deliveryPending (coreOf (staged .gated 2) 0) 0 = false ∧
    (ctxOf (staged .gated 2) 0 0).insts = [] ∧ (ctxOf (staged .gated 2) 0 0).r.ovfbase.getLsbD 0 = false ∧
    (ctxOf (staged .gated 3) 0 0).gates = 3 := by decide +kernel
/-- Service core 0 executes CTXSAVE or CTXREST of core 0: S1 is 0, S2 is 0, S3 is 5. -/
def svcOn (s : State) (w : Wait) : State :=
  { s with cur := .svc 0, svcs := [(0, { Svc.reset with seq := { Seq.reset with s := [(3, 5)], wait := w } })] }
def savedCtx : Saved := { key := 5, ctx := { Ctx.reset with quota := 4, r := { CtxRegs.reset with key := 5, state := .saved } }, gens := [], accs := [] }
def savedState (w : Wait) : State := svcOn (modCore State.reset 0 fun x => { x with saved := [savedCtx] }) w
theorem test_witness_ContextsSavedAndRestored :
    (let s := svcOn (staged .quiescent 3) .none
     s.cur = .svc 0 ∧ guardHolds (curSeq s) g0 = true ∧ readS (curSeq s) 1 = BitVec.ofNat 64 0 ∧ curWait s = .none ∧
      readS (curSeq s) 2 = BitVec.ofNat 64 0 ∧ (ctxOf s 0 0).r.state = .quiescent) ∧
    (let s := savedState (.saving 0 5)
     curWait s = .saving 0 5 ∧ keySlot s 0 5 = none ∧ (∃ v ∈ (coreOf s 0).saved, v.key = 5)) ∧
    (let s := savedState .none
     readS (curSeq s) 3 = savedCtx.key.setWidth 64 ∧ (coreOf s 0).saved = [savedCtx] ∧ savedCtx.ctx.pending = [] ∧
      freeSlot (coreOf s 0) = some 0 ∧ (jobOf s (asidOf savedCtx.ctx)).clamped = false ∧ quotaSum (coreOf s 0) + savedCtx.ctx.quota ≤ 64) ∧
    (let s := svcOn (onCtx fun x => { x with r := { x.r with key := 5 } }) (.restoring 5)
     curWait s = .restoring 5 ∧ keySlot s 0 5 = some 0 ∧ (ctxOf s 0 0).r.state ≠ .restoring) := by
  refine ⟨by decide, ⟨by decide, by decide, savedCtx, by decide, rfl⟩, by decide, by decide⟩
theorem test_witness_ContextsSavedAndRestored_save :
    let s := staged .saving 3
    let x := ctxOf s 0 0
    x.r.state = .saving ∧ enginesQuiet s 0 0 = true ∧ s.reqs = [] ∧ x.lam = [] ∧ x.places = [] ∧ x.binds = [] ∧
    (coreOf s 0).elems = [] ∧ (coreOf s 0).smPair = none ∧ x.area % 1048576 = 0 ∧ isHbm x.area = true ∧
    isHbm (x.area + 1048575) = true ∧ s.poison = [] ∧ Canonical s = true ∧ s.bufreqs = [] ∧ s.hbmStacks = [] ∧ x.late = [] := by decide +kernel
theorem test_witness_ContextsSavedAndRestored_restore :
    let s := staged .restoring 0
    let x := ctxOf s 0 0
    x.r.state = .restoring ∧ x.side = none ∧ x.image = 0 ∧ x.places = [] ∧ x.insts = [] ∧ x.r.prev = .gated ∧
    readLE s.hbm (x.area + 0x60000) 8 < 2 ^ 63 ∧ (jobOf s (asidOf x)).clamped = false := by decide +kernel

theorem test_witness_FencesAndBarriers_pod :
    let t := { task0 with tier := 4 }
    let s : State := { taskCtx id with tasks := [t] }
    taskOf s (ctxOf s 0 0).task = some t ∧ t.tier = 4 := by decide +kernel
/-! ### Witnesses: blocks, region commands and streams -/

/-- A placement of a block at 0x8000, on element 0. -/
def place0 : Placement :=
  { id := 1, va := 0x8000, pin := none, unpinning := false, count := 1, exits := 1, scount := 0, lcount := 0, nopred := true, map := [0], routes := [] }
def inst0 : Inst :=
  { age := 1, born := 0, place := 1, va := 0x8000, colour := 0, iter := 3, state := .live, closedE := [], closedL := [], exits := 0, exitTok := none, effects := []
    loads := [], inputs := [], fired := 0, chain := false, held := [], colours := [], fault := none, trap := none, waitSeq := none }
/-- Colour 0 is ACTIVE with 8 lanes, quota 16; S1 is 0x8000, S2 COUNT and iteration, S3 is 0, S4 is 5. -/
def blockCtx (count : Nat) (f : Ctx → Ctx := id) : State :=
  onCtx (fun x => f { x with colours := [(0, (8, false))], quota := 16, places := [place0], nextPlace := 2 })
    (ctxSeq fun q => { q with s := [(1, 0x8000), (2, BitVec.ofNat 64 (count * 65536)), (4, 5), (5, 0x8040)] })
theorem calm_block (n : Nat) (f : Ctx → Ctx) (h : ∀ x, (f x).seq = x.seq) : Calm (blockCtx n f) :=
  ⟨congrArg Seq.wait (h _), rfl, rfl, rfl, rfl, (fun _ h => nomatch h), rfl, rfl⟩
theorem test_witness_BlocksRun :
    (blockCtx 1).cur = .seq 0 0 ∧ curWait (blockCtx 1) = .none ∧ Calm (blockCtx 1) ∧ BlockOperands (blockCtx 1) 0 0 1 3 ∧
    (∀ n ∈ [0, 1, 2, 65535], (readS (curSeq (blockCtx n)) 2).toNat < 2 ^ 32 ∧ field (readS (curSeq (blockCtx n)) 2) 16 16 = n) ∧
    placedAt (ctxOf (blockCtx 1) 0 0) 0x8000 = some place0 ∧ placeOf (ctxOf (blockCtx 1) 0 0) place0.id = some place0 ∧
    mayCreate (blockCtx 1) 0 0 0 0 = true ∧ (∀ i ∈ (ctxOf (blockCtx 1) 0 0).insts, i.state ≠ .discarded) ∧
    placedAt (ctxOf (blockCtx 1) 0 0) 0x8040 = none ∧ (ctxOf (blockCtx 1) 0 0).jig = none :=
  ⟨rfl, by decide, calm_block 1 id fun _ => rfl, ⟨by decide, by decide, by decide⟩, by decide, by decide, by decide, by decide, by decide,
   by decide, by decide⟩
theorem test_witness_BlocksRun_pins :
    let s := blockCtx 1 fun x => { x with places := [{ place0 with pin := some (5, 0) }] }
    (readS (curSeq s) 4).toNat < 16 ∧ pinnedAt (ctxOf (blockCtx 1) 0 0) 5 = none ∧ (ctxOf (blockCtx 1) 0 0).places = [place0] ∧
    place0.va = (readS (curSeq s) 1).toNat ∧ place0.pin = none ∧ pinnedAt (ctxOf s 0 0) 5 = some { place0 with pin := some (5, 0) } ∧
    (∀ i ∈ (ctxOf s 0 0).insts, i.place ≠ place0.id) := by decide
theorem test_witness_BlocksRun_map :
    (readS (curSeq (blockCtx 1)) 1).toNat % 128 = 0 ∧ place0.map.length = 1 ∧ Canonical (blockCtx 1) = true ∧
    (∃ u, Reaches (blockCtx 1) (readS (curSeq (blockCtx 1)) 1) 4 needStore u at8000) :=
  ⟨by decide, rfl, by decide +kernel, ⟨_, reaches_of rfl (by decide) (by decide +kernel)⟩⟩
theorem test_witness_BlocksRun_create :
    let s := blockCtx 2 fun x => { x with seq := { x.seq with wait := .creating 1 0 false 7 2 } }
    seqRuns s 0 0 = true ∧ (ctxOf s 0 0).seq.wait = .creating 1 0 false 7 2 ∧ placeOf (ctxOf s 0 0) 1 = some place0 ∧
    mayCreate s 0 0 0 7 = true := by decide
/-- A block of one EXIT, in memory at 0x8000, asked of the jig; `full` occupies every slot of the way. -/
def jigState (full : Bool) : State :=
  let s := blockCtx 1 fun x => { x with places := [], jig := some { va := 0x8000, pin := none, front := false } }
  { onCore (fun y => if full then { y with elems := (List.range 64).map fun e => (e, { Elem.reset with ways := [(0, { Way.reset with v := true, slotv := 0xFFFFFFFF })] }) } else y) s with
    hbm := writeBytes s.hbm 0x8000 (natLE 4 0x01010101 ++ natLE 12 0 ++ natLE 4 0x911E0000 ++ natLE 4 0) }
def jigBlk : Blk := { header := [0x01010101, 0, 0, 0], words := [0x911E0000], targets := [0], consts := [] }
/-- Whether an answer is this value. -/
def gotIs {α : Type} [DecidableEq α] (e : CfgEnd α) (b : α) : Bool := match e with | .got x => x == b | _ => false
theorem got_of {α : Type} [DecidableEq α] {e : CfgEnd α} {b : α} (h : gotIs e b = true) : e = .got b := by
  unfold gotIs at h; split at h
  · exact congrArg _ (of_decide_eq_true h)
  · cases h
theorem test_witness_BlocksRun_jig :
    ∀ full : Bool, let s := jigState full
    (ctxOf s 0 0).jig = some { va := 0x8000, pin := none, front := false } ∧ ctxMoves s 0 0 = true ∧ (ctxOf s 0 0).trap = none ∧
    ∃ t u, readBlock s 0 0 0x8000 = (t, .got jigBlk) ∧ blockBad (ctxOf t 0 0).hportv jigBlk = false ∧
      fetchAll t 0 0 (List.range 64) = (u, .got ()) ∧ (ctxOf u 0 0).places = [] ∧ (ctxOf u 0 0).trap = none :=
  fun full => ⟨by cases full <;> rfl, by cases full <;> decide +kernel, by cases full <;> rfl,
    (readBlock (jigState full) 0 0 0x8000).1, (fetchAll (readBlock (jigState full) 0 0 0x8000).1 0 0 (List.range 64)).1,
    Prod.ext rfl (got_of (by cases full <;> decide +kernel)), by cases full <;> decide +kernel,
    Prod.ext rfl (got_of (by cases full <;> decide +kernel)), by cases full <;> decide +kernel, by cases full <;> decide +kernel⟩
theorem test_witness_BlocksRun_attempts :
    (∃ q, attempt (coreOf (jigState false) 0) 0 jigBlk = .ok q ∧ ctxIn q.core 0 = ctxOf (jigState false) 0 0 ∧ q.cycles < 2 ^ 32) ∧
    (∃ f, attempt (coreOf (jigState true) 0) 0 jigBlk = .error f ∧ f.reason < 256 ∧ f.index < 256 ∧ f.cycles < 2 ^ 32) := by
  constructor
  · have h : (match attempt (coreOf (jigState false) 0) 0 jigBlk with
        | .ok q => decide (ctxIn q.core 0 = ctxOf (jigState false) 0 0 ∧ q.cycles < 2 ^ 32) | .error _ => false) = true := by decide +kernel
    cases ha : attempt (coreOf (jigState false) 0) 0 jigBlk with
    | ok q => rw [ha] at h; exact ⟨q, rfl, of_decide_eq_true h⟩
    | error f => rw [ha] at h; cases h
  · have h : (match attempt (coreOf (jigState true) 0) 0 jigBlk with
        | .error f => decide (f.reason < 256 ∧ f.index < 256 ∧ f.cycles < 2 ^ 32) | .ok _ => false) = true := by decide +kernel
    cases ha : attempt (coreOf (jigState true) 0) 0 jigBlk with
    | ok q => rw [ha] at h; cases h
    | error f => rw [ha] at h; exact ⟨f, rfl, of_decide_eq_true h⟩
def chain0 : Chain := { colour := 0, next := 4, active := true, waiting := some 0x8000, predicted := none }
theorem test_witness_BlocksRun_chain :
    let s := blockCtx 1 fun x => { x with chain := some chain0 }
    (ctxOf s 0 0).chain = some chain0 ∧ regionMoves s 0 0 = true ∧ (ctxOf s 0 0).gates = 0 ∧ (ctxOf s 0 0).trap = none ∧
    (ctxOf s 0 0).feStop = none ∧ chain0.waiting = some 0x8000 ∧ (chainInsts (ctxOf s 0 0)).length < 3 ∧ placedAt (ctxOf s 0 0) 0x8000 = some place0 ∧
    mayCreate s 0 0 chain0.colour chain0.next = true ∧ (∀ i ∈ (ctxOf s 0 0).insts, i.state ≠ .discarded) := by decide

/-- Element 0's way holds a SINK in slot 2. -/
def sinkTok : Token := { colour := 0, iter := 3, lanes := [7, 8], xb := 0, last := true, src := 1 }
def sinkCtx : State :=
  onCore (fun y => { y with elems := [(0, { Elem.reset with ways := [(0, { Way.reset with v := true, slotv := 4, slots := [(2, 0x941E0000)] })] })] })
    (blockCtx 1 fun x => { x with sinks := [(2, [{ tok := sinkTok, after := 0, age := 0 }])]
                                  seq := { x.seq with s := [(1, 0xABCD), (2, 0x30081), (4, 0x80), (5, 0x1C1)] } })
theorem calm_sink : Calm sinkCtx := ⟨rfl, rfl, rfl, rfl, rfl, (fun _ h => nomatch h), rfl, rfl⟩
theorem elem_other (s : State) (c e : Nat) (h : look (coreOf s c).elems e = none) : elemOf s c e = Elem.reset := by
  simp [elemOf, elemIn, lookD, h]
theorem test_witness_RegionCommands_leave :
    ctx.cur = .seq 0 0 ∧ readS (curSeq ctx) 3 = 0 ∧ boundOps ctx 0 0 = false ∧ (∀ p ∈ (ctxOf ctx 0 0).places, p.pin = none) ∧
    (ctxOf ctx 0 0).binds = [] ∧ (ctxOf ctx 0 0).late = [] ∧ commandTokens ctx 0 0 = [] ∧ ctx.reqs = [] ∧ ctx.bufreqs = [] ∧ (∀ e, ((elemOf ctx 0 e).ways.map (·.1)).Nodup) :=
  ⟨rfl, rfl, by decide, by decide, rfl, rfl, rfl, rfl, rfl, fun e => by rw [elem_other ctx 0 e rfl]; decide⟩
theorem test_witness_RegionCommands :
    sinkCtx.cur = .seq 0 0 ∧ curWait sinkCtx = .none ∧ Calm sinkCtx ∧ (readS (curSeq sinkCtx) 2).toNat < 2 ^ 32 ∧
    field (readS (curSeq sinkCtx) 2) 13 3 = 0 ∧ (readS (curSeq sinkCtx) 3).toNat < 256 ∧ colourActive (ctxOf sinkCtx 0 0) 0 = true ∧
    (ctxOf sinkCtx 0 0).gates = 0 ∧ tagOpen sinkCtx 0 0 0 3 = true ∧
    (readS (curSeq sinkCtx) 4).toNat < 4096 ∧ field (readS (curSeq sinkCtx) 4) 0 6 = 0 ∧ field (readS (curSeq sinkCtx) 4) 6 5 = 2 ∧
    (wayOf (coreOf sinkCtx 0) 0 0).v = true ∧ slotValid (coreOf sinkCtx 0) 0 0 2 = true ∧ wordOpc (slotWord (coreOf sinkCtx 0) 0 0 2) = 0x94 ∧
    lookD (ctxOf sinkCtx 0 0).sinks 2 [] = { tok := sinkTok, after := 0, age := 0 } :: [] ∧ sinkTok.lanes.length ≤ 32 ∧
    (readS (curSeq sinkCtx) 4).toNat < 512 ∧ field (readS (curSeq sinkCtx) 4) 6 3 ≠ 7 ∧ field (readS (curSeq sinkCtx) 5) 6 3 = 7 ∧
    (ctxOf sinkCtx 0 0).roundReq = false ∧ commandTokens sinkCtx 0 0 = [] ∧ (ctxOf (onCtx fun x => { x with roundReq := true }) 0 0).roundReq = true :=
  ⟨rfl, rfl, calm_sink, by decide, rfl, by decide, by decide, rfl, by decide, by decide, rfl, rfl, rfl,
   by decide, rfl, rfl, by decide, by decide, by decide, rfl, rfl, rfl, rfl⟩
theorem test_witness_RegionCommands_gates :
    Names ctx 0 0 0 0 ∧ (ctxOf ctx 0 0).r.state = .running ∧ (ctxOf ctx 0 0).gates = 0 ∧
    (let s := svcOn (staged .quiescent 3) .none
     Names s 1 2 0 0 ∧ (ctxOf s 0 0).r.state = .quiescent ∧ (ctxOf s 0 0).gates ≠ 0 ∧ (ctxOf s 0 0).ckpt = [] ∧
      (ctxOf s 0 0).ckptPort = [] ∧ (ctxOf s 0 0).insts = []) ∧
    Names svc 3 2 0 2 ∧ (ctxOf svc 0 2).r.state = .free ∧ svc.cur = .svc 0 ∧ 224 ≤ (readS (curSeq svc) 1).toNat ∧
    4 ≤ (readS (curSeq svc) 1).toNat :=
  ⟨.inl ⟨rfl, rfl, rfl⟩, rfl, rfl, ⟨.inr ⟨0, by decide, by decide, by decide, by decide, by decide⟩, by decide, by decide, by decide, by decide, by decide⟩,
   .inr ⟨0, by decide, by decide, by decide, by decide, by decide⟩, by decide, by decide, by decide, by decide⟩

/-- A stream of one 4-byte element at 0x9000, in colour 0; its descriptor at 0x8000. -/
def streamWords : List Word := [0x2000000000009000, 0, 0x100000000, 0x100000000, 0x100000000, 0x100000000, 0, 0]
def streamCtx : State :=
  let s := blockCtx 1 fun x => { x with hportv := 0xFFFFFFFF }
  { s with hbm := writeBytes s.hbm 0x8000 (streamWords.flatMap fun w => natLE 8 w.toNat) }
theorem calm_stream : Calm streamCtx := ⟨rfl, rfl, rfl, rfl, rfl, (fun _ h => nomatch h), rfl, rfl⟩
theorem test_witness_StreamsRun :
    streamCtx.cur = .seq 0 0 ∧ Calm streamCtx ∧
    (∃ t, Reaches streamCtx (readS (curSeq streamCtx) 1) 64 needLoad t at8000 ∧ Clean t at8000 64 ∧
      streamIllegal (recordAt t at8000 8) = false ∧ colourActive (ctxOf streamCtx 0 0) ((dw (recordAt t at8000 8) 1).extractLsb' 56 8) = true) ∧
    (ctxOf streamCtx 0 0).hportv.getLsbD (15 : BitVec 4).toNat = true ∧ (ctxOf streamCtx 0 0).gates = 0 ∧
    (lookD (coreOf streamCtx 0).ports 15 []).length < 4 ∧ barredBy (coreOf streamCtx 0) (field (readS (curSeq streamCtx) 1) 0 16) = [] :=
  ⟨rfl, calm_stream, ⟨_, reaches_of rfl (by decide) (by decide +kernel), .inr (by decide +kernel), by decide +kernel, by decide +kernel⟩,
   by decide, by decide, by decide, by decide⟩
def cmd0 (write : Bool) (done : Nat) : StreamCmd :=
  { space := 0, sz := 2, write := write, resv := false, lastdim := 0, base := 0x8000, handle := 0, colour := 0, width := 8, next := 3
    dims := [(1, 0), (1, 0), (1, 0), (1, 0)], done := done, part := [], key := 0, code := 0, stop := none, fault := none, number := 0 }
def portTok : Flight :=
  { tok := { sinkTok with last := false }, dest := { elem := 0, slot := 0, opnd := 0 }, entry := 0, origin := (0, 0), hops := 0 }
def runCtx (write : Bool) (done : Nat) : State :=
  onCore (fun y => { y with ports := [(3, [cmd0 write done])], hport := [(12, [portTok])] }) (blockCtx 1)
theorem test_witness_StreamsRun_engine :
    ∀ w : Bool, let s := runCtx w 0
    let q := cmd0 w 0
    lookD (coreOf s 0).ports 3 [] = [q] ∧ slotOf (coreOf s 0) q.key = some 0 ∧ q.part = [] ∧ streamMoves s 0 0 q = true ∧ (coreOf s 0).bwEn = false ∧
    q.done + 1 = q.total ∧ q.run = 1 ∧ (coreOf s 0).copies = [] ∧ s.hbmStacks = [] ∧
    q.base + elemOffset q.dims q.done = 0x8000 ∧ colourActive (ctxOf s 0 0) q.colour = true ∧ tagOpen s 0 0 q.colour q.next = true ∧
    lookD (coreOf s 0).hpOut (3 * 4 + 0) [] = [] ∧ s.reqs = [] ∧ lookD (coreOf s 0).hport (3 * 4 + 0) [] = portTok :: [] ∧
    portTok.tok.lanes = 7 :: [8] := by decide
theorem test_witness_StreamsRun_memory :
    Canonical (runCtx true 0) = true ∧
    (∃ t, translate (runCtx false 0) 0 (ctxOf (runCtx false 0) 0 0).r.xlroot (BitVec.ofInt 64 0x8000) needLoad = (t, .ok at8000) ∧ Clean t at8000 4) ∧
    (∃ t, translate (runCtx true 0) 0 (ctxOf (runCtx true 0) 0 0).r.xlroot (BitVec.ofInt 64 0x8000) needStore = (t, .ok at8000)) ∧
    (cmd0 true 1).total ≤ (cmd0 true 1).done :=
  ⟨by decide +kernel, ⟨_, Prod.ext rfl (ok_of (by decide +kernel)), .inr (by decide +kernel)⟩, ⟨_, Prod.ext rfl (ok_of (by decide +kernel))⟩, by decide⟩

/-- The run's one element is found, the ports grant it, and the read finds no poison. -/
def runFound (w : Bool) : Bool :=
  let r := findRun (runCtx w 0) 0 0 (cmd0 w 0) (rangeFrom 0 1)
  (r.2.2).isNone && (grantSpots r.1 portEdge (r.2.1.flatMap (·.2))).isSome && r.2.1.all fun e => (readSpots r.1 e.2).all fun b => !b.2
theorem test_witness_StreamsRun_found : runFound false = true ∧ runFound true = true := by decide +kernel
/-! ### Witnesses: element instructions -/

def hdr (nt : BitVec 2) (ks : BitVec 3 := 7) : EHdr := { pm := .always, nt := nt, ks := ks, kp := 0, om := 1 }
/-- A token of colour 0 and iteration 3 with these lanes, or of another colour. -/
def tokOf (lanes : List W32) (c : Byte := 0) : Token := { colour := c, iter := 3, lanes := lanes, xb := 0, last := false, src := 0 }
/-- Element 0 of core 0 fires its slot 2 with these tokens, of an instance or of none; colour 0 has 8 lanes, colour 1 four. -/
def fireCtx (toks : List Token) (inst : Nat := 0) (f : Ctx → Ctx := id) (w : Way := Way.reset) : State :=
  let r : RSet := { way := 0, slot := 2, colour := 0, iter := 3, inst := inst, toks := toks, charges := [], held := false }
  { onCore (fun y => { y with elems := [(0, { Elem.reset with ways := [(0, w)], issuing := some r })] })
      (blockCtx 1 fun x => f { x with colours := [(0, (8, false)), (1, (4, false))], insts := [inst0] }) with cur := .elem 0 0 }
/-- The firing under way. -/
def theFire (h : EHdr) (s : State) : Fire :=
  match fireOf h s with
  | some f => f
  | none => { c := 0, e := 0, k := 0, set := { way := 0, slot := 0, colour := 0, iter := 0, inst := 0, toks := [], charges := [], held := false }
              hdr := h, g := 0, ops := [], pred := none, xb := 0, last := false }
theorem fire_of {h : EHdr} {s : State} (w : (fireOf h s).isSome = true) : fireOf h s = some (theFire h s) := by
  unfold theFire; split
  · assumption
  · rename_i e; rw [e] at w; cases w
/-- The firing's facts, decided one by one, and what else a statement asks of it. -/
theorem fire_ex {s : State} {h : EHdr} {P : Fire → Prop} (w : (fireOf h s).isSome = true) (v : strays s (theFire h s) = false)
    (p : P (theFire h s)) : ∃ f, FiresAny s h f ∧ P f := ⟨_, ⟨fire_of w, v⟩, p⟩
def three : List Token := [tokOf [1, 2, 3, 4, 5, 6, 7, 8], tokOf [0x3F800000], tokOf [5]]
theorem three_fires : ∃ f, Fires (fireCtx three) (hdr 3) f ∧ 0 < f.g := ⟨theFire _ _, ⟨fire_of rfl, by decide, rfl⟩, by decide⟩
/-- One operand null, in an instruction of three operands and in one of one. -/
theorem null_fires : (∃ f, FiresNull (fireCtx [tokOf [2], tokOf [], tokOf [1]]) (hdr 3) f) ∧ (∃ f, FiresNull (fireCtx [tokOf []]) (hdr 1) f) :=
  ⟨⟨_, fire_of rfl, by decide, rfl⟩, _, fire_of rfl, by decide, rfl⟩

theorem test_witness_IntegerLanes :
    (∃ f, Fires (fireCtx three) (hdr 3) f) ∧ (∃ f, FiresNull (fireCtx [tokOf []]) (hdr 1) f) ∧ (∃ p, p ∈ integers .i32) ∧
    (Ty.i8 = .i32 ∨ Ty.i8 = .i16 ∨ Ty.i8 = .i8) :=
  ⟨three_fires.imp fun _ => And.left, null_fires.2, ⟨_, List.mem_append_left _ List.mem_cons_self⟩, .inr (.inr rfl)⟩
theorem test_witness_FloatLanes :
    (∃ f, Fires (fireCtx three) (hdr 3) f) ∧ (∃ f, FiresNull (fireCtx [tokOf [2], tokOf [], tokOf [1]]) (hdr 3) f) ∧
    (∃ p, p ∈ floats .fp32 .rne) ∧ (∃ p, p ∈ specials) ∧ (Ty.bf16 = .fp32 ∨ Ty.bf16 = .bf16 ∨ Ty.bf16 = .fp16) ∧
    (RMode.rdn = .rne ∨ RMode.rdn = .rtz ∨ RMode.rdn = .rup ∨ RMode.rdn = .rdn) ∧ RMode.sr ≠ .dr :=
  ⟨three_fires.imp fun _ => And.left, null_fires.1, ⟨_, List.mem_cons_self⟩, ⟨_, List.mem_cons_self⟩, .inr (.inl rfl),
   .inr (.inr (.inr rfl)), nofun⟩
/-- 3 · 2^−24 lies between two FP16 subnormals' multiples, 5 · 2^−25 between two of them; the largest finite value stands. -/
theorem test_witness_RoundedOnce :
    (-25 : Int) ≤ -25 ∧ (-25 : Int) ≤ fp16.qmin ∧ (roundTo fp16 .rne (.fin true 5 (-25))).2 &&& xOF = 0 ∧
    (roundTo fp16 .rne (.fin true 5 (-25))).2 &&& xNX ≠ 0 ∧ (roundTo fp16 .rtz (.fin false 65504 0)).2 &&& xOF = 0 := by decide +kernel
theorem test_witness_LanesAndColours :
    (∃ f, Fires (fireCtx three) (hdr 3) f ∧ 0 < f.g) ∧ (∃ f, FiresNull (fireCtx [tokOf []]) (hdr 1) f) ∧
    suits .addx .fp16 ∧ suits .min .i8 ∧ suits .xor .i16 :=
  ⟨three_fires, null_fires.2, .inr (.inr rfl), .inr (.inr (.inr (.inr (.inr rfl)))), .inr (.inl rfl)⟩
/-- A constant of colours 1 and 1 in K0, for UNPACK. -/
def kWay : Way := { Way.reset with k := [(0, 0x0101)] }
/-- Two tokens of colour 1 for PACK, and one for UNPACK. -/
def packState : State := fireCtx [tokOf [1, 2, 3, 4] 1, tokOf [5] 1]
def unpackState : State := fireCtx [tokOf [1]] 0 id kWay
theorem test_witness_LanesAndColours_colours :
    (∃ f, FiresAny packState (hdr 2) f ∧ f.void = false ∧
      (let x := ctxOf packState f.c f.k
       colourActive x 0 = true ∧ tagOpen packState f.c f.k 0 f.set.iter = true ∧
        colourWidth x (nth (f.set.toks.map (·.colour)) 0 0) + colourWidth x (nth (f.set.toks.map (·.colour)) 1 0) ≤ colourWidth x 0)) ∧
    (∃ f, FiresAny unpackState (hdr 1 0) f ∧
      (let w := lookD (wayOf (coreOf unpackState f.c) f.e f.k).k (hdr 1 0).ks.toNat 0
       let x := ctxOf unpackState f.c f.k
       f.void = false ∧ w.extractLsb' 16 16 = 0 ∧ colourOfLane w = 1 ∧ w.extractLsb' 8 8 = 1 ∧ colourActive x 1 = true ∧
        colourWidth x 1 + colourWidth x 1 ≤ f.g ∧ tagOpen unpackState f.c f.k 1 f.set.iter = true)) ∧
    (∃ f, FiresAny (fireCtx [tokOf []]) (hdr 1) f ∧ f.void = true) :=
  ⟨fire_ex rfl rfl (by decide), fire_ex rfl rfl (by decide), fire_ex rfl rfl (by decide)⟩
/-- One token of 32, which asks for that many lanes, and one of 1, which names a colour, in instance 1 or in none. -/
def askState : State := fireCtx [tokOf [32]]
def quotaState : State := fireCtx [tokOf [32]] 0 fun x => { x with quota := 3 }
def freeState (inst : Nat) : State := fireCtx [tokOf [1]] inst
theorem test_witness_LanesAndColours_alloc :
    (∃ f, FiresAny askState (hdr 1) f ∧ f.void = false ∧ 1 ≤ (f.x 0 0).toNat ∧ (f.x 0 0).toNat ≤ 32 ∧
      look (ctxOf askState f.c f.k).colours 2 = none ∧ (∀ m < 2, look (ctxOf askState f.c f.k).colours m ≠ none) ∧
      freeReserve (ctxOf askState f.c f.k) ≠ 0 ∧ coreColours (coreOf askState f.c) < 64) ∧
    (∃ f, FiresAny quotaState (hdr 1) f ∧ f.void = false ∧ (f.x 0 0).toNat = 32 ∧ freeReserve (ctxOf quotaState f.c f.k) = 0) ∧
    (∃ f, FiresAny (freeState 0) (hdr 1) f ∧ f.void = false ∧ Alone (freeState 0) f ∧
      look (ctxOf (freeState 0) f.c f.k).colours (colourOfLane (f.x 0 0)).toNat = some (4, false)) ∧
    (∃ f, FiresAny (freeState 1) (hdr 1) f ∧ f.void = false ∧ InInst (freeState 1) f inst0 0) :=
  ⟨fire_ex rfl rfl (by decide), fire_ex rfl rfl (by decide), fire_ex rfl rfl ⟨rfl, ⟨rfl, rfl⟩, by decide⟩,
   fire_ex rfl rfl ⟨rfl, by decide, by decide, rfl⟩⟩

/-- Two tokens for MERGE and STEER: null or not, the second 0 or not. -/
def pair (a b : List W32) : State := fireCtx [tokOf a, tokOf b]
theorem test_witness_TokensAndCounters :
    (∃ f, FiresAny (pair [] [1]) (hdr 2) f ∧ colourActive (ctxOf (pair [] [1]) f.c f.k) f.set.colour = true ∧
      (f.op 0).isNull = true ∧ (f.op 1).isNull = false ∧ f.void = true) ∧
    (∃ f, FiresAny (pair [2] [0]) (hdr 2) f ∧ (f.op 0).isNull = false ∧ f.void = false ∧ f.x 1 0 = 0) ∧
    (∃ f, FiresAny (pair [0] [2]) (hdr 2) f ∧ f.void = false ∧ f.x 1 0 ≠ 0) ∧
    (∃ f, FiresAny (pair [1] []) (hdr 2) f ∧ (f.op 0).isNull = false ∧ (f.op 1).isNull = true) ∧
    (∃ f, FiresAny (pair [] []) (hdr 2) f ∧ (f.op 0).isNull = true ∧ (f.op 1).isNull = true) :=
  ⟨fire_ex rfl rfl (by decide), fire_ex rfl rfl (by decide), fire_ex rfl rfl ⟨rfl, by decide⟩, fire_ex rfl rfl (by decide),
   fire_ex rfl rfl ⟨rfl, rfl⟩⟩
/-- EXIT in instance 1, which belongs to a chain or not, of a null token or of the exit value 128. -/
def exitState (lanes : List W32) (chained : Bool) : State :=
  fireCtx [tokOf lanes] 1 fun x => { x with
    insts := [{ inst0 with chain := chained }]
    chain := some { colour := 0, next := 4, active := true, waiting := none, predicted := none } }
theorem test_witness_TokensAndCounters_ends :
    (∃ f, FiresAny (exitState [] false) (hdr 1) f ∧ instOf (ctxOf (exitState [] false) f.c f.k) f.set.inst = some inst0 ∧
      (f.op 0).isNull = true ∧ placeOf (ctxOf (exitState [] false) f.c f.k) inst0.place = some place0 ∧ inst0.state = .live) ∧
    (∃ f, FiresAny (exitState [128] false) (hdr 1) f ∧ instOf (ctxOf (exitState [128] false) f.c f.k) f.set.inst = some inst0 ∧
      (f.op 0).isNull = false ∧ inst0.exitTok = none ∧ inst0.chain = false) ∧
    (∃ f i, FiresAny (exitState [128] true) (hdr 1) f ∧ instOf (ctxOf (exitState [128] true) f.c f.k) f.set.inst = some i ∧
      (f.op 0).isNull = false ∧ i.exitTok = none ∧ i.chain = true ∧
      exitValue (result f f.set.colour (lanesOf f 0) 0) = 128 ∧ (fromInst (ctxOf (exitState [128] true) f.c f.k) i.age).drop 1 = [] ∧
      (ctxOf (exitState [128] true) f.c f.k).chain.isSome = true) :=
  ⟨fire_ex rfl rfl ⟨rfl, rfl, by decide, rfl⟩, fire_ex rfl rfl ⟨by decide, rfl, rfl, rfl⟩,
   ⟨theFire _ _, _, ⟨fire_of rfl, rfl⟩, rfl, rfl, rfl, rfl, by decide, rfl, rfl⟩⟩
theorem test_witness_TokensAndCounters_sink :
    (∃ f, FiresAny (freeState 0) (hdr 1) f ∧ (f.op 0).isNull = false ∧ sinkHolds (ctxOf (freeState 0) f.c f.k) f.e f.set.slot < 8 ∧
      Alone (freeState 0) f) ∧
    (∃ f, FiresAny (freeState 1) (hdr 1) f ∧ InInst (freeState 1) f inst0 0) ∧
    (∃ f, FiresAny (exitState [] false) (hdr 1) f ∧ (f.op 0).isNull = true) :=
  ⟨fire_ex rfl rfl ⟨rfl, by decide, rfl, rfl⟩, fire_ex rfl rfl ⟨by decide, rfl, rfl⟩, fire_ex rfl rfl rfl⟩
/-- A counter of start 10, step 5, three emissions in colour 0, in slot 2, its outputs at port 0. -/
def cntWay : Way :=
  { Way.reset with v := true, slotv := 4, slots := [(2, 0xA8000100)], k := [(0, 10), (1, 5), (2, 3)], swt := [(0, 0x8004000000000000)] }
def chain3 (left : Nat) : CntChain :=
  { nodes := [{ elem := 0, slot := 2, level := 0, value := 10, left := left }], next := 3, running := true, start := 3, made := 0 }
def cntState (left : Nat) : State := fireCtx [] 0 (fun x => { x with counters := [(0, chain3 left)] }) cntWay
def cntIdle : State := modElem (cntState 1) 0 0 fun x => { x with issuing := none }
theorem test_witness_TokensAndCounters_count :
    regionMoves cntIdle 0 0 = true ∧ (wayOf (coreOf cntIdle 0) 0 0).v = true ∧ MayEmit cntIdle 0 0 0 0 (chain3 1) 2 10 true ∧
    (∃ f, fireOf (hdr 0 0) (cntState 3) = some f ∧ cntSlot (wayOf (coreOf (cntState 3) f.c) f.e f.k) 0 0 ≠ none ∧
      MayEmit (doneIssue (cntState 3) f) f.c f.k f.e 0 (chain3 3) 2 10 false) :=
  ⟨by decide, rfl, ⟨by decide, by decide, by decide, ⟨_, rfl⟩, by decide, by decide, by decide⟩,
   theFire _ _, fire_of (by decide), by decide, by decide, by decide, by decide, ⟨_, rfl⟩, by decide, by decide, by decide⟩
theorem test_witness_TokensAndCounters_acc :
    ∃ f, fireOf (hdr 1) (fireCtx [tokOf [1]]) = some f ∧ lookD (elemOf (fireCtx [tokOf [1]]) f.c f.e).acc (f.k * 32 + f.set.slot) [] = [] :=
  ⟨theFire _ _, fire_of (by decide), by decide⟩

/-! ### Witnesses: laminated registers, element memory and commit -/

/-- L0 is declared: IADD of 64-bit records over two lanes. -/
def decl0 : W32 := 0xB4
/-- L1 the sum of FP32 records. -/
def decl1 : W32 := 0x80
def lam0 : Lam := { decl := decl0, home := [emptyRec, emptyRec], transit := none }
def lamCtx (f : Ctx → Ctx := id) : State :=
  onCtx (fun x => f { x with lam := [(0, lam0)] }) (ctxSeq fun q => { q with s := [(1, 0xB4), (2, 0x100000000), (3, 0xFFF)] })
theorem test_witness_LaminatedRegisters_sequencer :
    lamCtx.cur = .seq 0 0 ∧ curWait lamCtx = .none ∧ inTransit (ctxOf lamCtx 0 0) 0 = false ∧
    (readS (curSeq lamCtx) 1).toNat < 2 ^ 32 ∧ declOk ((readS (curSeq lamCtx) 1).setWidth 32) = true ∧
    budgetOk lamCtx 0 0 (declWidth ((readS (curSeq lamCtx) 1).setWidth 32) * 48 - declWidth (lamOf (ctxOf lamCtx 0 0) 0).decl * 48) = true ∧
    2 ^ 32 ≤ (readS (curSeq lamCtx) 2).toNat ∧ declOk ((readS (curSeq lamCtx) 3).setWidth 32) = false ∧
    declared decl0 = true ∧ declFmt decl0 = 3 ∧ plySuits 3 (declFmt decl0) = true ∧ (1 : BitVec 5).toNat < declWidth decl0 ∧
    declWidth decl0 ≤ 32 ∧ declared (lamOf (ctxOf lamCtx 0 0) 1).decl = false := by decide +kernel
/-- The sequencer's buffer holds a ply of L0, one of L1, or none; a register's transit bit is set. -/
def plyCtx (ps : List Ply) : State := lamCtx fun x => { x with plies := [(64, ps)] }
def onePly (n : Nat) : Ply := { reg := n, born := 0, lanes := [emptyRec, emptyRec] }
def plyWaits (w : Wait) (t : Option (List Rec × Nat) := none) : State :=
  lamCtx fun x => { x with lam := [(0, { lam0 with transit := t })], seq := { x.seq with wait := w } }
theorem test_witness_LaminatedRegisters_plies :
    (∃ p ∈ lookD (ctxOf (plyCtx [onePly 0]) 0 0).plies 64 [], p.reg = 0) ∧
    (∀ p ∈ lookD (ctxOf (plyCtx [onePly 1]) 0 0).plies 64 [], p.reg ≠ 0) ∧
    (∀ p ∈ [onePly 0], PliesFit (p :: seqPlies (plyCtx [onePly 1]) 0)) ∧
    (let full := plyCtx [onePly 1, onePly 2, onePly 3, onePly 4]
     (∀ p ∈ lookD (ctxOf full 0 0).plies 64 [], p.reg ≠ 0) ∧ PliesFit (seqPlies full 0) ∧
      ((coreOf full 0).ctxs.map (·.1)).Pairwise (· < ·)) ∧
    (lamOf (ctxOf (plyWaits .none (some ([emptyRec], 9))) 0 0) 0).transit = some ([emptyRec], 9) ∧
    inTransit (ctxOf (plyWaits .none (some ([emptyRec], 9))) 0 0) 0 = true ∧
    (ctxOf (plyWaits (.gather 0)) 0 0).seq.wait = .gather 0 ∧ inTransit (ctxOf (plyWaits (.gather 0)) 0 0) 0 = false ∧
    curWait (plyWaits (.gathered [emptyRec, emptyRec])) = .gathered [emptyRec, emptyRec] := by
  unfold PliesFit seqPlies; decide +kernel
/-- An element fires where L0 is declared. -/
def lamFire (inst : Nat) (toks : List Token) : State := fireCtx toks inst fun x => { x with lam := [(0, lam0), (1, { decl := decl1, home := [], transit := none })] }
/-- A push of L0 is in transit while an element fires. -/
def lamBusy : State := fireCtx [tokOf [1]] 0 fun x => { x with lam := [(0, { lam0 with transit := some ([emptyRec], 9) })] }
theorem test_witness_LaminatedRegisters_element :
    (∃ f, FiresAny (lamFire 1 [tokOf [0xB4]]) (hdr 1) f ∧ f.void = false ∧ InInst (lamFire 1 [tokOf [0xB4]]) f inst0 1 ∧
      declOk (f.x 0 0) = true ∧
      (let x := ctxOf (lamFire 1 [tokOf [0xB4]]) f.c f.k
       declared (lamOf x 0).decl = true ∧ tySuits .i32 (declFmt (lamOf x 0).decl) = true ∧
        declared (lamOf x 1).decl = true ∧ tySuits .fp16 (declFmt (lamOf x 1).decl) = true)) ∧
    (∃ f, FiresAny (lamFire 1 [tokOf []]) (hdr 1) f ∧ f.void = true ∧ InInst (lamFire 1 [tokOf []]) f inst0 1) ∧
    (∃ f, FiresAny (lamFire 0 [tokOf [1]]) (hdr 1) f ∧ f.void = false ∧
      declFmt (lamOf (ctxOf (lamFire 0 [tokOf [1]]) f.c f.k) 0).decl = 3 ∧ rdlWaits (lamFire 0 [tokOf [1]]) f.c f.k f.set.inst 0 = false) ∧
    (∃ f, FiresAny lamBusy (hdr 1) f ∧ f.void = false ∧ rdlWaits lamBusy f.c f.k f.set.inst 0 = true) :=
  ⟨fire_ex rfl rfl ⟨rfl, ⟨by decide, rfl, rfl⟩, by decide⟩, fire_ex rfl rfl ⟨rfl, by decide, rfl, rfl⟩,
   fire_ex rfl rfl ⟨rfl, by decide, by decide⟩, fire_ex rfl rfl ⟨rfl, by decide⟩⟩
theorem test_witness_ContributionsCombineInAnyOrder : declOk decl0 = true ∧ declOk decl1 = true := by decide

/-- The first GiB of ASID 0 stands in core 0's TLB; colour 0 has two lanes, each of an address. -/
def hotEntry (leaf : Word := 0xC0F) : TlbEntry := { asid := 0, vpn := 0, span := 18, leaf := leaf, aBits := 1, dBits := 1 }
def hotTlb (leaf : Word := 0xC0F) : Tlb := { ways := [(0, hotEntry leaf)], tree := 0 }
def hotCtx (toks : List Token) (inst : Nat) (f : Ctx → Ctx := id) : State :=
  onCtx (fun x => f { x with colours := [(0, (2, false))] }) (onCore (fun y => { y with utlb := hotTlb }) (fireCtx toks inst))
def hotAt (va : Nat) (leaf : Word := 0xC0F) : Phys := { pa := (hotEntry leaf).pa va, leaf := leaf }
theorem hot_of {s : State} {c k va : Nat} {need : Need} {leaf : Word}
    (h : (ctxOf s c k).r.xlroot.getLsbD 0 = true ∧ va < 2 ^ 48 ∧
      utlbFind s c (field (ctxOf s c k).r.xlroot 52 12) (va / 4096) need.write = some (0, hotEntry leaf) ∧
      leafCheck need leaf ((hotEntry leaf).pa va) = none) : Hot s c k need va (hotAt va leaf) :=
  ⟨h.1, h.2.1, 0, hotEntry leaf, h.2.2.1, h.2.2.2, rfl⟩
theorem lanes_two {n : Nat} {P : Nat → Prop} (hn : n = 2) (h0 : P 0) (h1 : P 1) : ∀ l < n, P l := by
  intro l hl
  match l, hl with
  | 0, _ => exact h0
  | 1, _ => exact h1
  | l + 2, hl => omega
def addrTok : Token := tokOf [0x8000, 0x8040]
def loadState : State := hotCtx [addrTok] 0
/-- A load's or an AXRD's accesses, whether they may go to the host, and where their translations end. -/
def loadNeed (host : Bool) : Need := { needLoad with host := host }
def loadEnd (op : ReqOp) (host : Bool) : State :=
  let f := theFire (hdr 1) loadState
  (findLanes (lanesFault loadState f.c f.k (loadNeed host) (f.cells 1 op.bytes)).1 f.c f.k (loadNeed host) ((f.cells 1 op.bytes).map fun x => (x.1, op))).1
theorem test_witness_ElementMemory_loads :
    ∃ f, Fires loadState (hdr 1) f ∧ laterLoads (ctxOf loadState f.c f.k) f.set.inst 3 = [] ∧ HiOk f 1 ∧ Unheld loadState f.c f.k ∧ f.g = 2 ∧
      ∀ p ∈ [(ReqOp.load 1, true), (.load 2, true), (.load 4, true), (.axrd 0, false)],
        loadHeld loadState f MemOrd.plain.code.toNat (globalRec loadState f 3 (f.cells 1 p.1.bytes)) = false ∧
        LanesReach loadState f (loadNeed p.2) p.1 (fun l => hotAt (f.va 1 l)) (loadEnd p.1 p.2) ∧
        ∀ l < f.g, Clean (loadEnd p.1 p.2) (hotAt (f.va 1 l)) p.1.bytes := by
  refine ⟨theFire _ _, ⟨fire_of rfl, by decide, rfl⟩, by decide, by unfold HiOk; decide, ⟨rfl, rfl, rfl, rfl, rfl, rfl⟩, by decide, fun p h => ?_⟩
  simp only [List.mem_cons, List.not_mem_nil, or_false] at h
  obtain rfl | rfl | rfl | rfl := h <;>
  exact ⟨by decide +kernel, ⟨_, Prod.ext rfl (by decide +kernel), Prod.ext rfl (by decide +kernel)⟩,
    lanes_two (by decide) (.inr (by decide +kernel)) (.inr (by decide +kernel))⟩
/-- A handle of buffer 0 and the offsets of two lanes. -/
def bufState (inst : Nat) : State :=
  onCore (fun x => { x with descs := [(128, { Desc.reset with st := .held 1, size := 1 })] })
    (hotCtx [tokOf [(mkHandle 2 (bayPos 0) 0 0).setWidth 32], tokOf [0, 64], tokOf [7, 8]] inst)
/-- Lane l's place in the buffer. -/
def lanePlace (l : Nat) : BufPlace := { core := 0, space := 2, at_ := 64 * l }
theorem test_witness_ElementMemory_buffer :
    (∃ f, Fires (bufState 0) (hdr 3) f ∧
      (let hd : Half := (f.x 0 0).extractLsb' 0 16
       let r : LoadRec := { LoadRec.bare (f.e * 32 + f.set.slot) 3 with space := 1 + hd.toNat, cells := (List.range f.g).map fun l => ((f.x 1 l).toNat, 4) }
       laterLoads (ctxOf (bufState 0) f.c f.k) f.set.inst 3 = [] ∧ loadHeld (bufState 0) f (MemOrd.sync .pod).code.toNat r = false ∧
        farBusy (bufState 0) f.c f.k hd = false ∧ (coreOf (bufState 0) f.c).copies = [] ∧ (coreOf (bufState 0) f.c).bwEn = false ∧
        (bufState 0).deferred = false ∧ (coreOf (bufState 0) (handleCore f.c hd)).grants = []) ∧
      ∀ l < f.g, bufCheckOf f.set.held (bufState 0) f.c f.k 1 ((f.x 0 0).extractLsb' 0 16) none (f.x 1 l).toNat 4 false = .ok (lanePlace l) ∧
        (bufRead (bufState 0) (lanePlace l) 4).2 = none) ∧
    (∃ f, Fires (bufState 1) (hdr 3) f ∧ laterLoads (ctxOf (bufState 1) f.c f.k) f.set.inst 3 = [] ∧ InInst (bufState 1) f inst0 2 ∧
      ∀ l < f.g, ∃ p, bufCheck (bufState 1) f.c f.k 1 ((f.x 0 0).extractLsb' 0 16) none (f.x 1 l).toNat 4 true = .ok p) :=
  ⟨⟨theFire _ _, ⟨fire_of rfl, by decide, rfl⟩, by decide,
    lanes_two (by decide) ⟨ok_of (by decide +kernel), by decide +kernel⟩ ⟨ok_of (by decide +kernel), by decide +kernel⟩⟩,
   ⟨theFire _ _, ⟨fire_of rfl, by decide, rfl⟩, by decide, ⟨by decide, by decide, by decide⟩,
    lanes_two (by decide) ⟨lanePlace 0, ok_of (by decide +kernel)⟩ ⟨lanePlace 1, ok_of (by decide +kernel)⟩⟩⟩
/-- An instance's effect on two aligned addresses, with the hi operand at 1, 2 or 3, translated for a need. -/
def effectToks (hi : Nat) : List Token := addrTok :: List.replicate hi (tokOf [0])
def effectState (hi : Nat) : State := hotCtx (effectToks hi) 1
def effectHdr (hi : Nat) : EHdr := if hi = 3 then { pm := .always, nt := 3, ks := 0, kp := 3, om := 1 } else hdr (BitVec.ofNat 2 (hi + 1))
def effectFire (hi : Nat) : Fire := theFire (effectHdr hi) (effectState (min hi 2))
def effectCells (hi n : Nat) : List (Nat × Nat) := (List.range (effectFire hi).g).map fun l => (laneVa (effectFire hi) hi l, n)
/-- Whether the lanes' accesses of n bytes pass their checks. -/
def lanesPass (hi n : Nat) (need : Need) : Bool :=
  (lanesFault (effectState (min hi 2)) (effectFire hi).c (effectFire hi).k need (effectCells hi n)).2.isNone
theorem test_witness_ElementMemory_effects :
    (∃ a, a ∈ elemAtomics) ∧ ElemOrd.plain ≠ .sc ∧
    ∀ hi ∈ [1, 2, 3], let s := effectState (min hi 2)
      Fires s (effectHdr hi) (effectFire hi) ∧ laterLoads (ctxOf s (effectFire hi).c (effectFire hi).k) (effectFire hi).set.inst 3 = [] ∧
      InInst s (effectFire hi) inst0 2 ∧ InInst s (effectFire hi) inst0 0 ∧ HiOk (effectFire hi) hi ∧
      (∀ n ∈ [1, 2, 4, 64], ∀ need ∈ [needStore, { needStore with host := false }, needSc true, needSc false], lanesPass hi n need = true) ∧
      effectCells hi 4 = [(0x8000, 4), (0x8040, 4)] := by
  refine ⟨⟨_, List.mem_cons_self⟩, nofun, fun hi h => ?_⟩
  simp only [List.mem_cons, List.not_mem_nil, or_false] at h
  unfold HiOk
  obtain rfl | rfl | rfl := h <;>
  exact ⟨⟨fire_of rfl, by decide, rfl⟩, by decide, ⟨by decide, rfl, rfl⟩, ⟨by decide, rfl, rfl⟩, by decide, by decide +kernel, by decide⟩
theorem test_witness_ElementMemory_void :
    ∃ f, FiresNull (fireCtx [tokOf []] 1) (hdr 1) f ∧ InInst (fireCtx [tokOf []] 1) f inst0 0 :=
  ⟨theFire _ _, ⟨fire_of rfl, by decide, rfl⟩, by decide, rfl, rfl⟩

/-- The oldest instance is COMPLETE, with these effects. -/
def doneInst (l : List Effect) : Inst := { inst0 with state := .complete, exitTok := some (0, tokOf [1]), effects := l }
def commitState (l : List Effect) : State := onCtx (fun x => { x with insts := [doneInst l] }) (hotCtx [] 0)
def aFiring : Firing := { elem := 0, way := 0, slot := 2, om := 1, even := tokOf [0, 0], odd := tokOf [0, 0], due := 0 }
theorem test_witness_InstancesCommit :
    (∀ l ∈ [[], [.store 2 3 0 [(0x8000, [1, 2])]], [.atomic 2 3 0 4 false [(0x8000, 5, 6)] aFiring]],
      commitSlot (commitState l) 0 = some (0, doneInst l) ∧ (ctxOf (commitState l) 0 0).insts = [doneInst l] ∧
      (doneInst l).exitTok = some (0, tokOf [1]) ∧ exitTrap (ctxOf (commitState l) 0 0) (tokOf [1]).xb = none ∧ (doneInst l).chain = false ∧
      blockSteps (commitState l) 0 0 = false ∧ Canonical (commitState l) = true) ∧
    Unheld (commitState []) 0 0 ∧ (∀ j < 4, (ctxOf (commitState []) 0 j).late = []) ∧ Hot (commitState []) 0 0 needStore 0x8000 (hotAt 0x8000) ∧
    Hot (commitState []) 0 0 { needStore with host := hostAtomic 4 } 0x8000 (hotAt 0x8000) ∧ Clean (commitState []) (hotAt 0x8000) 4 :=
  ⟨by decide +kernel, ⟨rfl, rfl, rfl, rfl, rfl, rfl⟩, by decide, hot_of (by decide), hot_of (by decide), .inr (by decide +kernel)⟩
/-! ### Witnesses: the region at work -/

/-- A token for element 0, slot 2, operand 0. -/
def flight0 (t : Token) : Flight := { tok := t, dest := { elem := 0, slot := 2, opnd := 0 }, entry := 0, origin := (0, 0), hops := 0 }
/-- Element 0's way 0 holds a word in slot 2. -/
def wayWith (w : W32) : Way := { Way.reset with slots := [(2, w)], slotv := 4, v := true }
/-- The token waits at the door of an element whose slot 2 holds this word; colour 0 has two lanes. -/
def doorState (w : Way) (f : Elem → Elem := id) (g : Ctx → Ctx := id) : State :=
  onCtx (fun x => g { x with colours := [(0, (2, false))] })
    (onCore fun y => { y with door := [(0, flight0 (tokOf [7, 8]))], elems := [(0, f { Elem.reset with ways := [(0, w)] })] })
theorem open_slot {s : State} {f : Flight} {nt : Nat} (h : (wayOf (coreOf s 0) f.dest.elem 0).v = true ∧ slotValid (coreOf s 0) f.dest.elem 0 f.dest.slot = true ∧
    placeAt (ctxOf s 0 0) f.dest.elem f.dest.slot = none ∧ wordNt (slotWord (coreOf s 0) f.dest.elem 0 f.dest.slot) = nt ∧
    wordOpc (slotWord (coreOf s 0) f.dest.elem 0 f.dest.slot) ≠ 0x88 ∧ f.dest.opnd < nt ∧ (elemOf s 0 f.dest.elem).store = []) : OpenSlot s 0 0 f nt := h
/-- Sixteen colours of 16 lanes reserve all 64 entries. -/
def fullColours : NMap (Nat × Bool) := (List.range 16).map fun i => (i + 1, (16, false))
theorem test_witness_RegionMatchesAndFires_match :
    Offered (doorState (wayWith 0x811E0200)) 0 0 (flight0 (tokOf [7, 8])) ∧ OpenSlot (doorState (wayWith 0x811E0200)) 0 0 (flight0 (tokOf [7, 8])) 1 ∧
    (elemOf (doorState (wayWith 0x811E0200)) 0 0).ready.length < 8 ∧
    OpenSlot (doorState (wayWith 0x802E0100)) 0 0 (flight0 (tokOf [7, 8])) 2 ∧
    chargeFor (coreOf (doorState (wayWith 0x802E0100)) 0) 0 0 (tokOf [7, 8]) = some { colour := 0, reserve := true, n := 1 } ∧
    slotValid (coreOf (doorState { wayWith 0 with slotv := 0 }) 0) 0 0 2 = false ∧ (ctxOf (doorState (wayWith 0)) 0 0).trap = none ∧
    (let s := doorState (wayWith 0x811E0200) id fun x => { x with ovf := [(0, flight0 (tokOf [7, 8]))], r := { x.r with ovfbase := 0x90001 } }
     (ctxOf s 0 0).ovf = [(0, flight0 (tokOf [7, 8]))] ∧ regionMoves s 0 0 = true ∧ OpenSlot s 0 0 (flight0 (tokOf [7, 8])) 1 ∧
      (elemOf s 0 0).ready.length < 8 ∧ Clean s { pa := field (ctxOf s 0 0).r.ovfbase 16 36 * 65536, leaf := 0 } 32) :=
  ⟨⟨by decide, by decide, by decide, by decide, by decide⟩, open_slot (by decide), by decide, open_slot (by decide), by decide, by decide, by decide,
   by decide, by decide, open_slot (by decide), by decide, .inr (by decide +kernel)⟩
theorem test_witness_RegionMatchesAndFires_overflow :
    let s := doorState (wayWith 0x802E0100) id fun x => { x with colours := fullColours, elemv := 1, r := { x.r with ovfbase := 0x90001 } }
    Offered s 0 0 (flight0 (tokOf [7, 8])) ∧ OpenSlot s 0 0 (flight0 (tokOf [7, 8])) 2 ∧ chargeFor (coreOf s 0) 0 0 (tokOf [7, 8]) = none ∧
    (ctxOf s 0 0).r.ovfbase.getLsbD 0 = true ∧ (ctxOf s 0 0).ovf = [] ∧ Canonical s = true ∧
    (flight0 (tokOf [7, 8])).tok.lanes.length ≤ 32 ∧ lookD (elemOf s 0 0).ovfs 0 0 ≠ 0xFFFFFFFF :=
  ⟨⟨by decide, by decide, by decide, by decide, by decide⟩, open_slot (by decide), by decide +kernel, by decide, rfl, by decide +kernel, by decide, by decide⟩
/-- A ready set of slot 2; a result for ports 0 and 1, of which port 0 has a destination. -/
def readySet : RSet := { way := 0, slot := 2, colour := 0, iter := 3, toks := [tokOf [7, 8]], inst := 0, charges := [], held := false }
def regionState (f : Core → Core) : State :=
  onCtx (fun x => { x with colours := [(0, (2, false))] }) (onCore fun y => f { y with elems := [(0, { Elem.reset with ways := [(0, wayWith 0x811E0100)] })] })
theorem test_witness_RegionMatchesAndFires_issue :
    let s := modElem (regionState id) 0 0 fun x => { x with ready := [readySet] }
    (elemOf s 0 0).issuing = none ∧ (elemOf s 0 0).busyTo ≤ s.cycle ∧ (elemOf s 0 0).ready = [readySet] ∧ readySet.way = 0 ∧ regionMoves s 0 0 = true ∧
    (ctxOf s 0 0).gates < 2 ∧ (ctxOf s 0 0).trace = 0 ∧ mayIssue s 0 0 readySet = true ∧ replayLets s 0 0 readySet = true := by decide
theorem test_witness_RegionMatchesAndFires_results :
    let r : Firing := { aFiring with om := 3 }
    let s := modElem (regionState fun y => { y with results := [r] }) 0 0 fun x => { x with ways := [(0, { wayWith 0x811E0100 with swt := [(0, 0x8004000000000000)] })] }
    (coreOf s 0).results = [r] ∧ r.way = 0 ∧ r.elem = 0 ∧ regionMoves s 0 0 = true ∧ r.due ≤ s.cycle ∧
    (r.om.getLsbD 0 = true ∧ branches (wayOf (coreOf s 0) 0 0) 0 ≠ []) ∧ (r.om.getLsbD 1 = true ∧ branches (wayOf (coreOf s 0) 0 0) 1 = []) := by decide
theorem test_witness_RegionMatchesAndFires_loads :
    let lane (v : W32) (bad : Bool) : LaneWait := { req := none, v := v, xb := 0, bad := bad }
    let w : LoadWait := { firing := aFiring, ty := .i8, at_ := some 2, lanes := [lane 0x85 false, lane 3 true], trap := none, again := none }
    let s := regionState fun y => { y with loads := [w] }
    (coreOf s 0).hold = [] ∧ (coreOf s 0).loads = [w] ∧ w.firing.way = 0 ∧ regionMoves s 0 0 = true ∧
    loadAnswers s w = some w.lanes ∧ loadRefusal s w = none ∧ (ctxOf s 0 0).insts = [] ∧ w.lanes ≠ [] := by decide
theorem test_witness_RegionMatchesAndFires_hop :
    let s := regionState fun y => { y with skid := [(5, [flight0 (tokOf [7, 8])])], boxes := [(0, { BoxWay.reset with out := [(0, 0x85)] })] }
    liveMoves s 0 (fun j => regionMoves s 0 j) = [.skid 5] ∧ lookD (coreOf s 0).skid 5 [] = [flight0 (tokOf [7, 8])] ∧ 5 / 40 % 4 = 0 ∧
    headHop (coreOf s 0) 0 (5 / 160) (5 % 40) (flight0 (tokOf [7, 8])).entry = .next 0 1 ∧ (flight0 (tokOf [7, 8])).hops < 64 ∧
    (1 * 4 + 0) * 40 + 0 ≠ 5 := by decide

theorem test_witness_RegionHousekeeping_colour :
    let s := onCtx fun x => { x with colours := [(3, (8, true))] }
    look (ctxOf s 0 0).colours (3 : Byte).toNat = some (8, true) ∧ ((ctxOf s 0 0).colours.map (·.1)).Nodup ∧ outstanding s 0 0 3 = [] := by decide
theorem test_witness_RegionHousekeeping_round :
    let s := onCtx fun x => { x with roundReq := true, ripe := [(8 * 2 + 3, 0x77)] }
    regionMoves s 0 0 = true ∧ (ctxOf s 0 0).roundReq = true ∧ (ctxOf s 0 0).counters = [] ∧ (ctxOf s 0 0).image = 0 ∧
    (ctxOf s 0 0).ripe = [(8 * 2 + 3, 0x77)] := by decide
/-- An image at 0x8000 whose element 0 record is all zeros; a token waits for it. -/
def imageState : State :=
  doorState Way.reset id fun x => { x with image := 0x8000000000008000, elemv := 1 }
def cfgAsked : State × CfgEnd (List Byte) :=
  readCfgRecord (modCtx imageState 0 0 fun z => { z with cfgStop := [] }) 0 0 (field (ctxOf imageState 0 0).image 0 48 + 0x200 + 0 * 0x200)
theorem test_witness_RegionHousekeeping_record :
    regionMoves imageState 0 0 = true ∧ (∃ a ∈ arrivals imageState 0 0, arrivalWay imageState 0 a = 0) ∧ (wayOf (coreOf imageState 0) 0 0).v = false ∧
    (ctxOf imageState 0 0).image.getLsbD 63 = true ∧ (ctxOf imageState 0 0).elemv.getLsbD 0 = true ∧ (ctxOf imageState 0 0).cfgStop = [] ∧
    ∃ u bs, cfgAsked = (u, .got bs) ∧ elemRecBad 0 (ctxOf imageState 0 0).hportv bs = false ∧ wayAccs (wayOfBytes bs) = 0 := by
  refine ⟨by decide, ⟨.door 0, by decide, by decide⟩, by decide, by decide, by decide, by decide, ?_⟩
  have h : (match cfgAsked.2 with | .got bs => !elemRecBad 0 (ctxOf imageState 0 0).hportv bs && wayAccs (wayOfBytes bs) == 0 | _ => false) = true := by
    decide +kernel
  generalize cfgAsked = q at h ⊢
  obtain ⟨u, a⟩ := q
  cases a with
  | got bs => exact ⟨u, bs, rfl, by simpa using h⟩
  | _ => cases h
def accRun0 : AccRun := { lanes := [emptyRec, emptyRec], xb := 0, held := some (0, 3) }
def accState : State := modElem (regionState id) 0 0 fun x => { x with ways := [(0, wayWith 0xA91E6906)], acc := [(2, [accRun0])] }
theorem acc_none : ∀ j < 2, (accFlush accState 0 0 0 j).isNone = true := by decide +kernel
theorem acc_younger : (outstanding accState 0 0 0).all (fun n => older n 3 == false) = true := by decide +kernel
theorem test_witness_RegionHousekeeping_acc :
    regionMoves accState 0 0 = true ∧ (∀ j < 2, accFlush accState 0 0 0 j = none) ∧ lookD (elemOf accState 0 0).acc (0 * 32 + 2) [] = [accRun0] ∧
    accRun0.held = some (0, 3) ∧ (∀ n ∈ outstanding accState 0 0 0, older n 3 = false) ∧
    decodeElem (slotWord (coreOf accState 0) 0 0 2) = .ok (.acc { pm := .always, nt := 1, ks := 7, kp := 0, om := 9 } .i16 .or) ∧
    portsFree (coreOf accState 0) 0 0 (BitVec.ofNat 4 (wordOm (slotWord (coreOf accState 0) 0 0 2))) = true :=
  ⟨by decide, fun j hj => Option.isNone_iff_eq_none.mp (acc_none j hj), by decide, rfl, fun n hn => eq_of_beq (List.all_eq_true.mp acc_younger n hn), ok_of (by decide +kernel), by decide +kernel⟩
/-- Record 1 has been released. -/
theorem test_witness_RegionHousekeeping_restart :
    let rel (x : Ctx) : Ctx := { x with r := { x.r with written := 1 }, seqStop := some 1 }
    let i : Inst := { inst0 with state := .aborted, waitSeq := some 1 }
    let s := onCtx fun x => { rel x with insts := [i] }
    let u := onCore (fun x => { x with copies := [{ plainCopy [] with stop := some 1 }] }) s
    isReleased (ctxOf s 0 0).r 1 = true ∧ (ctxOf s 0 0).seqStop = some 1 ∧ regionMoves s 0 0 = true ∧ (ctxOf s 0 0).gates < 2 ∧ (ctxOf s 0 0).insts = [i] ∧
    i.state = .aborted ∧ i.waitSeq = some 1 ∧ i.trap = none ∧ i.inputs = [] ∧ invPending s (asidOf (ctxOf s 0 0)) = false ∧
    (coreOf u 0).copies = [{ plainCopy [] with stop := some 1 }] ∧ (plainCopy []).key = (ctxOf u 0 0).r.key := by decide
/-! ### Witnesses: the matrix engine -/

/-- A tensor in buffer 0 of a space of core 0, with rows of 64 bytes and scale 1. -/
def tensor0 (space fmt : Nat) (sticky dest full : Bool) (rows cols : Nat) : Tensor :=
  let bit (b : Bool) : Nat := if b then 1 else 0
  { w0 := place (mkHandle space (bayPos 0) 0 0).toNat 48 ||| place fmt 44 ||| place (bit sticky) 43 ||| place (bit dest) 42
    w1 := place rows 48 ||| place cols 32 ||| 64, w2 := 0x3F80000000000000, full := full, giver := 0 }
/-- A: 2 × 16 of E4M3; B: 16 × 2, sticky; D: 2 × 2 of FP32. -/
def tA (full : Bool) : Tensor := tensor0 1 0 false false full 2 16
def tB : Tensor := tensor0 0 0 true false true 16 2
def tD (full : Bool) : Tensor := tensor0 2 7 false true full 2 2
def bind0 : Binding :=
  { dx := 1, ax := 2, bx := 3, p := 16, nch := 1, state := .waiting, cause := .none, tensor := 0, xb := 0, chains := 0, firing := 0, kgroup := 0
    gather := (0, 0), gatherNext := (0, 0), index := none, inSet := [], rows := none
    epi := { mode := 0, colour := 0, iter := 0, dest := { elem := 0, slot := 0, opnd := 0 }, lreg := none }, epiNext := none, plane := none
    out := false, rowXb := [], drained := 0, pair := none, fin := false, ending := false }
def plane0 : List (List W32) := [[0x3F800000, 0], [0, 0x40000000]]
/-- Three buffers of one granule, held by the engine; tensors 1, 2, 3; S1 is 2, the tensor or the binding meant. -/
def mxCtx (ts : NMap Tensor) (bs : NMap Binding) (st : DescState := .held 2) (f : Core → Core := id) (g : Ctx → Ctx := id) : State :=
  onCore (fun y => f { y with descs := [(0, { Desc.reset with st := st, size := 1 }), (64, { Desc.reset with st := st, size := 1 }), (128, { Desc.reset with st := st, size := 1 })] })
    (onCtx (fun x => g { x with tensors := ts, binds := bs, colours := [(0, (8, false)), (1, (32, false))], hportv := 0x30000 })
      (ctxSeq fun q => { q with s := [(1, 2), (2, 0x8000), (3, 0x030201)] }))
def tensors (full : Bool := true) : NMap Tensor := [(1, tD false), (2, tA full), (3, tB)]

/-- The descriptor of tD, with the buffer's handle, in memory at 0x8000. -/
def tdefState (w0 : Word) : State :=
  let s := mxCtx [(3, tB)] [] (.held 0)
  { s with hbm := writeBytes s.hbm 0x8000 ([w0, (tD true).w1, (tD true).w2, 0].flatMap fun w => natLE 8 w.toNat) }
def tdefWords (w0 : Word) : List Word := recordAt (translate (tdefState w0) 0 (ctxOf (tdefState w0) 0 0).r.xlroot 0x8000 needLoad).1 at8000 4
theorem fits_of {w : List Word} (h : field (dw w 0) 44 4 ≤ 8 ∧ field (dw w 0) 20 22 = 0 ∧ field (dw w 2) 0 32 = 0 ∧ dw w 3 = 0 ∧ field (dw w 0) 0 20 % 64 = 0 ∧
    (1 ≤ field (dw w 1) 48 16 ∧ field (dw w 1) 48 16 ≤ 4096) ∧ (1 ≤ field (dw w 1) 32 16 ∧ field (dw w 1) 32 16 ≤ 4096) ∧
    (2 ≤ field (dw w 0) 44 4 → field (dw w 0) 44 4 ≤ 4 → field (dw w 1) 32 16 % 16 = 0) ∧ field (dw w 1) 0 32 % 64 = 0 ∧
    (1 < field (dw w 1) 48 16 → rowLength (field (dw w 0) 44 4) (field (dw w 1) 32 16) ≤ field (dw w 1) 0 32) ∧ field (dw w 2) 55 8 ≠ 255 ∧ field (dw w 2) 32 31 ≠ 0 ∧
    ¬((dw w 0).getLsbD 43 = true ∧ (dw w 0).getLsbD 42 = true)) : TensorFits w := h
theorem test_witness_TensorsAndBindings_tdef :
    ∀ w0 ∈ [(tD true).w0, 0xFFFF000000000000], let s := tdefState w0
      s.cur = .seq 0 0 ∧ (readS (curSeq s) 1).toNat < 256 ∧ Calm s ∧ boundTensor (ctxOf s 0 0) (readS (curSeq s) 1).toNat = false ∧
      tensorOf (ctxOf s 0 0) (readS (curSeq s) 1).toNat = none ∧ ((ctxOf s 0 0).tensors.map (·.1)).Nodup ∧
      (∃ t, Reaches s (readS (curSeq s) 2) 32 needLoad t at8000 ∧ Clean t at8000 32 ∧ recordAt t at8000 4 = tdefWords w0) := by
  intro w0 h
  simp only [List.mem_cons, List.not_mem_nil, or_false] at h
  obtain rfl | rfl := h
  all_goals exact ⟨rfl, by decide, ⟨rfl, rfl, rfl, rfl, rfl, (fun _ h => nomatch h), rfl, rfl⟩, by decide, by decide, by decide, _,
    reaches_of rfl (by decide) (by decide +kernel), .inr (by decide +kernel), rfl⟩
theorem test_witness_TensorsAndBindings_limits :
    TensorFits (tdefWords (tD true).w0) ∧ field (dw (tdefWords (tD true).w0) 0) 48 16 ≠ 0xFFFF ∧
    (∀ p ∈ (ctxOf (tdefState (tD true).w0) 0 0).tensors, (tnHandle p.2).toNat ≠ field (dw (tdefWords (tD true).w0) 0) 48 16) ∧
    field (dw (tdefWords 0xFFFF000000000000) 0) 48 16 = 0xFFFF := ⟨fits_of (by decide +kernel), by decide +kernel, by decide +kernel, by decide +kernel⟩
theorem calm_mx (ts : NMap Tensor) (bs : NMap Binding) (st : DescState) : Calm (mxCtx ts bs st) := ⟨rfl, rfl, rfl, rfl, rfl, (fun _ h => nomatch h), rfl, rfl⟩
theorem test_witness_TensorsAndBindings_tags :
    (∀ z ∈ [tA false, tD true], let s := mxCtx [(2, z)] [] (.held 0)
      Calm s ∧ tensorOf (ctxOf s 0 0) 2 = some z ∧ z.full = tnDest z ∧
      ∃ e, tensorDesc s 0 z = some e ∧ e.st = .held 0 ∧ e.key = (ctxOf s 0 0).r.key) ∧
    (let s := mxCtx [(2, tA false)] [] (.held 2) id fun x => { x with seq := { x.seq with wait := .moving } }
     curWait s = .moving ∧ ∀ h g, ¬ Moves s 0 (tA false) h g) ∧
    (tA true).full = true ∧ (tA false).full = false ∧ tensorOf (ctxOf (mxCtx [] []) 0 0) 2 = none := by
  refine ⟨?_, ⟨rfl, fun h g => ?_⟩, rfl, rfl, rfl⟩
  · intro z h
    simp only [List.mem_cons, List.not_mem_nil, or_false] at h
    obtain rfl | rfl := h
    all_goals exact ⟨calm_mx _ _ _, rfl, by decide, { Desc.reset with st := .held 0, size := 1 }, by decide, rfl, rfl⟩
  · have : (tensorDesc (mxCtx [(2, tA false)] [] (.held 2) id fun x => { x with seq := { x.seq with wait := .moving } }) 0 (tA false)).map (·.st) =
      some (.held 2) := by decide
    unfold Moves; rw [this]; exact nofun
/-- S1 is binding 0, S2 names tensors 1, 2, 3, S3 is 0, S4 is 1, S5 is τ = 1.0, S6 an MMEPI word. -/
def bindState (ts : NMap Tensor) (bs : NMap Binding) (w : Wait := .none) (f : Core → Core := id) : State :=
  mxCtx ts bs (.held 2) f fun x => { x with seq := { x.seq with s := [(2, 0x030201), (4, 1), (5, 0x3F800000), (6, 0x000301)], wait := w } }
theorem test_witness_TensorsAndBindings_bind :
    let s := bindState tensors []
    (readS (curSeq s) 1).toNat < 4 ∧ look (ctxOf s 0 0).binds 0 = none ∧ (readS (curSeq s) 2).toNat < 2 ^ 24 ∧ (readS (curSeq s) 3).toNat < 65536 ∧
    field (readS (curSeq s) 3) 2 6 = 0 ∧ budgetOk s 0 0 65536 = true ∧
    Bindable (ctxOf s 0 0) (16 * 2 ^ field (readS (curSeq s) 3) 0 2) (field (readS (curSeq s) 2) 0 8) (field (readS (curSeq s) 2) 8 8)
      (field (readS (curSeq s) 2) 16 8) (tD false) (tA true) tB := by
  unfold Bindable; decide +kernel
/-- Tensor 1 is an index tensor of as many entries as D has rows. -/
theorem test_witness_TensorsAndBindings_set :
    let s := bindState [(0, tensor0 1 8 false false true 1 2), (1, tD false), (2, tA true), (3, tB)] [(0, bind0)]
    look (ctxOf s 0 0).binds 0 = some bind0 ∧ (readS (curSeq s) 3).toNat < 256 ∧
    (indexTensor (ctxOf s 0 0) bind0 (readS (curSeq s) 3).toNat = true) ∧ (ctxOf s 0 0).hportv.getLsbD 17 = true ∧
    (readS (curSeq s) 6).toNat < 2 ^ 24 ∧ (readS (curSeq s) 6).toNat < 2 ^ 19 ∧ field (readS (curSeq s) 6) 13 6 = 0 ∧
    colourActive (ctxOf s 0 0) ((readS (curSeq s) 6).extractLsb' 0 8) = true ∧ colourWidth (ctxOf s 0 0) ((readS (curSeq s) 6).extractLsb' 0 8) = 32 ∧
    (ctxOf s 0 0).hportv.getLsbD 16 = true ∧ bind0.pair = none := by decide
/-- The score binding: BF16 scores of 2 rows and 16 columns; the value binding: they by 16 × 2. -/
def tScore (full : Bool) : Tensor := tensor0 1 5 false true full 2 16
def pairTensors : NMap Tensor :=
  [(1, tScore false), (2, tensor0 1 0 false false true 2 16), (3, tensor0 0 0 true false true 16 16), (4, tD false), (5, tensor0 0 5 true false true 16 2)]
def bindV : Binding := { bind0 with dx := 4, ax := 1, bx := 5 }
theorem test_witness_TensorsAndBindings_pair :
    let s := bindState pairTensors [(0, bind0), (1, bindV)]
    look (ctxOf s 0 0).binds 0 = some bind0 ∧ (readS (curSeq s) 4).toNat = 1 ∧ (readS (curSeq s) 5).toNat < 2 ^ 32 ∧
    pairAccepts (ctxOf s 0 0) 0 (readS (curSeq s) 4).toNat ((readS (curSeq s) 5).setWidth 32) = true ∧ (coreOf s 0).smPair = none ∧
    planesHeld (coreOf s 0) < 2 := by decide +kernel
theorem test_witness_TensorsAndBindings_value :
    Bindable (ctxOf (bindState pairTensors [(0, bind0)]) 0 0) 16 4 1 5 (tD false) (tScore false) (tensor0 0 5 true false true 16 2) ∧
    bindRefused (bindState pairTensors [(0, bind0)]) 0 0 1 0x050104 0 = false := by unfold Bindable; decide +kernel
def scoreB : Binding := { bind0 with pair := some (1, true, 0x3F800000) }
def valueB : Binding := { bindV with pair := some (0, false, 0x3F800000), plane := some plane0 }
theorem test_witness_TensorsAndBindings_fin :
    (let s := bindState pairTensors [(0, scoreB), (1, valueB)]
     (readS (curSeq s) 4).toNat = 1 ∧ readS (curSeq s) 3 = 0 ∧ look (ctxOf s 0 0).binds 0 = some scoreB ∧ look (ctxOf s 0 0).binds 1 = some valueB ∧
     scoreB.pair = some (1, true, 0x3F800000) ∧ valueB.plane = some plane0 ∧ valueB.fin = false ∧ chainIdle scoreB = true ∧ chainIdle valueB = true ∧
     scoreB.plane = none ∧ curWait s = .none ∧ tensorOf (ctxOf s 0 0) scoreB.dx = some (tScore false) ∧ (tScore false).full = false) ∧
    (let s := bindState pairTensors [(0, bind0), (1, bindV)] .moving
     (look (ctxOf s 0 0).binds (readS (curSeq s) 4).toNat).isSome = true ∧ curWait s = .moving ∧ bind0.pair = none) := by decide
theorem test_witness_TensorsAndBindings_unbind :
    (let s := mxCtx tensors [(2, bind0)] (.held 0)
     Calm s ∧ (readS (curSeq s) 1).toNat = 2 ∧ bindBusy bind0 = false ∧ bind0.pair = none ∧ ((ctxOf s 0 0).binds.map (·.1)).Nodup ∧
     returning s 0 0 = false ∧ ∀ p ∈ (ctxOf s 0 0).tensors, withEngine s 0 p.2 = false) ∧
    (let s := mxCtx [(1, tD false)] [(2, bind0)] (.held 2)
     Calm s ∧ (ctxOf s 0 0).binds = [(2, bind0)] ∧ bind0.gather.1 = 0 ∧ bind0.gatherNext.1 = 0 ∧ tensorOf (ctxOf s 0 0) bind0.dx = some (tD false) ∧
     withEngine s 0 (tD false) = true ∧ (∀ m, (m = bind0.ax ∨ m = bind0.bx) → m ≠ bind0.dx ∧ ∀ q, tensorOf (ctxOf s 0 0) m = some q → withEngine s 0 q = false) ∧
     (bind0.dx, tD false) ∈ (ctxOf s 0 0).tensors) ∧
    bindBusy { bind0 with state := .firing } = true ∧
    (let s := bindState tensors [] .moving
     (readS (curSeq s) 1).toNat < 4 ∧ curWait s = .moving ∧ returning s 0 0 = false) ∧
    (bind0.tensor < 256 ∧ bind0.firing < 256 ∧ bind0.kgroup < 32) := by
  refine ⟨⟨calm_mx _ _ _, by decide⟩, ⟨calm_mx _ _ _, by decide, by decide, by decide, by decide, by decide, ?_, by decide⟩, by decide, by decide, by decide⟩
  rintro m (rfl | rfl) <;> exact ⟨by decide, fun q h => nomatch h⟩

def fireState (b : Binding) (busy : Bool) : State := mxCtx tensors [(2, b)] (.held 2) fun y => { y with mmBusy := if busy then some (0, 2) else none }
theorem test_witness_MatrixEngineRuns_start :
    let s := fireState bind0 false
    (coreOf s 0).mmBusy = none ∧ nextFiring s 0 = some (0, 2, bind0) ∧ look (ctxOf s 0 0).binds 2 = some bind0 ∧ bind0.state = .waiting ∧
    bind0.firing = 0 ∧ bind0.plane = none ∧ (epiOf bind0).lreg = none := by decide +kernel
def firing0 : Binding := { bind0 with state := .firing, plane := some plane0 }
theorem test_witness_MatrixEngineRuns_gather :
    ∀ b ∈ [firing0, { firing0 with gather := (2, 0), index := some [1, 0] }], let s := fireState b true
    Firing s 0 0 2 b ∧ b.rows = none ∧ tensorOf (ctxOf s 0 0) b.dx = some (tD false) ∧ tensorOf (ctxOf s 0 0) b.ax = some (tA true) ∧
    tensorOf (ctxOf s 0 0) b.bx = some tB ∧ (b.gather.1 = 0 ∨ b.gather.1 = 2 ∧ b.index = some [1, 0] ∧ [1, 0].length = bindM (ctxOf s 0 0) b) ∧
    (∀ r ∈ [0, 1], r < tnRows (tA true) ∧ (rowPlace s 0 0 (tA true) r false).isOk = true ∧ (rowBytes s 0 0 (tA true) r).2 = false) ∧
    (∀ r < 2, (rowPlace s 0 0 (tD false) r true).isOk = true) ∧ (coreOf s 0).copies = [] ∧ b.rowXb = [] := by
  unfold Claims.Firing; decide +kernel
theorem test_witness_MatrixEngineRuns_gather_b :
    ∀ b ∈ [firing0, { firing0 with gather := (2, 0), index := some [1, 0] }], let s := fireState b true
    bindM (ctxOf s 0 0) b = 2 ∧ bindK (ctxOf s 0 0) b = 16 ∧ ∀ r < 16, (rowPlace s 0 0 tB r false).isOk = true ∧ (rowBytes s 0 0 tB r).2 = false := by decide +kernel
theorem test_witness_MatrixEngineRuns_kgroup :
    (let b := { firing0 with rows := some [0, 1] }
     let s := fireState b true
     Firing s 0 0 2 b ∧ b.kgroup < bindK (ctxOf s 0 0) b / b.p ∧ b.plane = some plane0 ∧ tnCols tB = bindN (ctxOf s 0 0) b ∧ plane0.length = 2 ∧
     (∀ z ∈ rowOf s 0 0 (tA true) 0, z = .fin false 0 (-9))) ∧
    (let b := { firing0 with rows := some [0, 1], kgroup := 1 }
     let s := fireState b true
     Firing s 0 0 2 b ∧ b.rows.isSome = true ∧ b.kgroup = bindK (ctxOf s 0 0) b / b.p ∧ b.gather.1 = 0 ∧ b.pair = none ∧ tnSticky (tA true) = false ∧
     tnSticky tB = true ∧ tnDest (tA true) = false ∧ withEngine s 0 (tA true) = true ∧ b.ax ≠ b.bx) := by unfold Claims.Firing; decide +kernel
theorem test_witness_MatrixEngineRuns_index :
    let b := { bind0 with gatherNext := (2, 0) }
    let f := flight0 { tokOf [1, 0] with last := true }
    let s := mxCtx tensors [(2, b)] (.held 2) fun y => { y with hport := [(68, [f])] }
    lookD (coreOf s 0).hport (17 * 4 + 0) [] = [f] ∧ matrixMoves s 0 0 = true ∧ (ctxOf s 0 0).binds = [(2, b)] ∧ b.gatherNext.1 = 2 ∧ b.index = none := by decide
def drain0 (mode drained : Nat) : Binding :=
  { bind0 with state := .draining, plane := some plane0, drained := drained, epi := { bind0.epi with mode := mode, colour := 1 } }
theorem test_witness_MatrixEngineRuns_drain :
    (let b := drain0 0 1
     let s := fireState b false
     Draining s 0 0 2 b ∧ b.epi.mode = 0 ∧ b.drained < bindM (ctxOf s 0 0) b ∧ tensorOf (ctxOf s 0 0) b.dx = some (tD false) ∧ (tD false).full = false ∧
     withEngine s 0 (tD false) = true ∧ (coreOf s 0).copies = [] ∧ isOk (rowPlace s 0 0 (tD false) 1 true) { core := 0, space := 2, at_ := 64 } = true ∧
     tnFmt (tD false) = 7 ∧ (nth plane0 1 []).length = bindN (ctxOf s 0 0) b ∧ Canonical s = true) ∧
    (let b := drain0 1 1
     let s := fireState b false
     Draining s 0 0 2 b ∧ b.epi.mode = 1 ∧ b.drained < bindM (ctxOf s 0 0) b * ((bindN (ctxOf s 0 0) b + 31) / 32) ∧
     colourActive (ctxOf s 0 0) b.epi.colour = true ∧ tagOpen s 0 0 b.epi.colour b.epi.iter = true ∧ lookD (coreOf s 0).hpOut (16 * 4 + 0) [] = []) ∧
    (let b := drain0 0 2
     let s := fireState b false
     Draining s 0 0 2 b ∧ b.epi.mode = 0 ∧ b.drained = bindM (ctxOf s 0 0) b ∧ withEngine s 0 (tD false) = true ∧ b.epi.lreg = none ∧ b.fin = false) := by
  unfold Draining; decide +kernel
theorem test_witness_MatrixEngineRuns_softmax :
    let b : Binding := { scoreB with state := .draining, plane := some [List.replicate 16 0, List.replicate 16 0] }
    let s := mxCtx pairTensors [(0, b), (1, valueB)]
    scoreDrain s 0 = some (0, 0, 1, b, 0x3F800000) ∧ look (ctxOf s 0 0).binds 0 = some b ∧ look (ctxOf s 0 0).binds 1 = some valueB ∧
    tensorOf (ctxOf s 0 0) b.dx = some (tScore false) ∧ withEngine s 0 (tScore false) = true ∧ (coreOf s 0).copies = [] ∧ valueB.plane = some plane0 ∧
    b.drained + 1 < bindM (ctxOf s 0 0) b ∧ b.drained < plane0.length ∧ smxDest (tScore false) = true ∧ Canonical s = true ∧
    isOk (rowPlace s 0 0 (tScore false) 0 true) { core := 0, space := 1, at_ := 0 } = true := by decide +kernel
/-! ### Witnesses: the marquetry fabric -/

/-- Slot 0 of core 0 owns the fabric; W, A and C hold a buffer each, of 32 KiB. S1 names A's buffer, S2 is a count word. -/
def fabState (m : Mq → Mq) (st : DescState := .held 3) (q : NMap Word := []) : State :=
  onCore (fun y => { y with mq := m { Mq.reset with owner := some (ctxOf ctx 0 0).r.key }
                            descs := [(0, { Desc.reset with st := st, size := 8 }), (64, { Desc.reset with st := st, size := 16 }), (128, { Desc.reset with st := st, size := 8 })] })
    (onCtx (fun x => { x with colours := [(0, (8, false))], hportv := 0x100000 }) (ctxSeq fun x => { x with s := q }))
def wAddr : Word := place (mkHandle 0 (bayPos 0) 0 0).toNat 32
def aAddr : Word := place (mkHandle 1 (bayPos 0) 0 0).toNat 32
theorem test_witness_FabricCommandsAreQueued_owner :
    (coreOf ctx 0).mq.owner = none ∧ (let s := fabState fun m => { m with owner := some 9 }
      (coreOf s 0).mq.owner = some 9 ∧ 9 ≠ (ctxOf s 0 0).r.key) ∧
    (let s := fabState id
     (coreOf s 0).mq.owner = some (ctxOf s 0 0).r.key ∧ (coreOf s 0).mq.queue.length < 8 ∧ (coreOf s 0).mq.cause = .none ∧ mqSlot (coreOf s 0) = some 0 ∧
     (coreOf s 0).mq.queue = [] ∧ Released s 0 ∧ (∀ q, (lookD (coreOf s 0).mq.brk q (false, 0, 0)).2.1 < 8 ∧ (lookD (coreOf s 0).mq.brk q (false, 0, 0)).2.2 < 1024)) :=
  ⟨rfl, by decide, rfl, by decide, rfl, rfl, rfl, ⟨rfl, rfl, rfl⟩, fun _ => ⟨Nat.zero_lt_succ _, Nat.zero_lt_succ _⟩⟩
theorem reachable_of {s : State} {a : Word} {space n align : Nat} {d : Desc}
    (h : (field a 48 16 = 0 ∧ field a 20 12 = 0) ∧ hSpace (a.extractLsb' 32 16) = space ∧ hOwner (a.extractLsb' 32 16) ≠ 7 ∧
      handleCore 0 (a.extractLsb' 32 16) = 0 ∧ descNamed (coreOf s 0) (a.extractLsb' 32 16) = some d ∧ d.key = (ctxOf s 0 0).r.key ∧
      field a 0 20 + n ≤ d.size * granBytes space ∧ field a 0 20 % align = 0) : Reachable s 0 0 a space n align d := h
theorem test_witness_FabricCommandsAreQueued_reach :
    ∀ st ∈ [DescState.held 3, .held 0], let s := fabState id st
      Reachable s 0 0 wAddr 0 8192 512 { Desc.reset with st := st, size := 8 } ∧ Reachable s 0 0 wAddr 0 16384 512 { Desc.reset with st := st, size := 8 } ∧
      Reachable s 0 0 aAddr 1 256 1 { Desc.reset with st := st, size := 16 } ∧ Reachable s 0 0 aAddr 1 128 64 { Desc.reset with st := st, size := 16 } ∧
      Reachable s 0 0 aAddr 1 2048 64 { Desc.reset with st := st, size := 16 } := by
  intro st h
  simp only [List.mem_cons, List.not_mem_nil, or_false] at h
  obtain rfl | rfl := h
  all_goals exact ⟨reachable_of (by decide), reachable_of (by decide), reachable_of (by decide), reachable_of (by decide), reachable_of (by decide)⟩
/-- Operands of QRUN, QBRK, XPOSE (a byte of each lane, or RAW words), XPOSB and QPOPC. -/
theorem test_witness_FabricCommandsAreQueued_operands :
    (let v : Word := 4; v.toNat < 16 ∧ field v 0 2 ≤ field v 2 2 ∧ v.toNat < 2 ^ 18 ∧ field v 2 6 ≠ 0 ∧ field (0x301 : Word) 2 6 = 0) ∧
    (Transposes 0 0x400 0 ∧ transposed 0x400 0 = 256) ∧ (Transposes 0 0xE02000 0 ∧ transposed 0xE02000 0 = 256) ∧
    (let w : Word := 0x011000
     w.toNat < 2 ^ 24 ∧ 1 ≤ field w 16 8 ∧ field w 16 8 ≤ 128 ∧ PlanesOk w (8 * field w 16 8) ∧ 256 * field w 16 8 = 256) ∧
    (let w : Word := 0x01011000
     w.toNat < 2 ^ 29 ∧ field w 21 3 = 0 ∧ PlanesOk w ((field w 16 5 + 1) * (field w 24 5 + 1)) ∧ 1024 * (field w 16 5 + 1) = 2048) ∧
    (let w : Word := 0x001000; field w 24 5 + 1 = 1 ∧ PlanesOk w ((field w 16 5 + 1) * (field w 24 5 + 1))) :=
  have one : Transposes 0 0x400 0 := by unfold Transposes; decide
  have raw : Transposes 0 0xE02000 0 := by unfold Transposes; decide
  ⟨by decide, ⟨one, rfl⟩, ⟨raw, rfl⟩, by unfold PlanesOk; decide⟩

/-- The fabric performs a command; the planes of table set 0 hold a plane of ones. -/
def workState (q : List MqCmd) (busy : Bool := true) (m : Mq → Mq := id) : State := fabState fun z => m { z with queue := q, busy := busy }
theorem performs_of {s : State} {q : MqCmd} {r : List MqCmd} (h : mqMoves s 0 = some 0 ∧ (coreOf s 0).mq.queue = q :: r ∧ (coreOf s 0).mq.busy = true ∧
    (coreOf s 0).copies = []) : Performs s 0 0 q r := h
def spotIs (s : State) (h : Half) (o n : Nat) (w : Bool) (p : BufPlace) : Bool := decide (mqSpot s 0 0 h o n w = some p)
theorem spot_clean {s : State} {h : Half} {o n : Nat} {w : Bool} {p : BufPlace} (h1 : mqSpot s 0 0 h o n w = some p)
    (h2 : (coreOf s p.core).tpoison = []) : Spot s 0 0 h o n w p := ⟨h1, fun i _ => by unfold rowPoisoned; rw [h2]; rfl⟩
theorem test_witness_FabricPerformsCommands_start :
    ∀ q ∈ [MqCmd.clear, .tables (wAddr.extractLsb' 32 16) 0 3, .wiring (wAddr.extractLsb' 32 16) 0 3], let s := workState [q] false
      mqMoves s 0 = some 0 ∧ (coreOf s 0).mq.busy = false ∧ (coreOf s 0).mq.queue = [q] := by decide
theorem test_witness_FabricPerformsCommands_run :
    Performs (workState [.run 0 3 1, .clear] true fun z => { z with vt := 2, vw := 2 }) 0 0 (.run 0 3 1) [.clear] ∧ (2 : BitVec 4).getLsbD 1 = true ∧
    Performs (workState [.run 0 3 4, .clear]) 0 0 (.run 0 3 4) [.clear] := ⟨performs_of (by decide), by decide, performs_of (by decide)⟩
theorem test_witness_FabricPerformsCommands_loads :
    let h := wAddr.extractLsb' 32 16
    let p : BufPlace := { core := 0, space := 0, at_ := 0 }
    Performs (workState [.tables h 0 1]) 0 0 (.tables h 0 1) [] ∧ Spot (workState [.tables h 0 1]) 0 0 h 0 8192 false p ∧
    Performs (workState [.wiring h 0 1]) 0 0 (.wiring h 0 1) [] ∧ Spot (workState [.wiring h 0 1]) 0 0 h 0 16384 false p :=
  ⟨performs_of (by decide), spot_clean (by decide +kernel) (by decide), performs_of (by decide), spot_clean (by decide +kernel) (by decide)⟩
theorem number_zero {s : State} {p : BufPlace} (h : (coreOf s p.core).tbuf = []) (i n : Nat) : bufNumber s p i n = 0 := by
  have hb : ∀ j, bufByte s p j = 0 := fun j => by unfold bufByte; rw [h]; rfl
  unfold bufNumber
  induction n with
  | zero => rfl
  | succ n ih => rw [List.range_succ, List.map_append, List.sum_append, ih]; simp [hb]
theorem test_witness_FabricPerformsCommands_wiring :
    let h := wAddr.extractLsb' 32 16
    ∀ i < 1024, bufNumber (workState [.wiring h 0 1]) { core := 0, space := 0, at_ := 0 } (16 * i) 16 < 2 ^ 66 :=
  fun i _ => by rw [number_zero (by decide)]; decide
theorem test_witness_FabricPerformsCommands_transposes :
    let h := aAddr.extractLsb' 32 16
    let p : BufPlace := { core := 0, space := 1, at_ := 0 }
    (let s := workState [.xpose h 0 0x400 0]
     Performs s 0 0 (.xpose h 0 0x400 0) [] ∧ Spot s 0 0 h 0 (xpExtent 0x400 0) false p) ∧
    field (0x400 : Word) 21 3 ≤ 3 ∧ (0x400 : Word).getLsbD 24 = false ∧ field (0x400 : Word) 0 10 + 8 * field (0x400 : Word) 10 11 ≤ 1024 ∧
    (let s := workState [.xposb h 0 0x011000]
     Performs s 0 0 (.xposb h 0 0x011000) [] ∧ mqSpot s 0 0 h 0 (256 * field (0x011000 : Word) 16 8) true = some p ∧ field (0x011000 : Word) 10 3 ≤ 4 ∧
     Canonical s = true) :=
  ⟨⟨performs_of (by decide), spot_clean (by decide +kernel) (by decide)⟩, by decide, by decide, by decide, performs_of (by decide), by decide +kernel, by decide,
   by decide +kernel⟩
def countWord : Word := 0x001000
theorem test_witness_FabricPerformsCommands_counts :
    (∀ p ∈ [(false, 0), (false, 1), (true, 7), (true, 8)], let q : MqCmd := .popc 0 countWord 0 p.1 0 p.2
      let s := onCtx (fun x => { x with colours := [(0, (32, false))] }) (workState [q])
      (mqMoves s 0 = some 0 ∧ (coreOf s 0).mq.queue = [q] ∧ (coreOf s 0).mq.busy = true ∧ (coreOf s 0).copies = []) ∧ field countWord 10 3 ≤ 4 ∧
      popcColourOk (ctxOf s 0 0) 0 = true ∧ tagOpen s 0 0 0 (0 + BitVec.ofNat 16 p.2) = true ∧ lookD (coreOf s 0).hpOut (20 * 4 + 0) [] = [] ∧
      (coreOf s 0).mq.poison = 0) ∧
    (let q : MqCmd := .popc aAddr countWord 0 false 1 0
     let s := workState [q]
     Performs s 0 0 q [] ∧ Canonical s = true ∧ (coreOf s 0).mq.poison = 0 ∧
     mqSpot s 0 0 (aAddr.extractLsb' 32 16) (field aAddr 0 20) 128 true = some { core := 0, space := 1, at_ := 0 }) :=
  ⟨by decide, performs_of (by decide), by decide +kernel, by decide, by decide +kernel⟩
theorem test_witness_FabricPerformsCommands_others :
    Performs (workState [.clear, .release]) 0 0 .clear [.release] ∧ Performs (workState [.release]) 0 0 .release [] ∧
    Performs (workState [.brk 3 9 1]) 0 0 (.brk 3 9 1) [] := ⟨performs_of (by decide), performs_of (by decide), performs_of (by decide)⟩
/-! ### Witnesses: near-memory commands -/

/-- A record of a command: an operation on 64 FP32 elements from 0x9000 to 0xB000, its completion record at 0xA000. -/
def nmWords (op n : Nat) : List Word := [place op 56 ||| BitVec.ofNat 64 n, 0x9000, if op = 1 then 0 else 0xB000, if op = 4 then 0xC000 else 0, 0x3F800000, 0, 0xA000, 0]
/-- Slot 0 of core 0, its pages open to near-memory commands, in its TLB and in its table; a record at 0x8000. -/
def nearCtx (ws : List Word) (f : Ctx → Ctx := id) : State :=
  let s := onCore (fun y => { y with utlb := hotTlb 0xD8F }) (onCtx f)
  { s with hbm := writeBytes (writeBytes s.hbm placedTable (natLE 8 0xD8F)) 0x8000 (ws.flatMap fun w => natLE 8 w.toNat) }
def nearAt (va : Nat) : Phys := hotAt va 0xD8F
theorem test_witness_NearMemoryCommands_issue :
    ∀ p ∈ [(nmWords 1 64, 0x9000), (nmWords 7 64, 0xB000)], let s := nearCtx p.1
      s.cur = .seq 0 0 ∧ guardHolds (curSeq s) g0 = true ∧ Calm s ∧ Canonical s = true ∧ (ctxOf s 0 0).nmOut < 8 ∧ (ctxOf s 0 0).nmOut = 0 ∧
      (readS (curSeq s) 1).toNat = 0x8000 ∧ Hot s 0 0 needLoad 0x8000 (nearAt 0x8000) ∧ (nearAt 0x8000).host = false ∧ Clean s (nearAt 0x8000) 64 ∧ recordAt s (nearAt 0x8000) 8 = p.1 ∧
      1 ≤ cmdOp p.1 ∧ cmdOp p.1 ≤ 7 ∧ (dw p.1 0).getLsbD 49 = false ∧ field (dw p.1 6) 0 48 = 0xA000 ∧ 0xA000 % 32 = 0 ∧ (nearAt 0xA000).host = false ∧
      Hot s 0 0 { needStore with pin := true, host := false } 0xA000 (nearAt 0xA000) ∧
      (if cmdOp p.1 = 6 ∨ cmdOp p.1 = 7 then field (dw p.1 2) 0 48 else field (dw p.1 1) 0 48) = p.2 ∧
      Hot s 0 0 { write := !(cmdOp p.1 == 6 || cmdOp p.1 == 7), fetch := false, pin := false, nm := true, host := false } p.2 (nearAt p.2) := by
  intro p h
  simp only [List.mem_cons, List.not_mem_nil, or_false] at h
  obtain rfl | rfl := h
  all_goals exact ⟨rfl, rfl, ⟨rfl, rfl, rfl, rfl, rfl, (fun _ h => nomatch h), rfl, rfl⟩, by decide +kernel, by decide, rfl, rfl,
    hot_of (by decide), rfl, .inr (by decide +kernel), by decide +kernel, by decide, by decide, rfl, by decide, rfl, rfl,
    hot_of (by decide), by decide, hot_of (by decide)⟩
theorem test_witness_NearMemoryCommands_fence :
    8 ≤ (ctxOf (onCtx fun x => { x with nmOut := 8 }) 0 0).nmOut ∧ (ctxOf ctx 0 0).nmOut = 0 ∧ (readS (curSeq ctx) 1).toNat % 32 = 0 ∧
    ∃ t, Reaches ctx (readS (curSeq ctx) 1) 8 needLoad t at8000 ∧ Clean t at8000 8 :=
  ⟨by decide, by decide, by decide, _, reaches_of rfl (by decide) (by decide +kernel), .inr (by decide +kernel)⟩

/-- The command of core 0's slot 0, translated, in slot 3 of stack 0 or before it. -/
def nmAsk (op n : Nat) (f : NmCmd → NmCmd := id) : NmCmd :=
  let pas (role va n : Nat) : Nat × List (Nat × Nat × Nat) := (role, [(va, va, n)])
  f { nmCmd with words := nmWords op n, root := (ctxOf ctx 0 0).r.xlroot, cmpl := 0xA000, obj := 0x9000
                 pas := if op = 6 ∨ op = 7 then [pas 1 0xB000 (4 * n), pas 3 0x9000 64]
                   else [pas 0 0x9000 (4 * n), pas 1 0xB000 (4 * n), pas 2 0xC000 (4 * n)]
                 ext := [(0x9000, 4 * n)] }
def nmState (f : Stack → Stack) : State := { nearCtx [] with hbmStacks := [(0, f Stack.reset)] }
theorem command_of {s : State} {q : NmCmd} {k n : Nat} (h : q.core < 224 ∧ q.slot < 4 ∧ k < 8 ∧ n < 16 ∧ q.chunks < 2 ^ 32 ∧ q.poiscnt < 2 ^ 32 ∧ q.badva < 2 ^ 48 ∧
    slotOf (coreOf s q.core) q.key = some q.slot ∧ Canonical s = true) : CommandOk s q k n := h
theorem test_witness_NearMemoryCommands_start :
    (let s := nmState fun z => { z with transit := [nmAsk 3 64] }
     (stackOf s 0).transit = [nmAsk 3 64] ∧ (stackOf s 0).queue.length < 64) ∧
    (∀ n < 4, (∀ i < n, (look (stackOf (nmState fun z => { z with slots := (List.range n).map fun i => (i, nmAsk 6 0) }) 0).slots i).isSome = true)) ∧
    (let s := nmState fun z => { z with queue := [nmAsk 3 64] }
     (stackOf s 0).queue = [nmAsk 3 64] ∧ nmMoves s (nmAsk 3 64) = true ∧ (nmAsk 3 64).abort = false ∧ look (stackOf s 0).slots 0 = none ∧
     (∀ p ∈ (stackOf s 0).slots, nmClash p.2 (nmAsk 3 64) = false) ∧ nmReason (nmAsk 3 64).words = 0) ∧
    (∀ op ∈ [0, 8, 3], let s := nmState fun z => { z with queue := [nmAsk op 0] }
     nmMoves s (nmAsk op 0) = true ∧ (op = 3 → cmdCount (nmAsk op 0).words = 0 ∧ cmdOp (nmAsk op 0).words = 3) ∧ (stackOf s 0).slots = [] ∧
     (∀ p ∈ s.hbmStacks, p.2.slots = []) ∧ s.reqs = []) := by decide +kernel
theorem test_witness_NearMemoryCommands_place : CommandOk (nmState fun z => { z with queue := [nmAsk 0 0] }) (nmAsk 0 0) 0 3 := command_of (by decide +kernel)
def unlockedCmd : NmCmd := nmAsk 3 64 fun q => { q with locked := false, pas := [], ext := [] }
def lockState : State := nmState fun z => { z with slots := [(3, unlockedCmd)] }
def lockPas : List (Nat × List (Nat × Nat × Nat)) := [(0, [(0x9000, 0x9000, 256)]), (1, [(0xB000, 0xB000, 256)])]
theorem test_witness_NearMemoryCommands_lock :
    look (stackOf lockState 0).slots 3 = some unlockedCmd ∧ unlockedCmd.locked = false ∧ nmMoves lockState unlockedCmd = true ∧
    (∃ t, nmTranslate lockState unlockedCmd.home unlockedCmd.root (nmRanges unlockedCmd.words) = (t, .ok lockPas)) ∧
    (∀ e ∈ lockExtents unlockedCmd.words lockPas, e.1 / Config.stackBytes = 0 ∧ (e.1 + e.2 - 1) / Config.stackBytes = 0) ∧
    (nmExtents lockPas).length ≤ 64 :=
  ⟨by decide, by decide, by decide, ⟨_, Prod.ext rfl (ok_of (by decide +kernel))⟩, by decide, by decide⟩
/-- Its source lies above the 1 GiB that is mapped. -/
def farCmd : NmCmd := nmAsk 3 64 fun q => { q with locked := false, words := q.words.set 2 0x40000000 }
def farState : State := nmState fun z => { z with slots := [(3, farCmd)] }
/-- Where its translation ends, and at which failure. -/
def farTried : State × Except NmFail (List (Nat × List (Nat × Nat × Nat))) := nmTranslate farState farCmd.home farCmd.root (nmRanges farCmd.words)
def farFail : NmFail := { va := 0x40000000, fault := { bareFault .xlate with entry := 0 }, write := false }
def failOf {α β : Type} (d : α) : Except α β → α | .error e => e | .ok _ => d
theorem fails_of {α β : Type} {e : Except α β} (d : α) (h : e.isOk = false) : e = .error (failOf d e) := by
  cases e with | error x => rfl | ok x => cases h
theorem test_witness_NearMemoryCommands_fault :
    look (stackOf farState 0).slots 3 = some farCmd ∧ farCmd.locked = false ∧ farCmd.abort = false ∧ nmMoves farState farCmd = true ∧
    ((stackOf farState 0).slots.map (·.1)).Nodup ∧
    (∃ t e, nmTranslate farState farCmd.home farCmd.root (nmRanges farCmd.words) = (t, .error e) ∧ e.va = 0x40000000 ∧ e.fault.cause ≠ .none ∧
      CommandOk t farCmd 0 3 ∧ t.reqs = [] ∧ ∀ p ∈ t.hbmStacks, ∀ y ∈ p.2.slots, y.2.locked = false) :=
  ⟨by decide, rfl, rfl, by decide, by decide, farTried.1, failOf farFail farTried.2, Prod.ext rfl (fails_of farFail (by decide +kernel)),
   by decide +kernel, by decide +kernel, command_of (by decide +kernel), by decide +kernel, by decide +kernel⟩
def slotState (q : NmCmd) (f : State → State := id) : State := f (nmState fun z => { z with slots := [(3, q)] })
theorem chunk_of {s : State} {k n m : Nat} {q : NmCmd} (h : look (stackOf s k).slots n = some q ∧ q.locked = true ∧ q.abort = false ∧ q.chunks < cmdTotal q.words ∧
    nmMoves s q = true ∧ m = min 256 (cmdCount q.words * cmdSize q.words - q.chunks * 256)) : Chunk s k n q m := h
/-- The second chunk of 65 elements is of 4 bytes; a sector of the source is poisoned, or none. -/
theorem test_witness_NearMemoryCommands_chunk :
    ∀ op ∈ [1, 2, 3, 4, 5, 6, 7], let q := nmAsk op 65 fun q => { q with chunks := 1 }
      let s := slotState q
      (look (stackOf s 0).slots 3 = some q ∧ q.locked = true ∧ q.abort = false ∧ q.chunks < cmdTotal q.words ∧
        nmMoves s q = true ∧ 4 = min 256 (cmdCount q.words * cmdSize q.words - q.chunks * 256)) ∧ Canonical s = true ∧ cmdOp q.words = op ∧
      cmdFmt q.words = 0 ∧ (op = 1 ∨ nmReads q.words ≠ []) ∧ (∀ r ∈ nmReads q.words, firstPoisoned s (nmAt q r (q.chunks * 256)).1 4 = none) ∧ q.maxv.toNat < 0x7F800000 := by decide +kernel
theorem test_witness_NearMemoryCommands_poison :
    let q := nmAsk 3 65
    let s := slotState q fun s => { s with poison := [0xB000 / 64 + 1] }
    Chunk s 0 3 q 256 ∧ Canonical s = true ∧ nmPoison s q (q.chunks * 256) 256 = some 0xB040 := ⟨chunk_of (by decide +kernel), by decide +kernel, by decide +kernel⟩
theorem test_witness_NearMemoryCommands_complete :
    ∀ p ∈ [(3, 0), (3, 1), (6, 0), (7, 0)], let q := nmAsk p.1 64 fun q => { q with chunks := 1, poiscnt := p.2 }
      let s := slotState q
      look (stackOf s 0).slots 3 = some q ∧ ((stackOf s 0).slots.map (·.1)).Nodup ∧
      (q.core < 224 ∧ q.slot < 4 ∧ q.chunks < 2 ^ 32 ∧ q.poiscnt < 2 ^ 32 ∧ q.badva < 2 ^ 48 ∧ slotOf (coreOf s q.core) q.key = some q.slot ∧ Canonical s = true) ∧
      s.reqs = [] ∧ (s.hbmStacks.map (·.1)).Nodup ∧ (∀ p ∈ s.hbmStacks, ∀ y ∈ p.2.slots, (p.1, y.1) ≠ (0, 3) → y.2.locked = false) ∧ q.locked = true ∧ q.abort = false ∧
      cmdTotal q.words ≤ q.chunks ∧ nmMoves s q = true ∧ cmdOp q.words = p.1 ∧ (dw q.words 0).getLsbD 49 = false ∧ q.obj + 64 ≤ q.cmpl ∧
      firstPoisoned s q.obj 64 = none := by decide +kernel
theorem test_witness_NearMemoryCommands_abort :
    let q := nmAsk 3 64 fun q => { q with abort := true }
    look (stackOf (slotState q) 0).slots 3 = some q ∧ CommandOk (slotState q) q 0 3 ∧ q.abort = true := ⟨by decide, command_of (by decide +kernel), by decide⟩
/-! ### Witnesses: the exchange -/

/-- Slot 0 of core 0 in its task, with pages that may be pinned, a record at 0x8000 that S1 names; S2 asks for channel 3, 64 bytes. -/
def xState (ws : List Word) (f : Ctx → Ctx := id) : State :=
  { nearCtx ws (fun x => f { x with task := 1, seq := { x.seq with s := [(1, 0x8000), (2, 0x4003)] } }) with tasks := [task0] }
def sendWords (cen : Bool) : List Word := [0x0000033000000010, 0x9000, if cen then 0x800000000000A000 else 0, 0]
theorem record_of {s : State} {va : Word} {o : Phys} {w : List Word} (h1 : va.toNat % 32 = 0) (h2 : isOk (translate s 0 (ctxOf s 0 0).r.xlroot va needLoad).2 o = true)
    (h3 : Clean (translate s 0 (ctxOf s 0 0).r.xlroot va needLoad).1 o 32) (h4 : w = recordAt (translate s 0 (ctxOf s 0 0).r.xlroot va needLoad).1 o 4) :
    RecordRead s 0 0 va (signAccess (translate s 0 (ctxOf s 0 0).r.xlroot va needLoad).1 0 0 va.toNat 32 false) w := ⟨h1, _, o, Prod.ext rfl (ok_of h2), h3, h4, rfl⟩
def recordState (ws : List Word) : State := signAccess (translate (xState ws) 0 (ctxOf (xState ws) 0 0).r.xlroot 0x8000 needLoad).1 0 0 (0x8000 : Word).toNat 32 false
theorem calm_x (ws : List Word) (h : (nearCtx ws).hbmStacks = []) : Calm (xState ws) := ⟨rfl, rfl, rfl, rfl, rfl, (fun p hp => by rw [show (xState ws).hbmStacks = [] from h] at hp; cases hp), rfl, rfl⟩
theorem test_witness_ExchangeInstructions_send :
    ∀ cen, (xState (sendWords cen)).cur = .seq 0 0 ∧ guardHolds (curSeq (xState (sendWords cen))) g0 = true ∧ Calm (xState (sendWords cen)) ∧
      RecordRead (xState (sendWords cen)) 0 0 (readS (curSeq (xState (sendWords cen))) 1) (recordState (sendWords cen)) (sendWords cen) ∧
      field (dw (sendWords cen) 0) 60 4 = 0 ∧ field (dw (sendWords cen) 0) 32 4 = 0 ∧ field (dw (sendWords cen) 1) 48 16 = 0 ∧ field (dw (sendWords cen) 2) 48 15 = 0 ∧
      dw (sendWords cen) 3 = 0 ∧ field (dw (sendWords cen) 0) 0 32 = 16 ∧ field (dw (sendWords cen) 0) 48 12 = (xState (sendWords cen)).exid.toNat ∧
      inTask (xState (sendWords cen)) 0 0 (field (dw (sendWords cen) 0) 48 12) (field (dw (sendWords cen) 0) 40 8) = true ∧ (dw (sendWords cen) 2).getLsbD 63 = cen ∧
      (cen = true → field (dw (sendWords cen) 2) 0 48 % 8 = 0) := by
  intro cen
  cases cen <;> exact ⟨rfl, rfl, calm_x _ rfl, record_of (o := nearAt 0x8000) (by decide) (by decide +kernel) (.inr (by decide +kernel)) (by decide +kernel), rfl, by decide, rfl,
    by decide, rfl, by decide, rfl, by decide, rfl, fun _ => rfl⟩
def sendDone : State := (translate (recordState (sendWords true)) 0 (ctxOf (xState (sendWords true)) 0 0).r.xlroot (BitVec.ofNat 64 0xA000) { needStore with pin := true }).1
theorem test_witness_ExchangeInstructions_send_parts :
    (∃ q : Phys, translate (recordState (sendWords true)) 0 (ctxOf (xState (sendWords true)) 0 0).r.xlroot (BitVec.ofNat 64 0xA000) { needStore with pin := true } = (sendDone, .ok q)) ∧
    (∃ u, BufferAt (recordState (sendWords false)) 0 0 { needLoad with pin := true } 0x9000 16 u [(nearAt 0x9000, 16)] ∧ CleanParts u [(nearAt 0x9000, 16)]) ∧
    (∃ u, BufferAt sendDone 0 0 { needLoad with pin := true } 0x9000 16 u [(nearAt 0x9000, 16)] ∧ CleanParts u [(nearAt 0x9000, 16)]) :=
  ⟨⟨nearAt 0xA000, Prod.ext rfl (ok_of (by decide +kernel))⟩,
   ⟨_, Prod.ext rfl (ok_of (by decide +kernel)), fun p hp => by rw [List.mem_singleton.mp hp]; exact .inr (by decide +kernel)⟩,
   ⟨_, Prod.ext rfl (ok_of (by decide +kernel)), fun p hp => by rw [List.mem_singleton.mp hp]; exact .inr (by decide +kernel)⟩⟩
theorem test_witness_ExchangeInstructions_receive :
    (readS (curSeq (xState [])) 2).toNat < 2 ^ 32 ∧ field (readS (curSeq (xState [])) 2) 4 4 = 0 ∧ field (readS (curSeq (xState [])) 2) 8 24 = 64 ∧
    (∃ u, BufferAt (xState []) 0 0 { needStore with pin := true, host := false } (readS (curSeq (xState [])) 1).toNat 64 u [(nearAt 0x8000, 64)]) ∧
    (∀ got, let y : Posted := { chan := 3, cap := 64, pages := [(0x8000, 64)], got := got }
      let s := xState [] fun x => { x with posted := [y], seq := { x.seq with wait := .posted } }
      curWait s = .posted ∧ (ctxOf s 0 0).posted = [y] ∧ y.got = got) :=
  ⟨by decide, by decide, by decide, ⟨_, Prod.ext rfl (ok_of (by decide +kernel))⟩, fun _ => ⟨rfl, rfl, rfl⟩⟩
/-- The sum of four FP32 lanes, of rank 1 of 2, key 5, round 6. -/
def redWords : List Word := [0x0001000000050006, 0x0020010000000000, 0x9000, 0xA000]
theorem test_witness_ExchangeInstructions_reduce :
    Calm (xState redWords) ∧ RecordRead (xState redWords) 0 0 (readS (curSeq (xState redWords)) 1) (recordState redWords) redWords ∧
    redOk (redDesc (xState redWords) 0 0 redWords) redWords = true ∧ field (dw redWords 3) 0 48 % 64 = 0 ∧ field (dw redWords 0) 32 12 = (xState redWords).exid.toNat ∧
    field (dw redWords 0) 46 6 = 4 ∧ field (dw redWords 0) 52 4 = 0 ∧
    (∃ u, BufferAt (recordState redWords) 0 0 { needLoad with pin := true } 0x9000 16 u [(nearAt 0x9000, 16)] ∧ CleanParts u [(nearAt 0x9000, 16)]) :=
  ⟨calm_x _ rfl, record_of (o := nearAt 0x8000) (by decide) (by decide +kernel) (.inr (by decide +kernel)) (by decide +kernel), by decide, by decide, by decide, by decide, by decide,
   ⟨_, Prod.ext rfl (ok_of (by decide +kernel)), fun p hp => by rw [List.mem_singleton.mp hp]; exact .inr (by decide +kernel)⟩⟩
def gotResult : GotResult := { key := 5, round := 6, words := [0x1000000000000000, 0], lanes := [1, 2, 3, 4] }
theorem test_witness_ExchangeInstructions_result :
    let s := xState redWords fun x => { x with results := [gotResult], seq := { x.seq with wait := .result redWords } }
    curWait s = .result redWords ∧ (ctxOf s 0 0).results = [gotResult] ∧ gotResult.key.toNat = field (dw redWords 0) 16 16 ∧
    gotResult.round.toNat = field (dw redWords 0) 0 16 ∧ gotResult.words = [0x1000000000000000, 0] ∧ field (0x1000000000000000 : Word) 60 4 ≠ 4 ∧ (coreOf s 0).copies = [] ∧
    (coreOf s 0).bwEn = false ∧ s.reqs = [] ∧ (∀ q ∈ s.hbmStacks, q.2.slots = []) ∧ Canonical s = true ∧ field (dw redWords 0) 52 4 ≤ 3 ∧
    (∃ u, BufferAt s 0 0 { needStore with pin := true } (field (dw redWords 3) 0 48) (64 + 4 * 4) u [(nearAt 0xA000, 64 + 4 * 4)]) ∧
    (let u := xState redWords fun x => { x with seq := { x.seq with wait := .result redWords } }
     curWait u = .result redWords ∧ (ctxOf u 0 0).results = []) :=
  ⟨rfl, by decide, by decide, by decide, rfl, by decide, by decide, by decide, rfl, by decide, by decide +kernel, by decide, ⟨_, Prod.ext rfl (ok_of (by decide +kernel))⟩, by decide⟩

theorem test_witness_ExchangeUnit_delivery :
    let y : Posted := { chan := 3, cap := 64, pages := [(0x8000, 64)], got := none }
    let m : Message := { dev := 0, core := 5, asid := 0, task := some 1, tag := 0, dcore := 0, chan := 3, mid := 9, tell := false, data := [1, 2, 3] }
    let s := { xState [] fun x => { x with posted := [y] } with messages := [m] }
    (ctxOf s 0 0).posted = [y] ∧ y.got = none ∧ (ctxOf s 0 0).r.state = .running ∧ y.pages = [(0x8000, y.cap)] ∧ s.reqs = [] ∧ (∀ q ∈ s.hbmStacks, q.2.slots = []) ∧
    s.messages.find? (messageFor s 0 (ctxOf s 0 0) y) = some m ∧ m.tell = false ∧ m.dev < 4096 ∧ m.core < 256 ∧ y.cap ≤ 0x100000 ∧ Canonical s = true := by decide +kernel
/-- A contribution of rank 1 of two, whose slot has rank 0's. -/
def contrib (rank : Nat) (op : Nat := 0) : Contribution :=
  { asid := 0, op := op, fmt := 0, lanes := 2, root := 0, key := 5, round := 6, nrank := 2, rank := rank, tmo := 1, dev := 0, core := 0, who := 0
    vals := [0x3F800000, 0x40000000], poison := false }
def redSlot0 (nrank : Nat := 2) : RedSlot :=
  { asid := 0, first := { contrib 0 with nrank := nrank }, ranks := [(0, 0, 0, 0)], lanes := [emptyRec, emptyRec], xb := 0, nanrank := none, start := 0, lingering := none, missing := [] }
def redState (x : Contribution) (slots : NMap RedSlot) : State := { xState [] with redIn := [(8, x)], redSlots := slots }
theorem contributes_of {s : State} {p : Word × Contribution} (h : s.redIn.find? (fun q => q.2 == p.2) = some p ∧ (jobOf s p.2.asid.toNat).clamped = false ∧
    s.redWait = [] ∧ (jobOf s p.2.asid.toNat).level.toNat ≠ 2 ∧ p.2.dev = s.exid.toNat) : Contributes s p := h
theorem test_witness_ExchangeUnit_contribution :
    Contributes (redState (contrib 1) []) (8, contrib 1) ∧ findRedSlot (redState (contrib 1) []) (contrib 1) = none ∧ 1 < (contrib 1).nrank :=
  ⟨contributes_of (by decide +kernel), by decide, by decide⟩
theorem test_witness_ExchangeUnit_slots :
    ∀ p ∈ [(contrib 0, redSlot0), (contrib 1 2, redSlot0), ({ contrib 1 with nrank := 3 }, redSlot0 3), (contrib 1, redSlot0)], let s := redState p.1 [(0, p.2)]
      (s.redIn.find? (fun q => q.2 == p.1) = some (8, p.1) ∧ (jobOf s p.1.asid.toNat).clamped = false ∧ s.redWait = [] ∧ (jobOf s p.1.asid.toNat).level.toNat ≠ 2 ∧ p.1.dev = s.exid.toNat) ∧
      (findRedSlot s p.1 = some (0, p.2) ∧ look s.redSlots 0 = some p.2) ∧ p.2.lingering = none := by decide +kernel
theorem test_witness_ExchangeUnit_kinds :
    (∃ p ∈ redSlot0.ranks, p.1 = (contrib 0).rank) ∧ (∀ p ∈ redSlot0.ranks, p.1 ≠ (contrib 1).rank) ∧ redSlot0.first.op ≠ (contrib 1 2).op ∧
    sameRed (redSlot0 3).first { contrib 1 with nrank := 3 } = true ∧ (redSlot0 3).ranks.length + 1 < (redSlot0 3).first.nrank ∧
    sameRed redSlot0.first (contrib 1) = true ∧ redSlot0.ranks.length + 1 = redSlot0.first.nrank := by decide
theorem contrib_values : xVals (contrib 1) = [0x3F800000, 0x40000000] := by decide +kernel
theorem one_no_nan : xNan 0 0x3F800000 = false := by decide +kernel
theorem two_no_nan : xNan 0 0x40000000 = false := by decide +kernel
theorem test_witness_ExchangeUnit_values : ∀ v ∈ xVals (contrib 1), xNan 0 v = false := by
  rw [contrib_values]
  intro v h
  simp only [List.mem_cons, List.not_mem_nil, or_false] at h
  obtain rfl | rfl := h
  · exact one_no_nan
  · exact two_no_nan
theorem test_witness_ExchangeUnit_timeout :
    let s := { redState (contrib 1) [(4, redSlot0)] with time := { State.reset.time with ptime := 1000 } }
    look s.redSlots 4 = some redSlot0 ∧ redSlot0.lingering = none ∧ redSlot0.first.tmo ≠ 0 ∧ (jobOf s redSlot0.asid.toNat).clamped = false ∧
    (jobOf s redSlot0.asid.toNat).level.toNat ≠ 2 ∧ redSlot0.start + redSlot0.first.tmo * 1000 ≤ s.time.ptime.toNat ∧ (∀ p ∈ redSlot0.ranks, p.2.1 = s.exid.toNat) ∧
    redSlot0.first.nrank ≤ 4096 ∧ redSlot0.nanrank = none := by decide +kernel
theorem test_witness_ExchangeUnit_result :
    let x : RedResult := { asid := 0, core := 0, who := 0, key := 5, round := 6, w0 := 0, w1 := 0, lanes := [] }
    let s := { xState [] with resIn := [x] }
    x ∈ s.resIn ∧ x.core = 0 ∧ (ctxOf s 0 0).r.state = .running ∧ (ctxOf s 0 0).r.key = x.who := by decide
/-- A flit with the CRC it must carry, or another. -/
def flitOf (ty seq : Nat) (data : List Byte := []) : Flit :=
  let f : Flit := { ty := ty, dst := 0, src := 3, vc := 0, seq := seq, mid := 2, crc := 0, data := data }
  { f with crc := flitCrc f }
def badFlit : Flit := { flitOf 6 0 with crc := flitCrc (flitOf 6 0) + 1 }
theorem flit_ok (ty : Nat) (data : List Byte) (h : data.length ≤ 240) : FlitOk ctx 4 (flitOf ty 0 data) := ⟨by decide, by decide, h, rfl, rfl⟩
theorem test_witness_ExchangeUnit_flits :
    (badFlit.crc ≠ flitCrc badFlit ∧ badFlit.data.length ≤ 240) ∧ ((flitOf 6 1).crc = flitCrc (flitOf 6 1) ∧ (flitOf 6 1).seq ≠ (portX ctx 4).expect) ∧
    FlitOk ctx 4 (flitOf 7 0) ∧ FlitOk ctx 4 (flitOf 6 0) ∧ FlitOk ctx 4 (flitOf 5 0) ∧ (portX ctx 4).out = [] ∧ (portX ctx 4).down = false := by
  refine ⟨⟨fun h => ?_, by decide⟩, ⟨rfl, by decide⟩, flit_ok _ _ (by decide), flit_ok _ _ (by decide), flit_ok _ _ (by decide), rfl, rfl⟩
  have h1 : flitCrc (flitOf 6 0) + 1 = flitCrc (flitOf 6 0) := h
  have := congrArg BitVec.toNat h1
  rw [BitVec.toNat_add] at this
  have : (1 : W32).toNat = 1 := rfl
  omega
theorem test_witness_ExchangeUnit_message :
    let body : List Byte := List.replicate 20 7
    let f := flitOf 0 0 (natLE 4 body.length ++ body)
    FlitOk ctx 4 f ∧ routeOf ctx f.dst = none ∧ f.mid < 2 ^ 41 ∧ f.data = natLE 4 body.length ++ body ∧ ctx.frames = [] :=
  ⟨flit_ok _ _ (by decide), by decide, by decide, rfl, rfl⟩
theorem test_witness_ExchangeUnit_replay :
    ∀ n ∈ [0, 15], let x : XPort := { XPort.reset with nak := some 7, failed := n, replay := [flitOf 6 6, flitOf 6 7, flitOf 6 8] }
      let s := { ctx with xports := [(4, x)] }
      (portX s 4).down = false ∧ replayFrom 7 (portX s 4).replay = [flitOf 6 7, flitOf 6 8] ∧ (portX s 4).nak = some 7 ∧ (portX s 4).failed = n := by
  intro n _
  exact ⟨rfl, rfl, rfl, rfl⟩
/-! ### Witnesses: slices, walks and the network -/

/-- A request of one operation at 0x8000, accepted by its slice. -/
def reqOf (op : ReqOp) (sc : Bool := false) (host : Bool := false) : Req :=
  { lockedStore with op := op, sc := sc, host := host, accepted := some 1 }
theorem test_witness_SlicesAndWalks_request :
    ∀ r ∈ [reqOf (.load 4), reqOf (.store [1, 2] false), reqOf (.atomic 0 8 5 6), reqOf (.load 4) true], let s : State := { ctx with reqs := [r] }
      (s.reqs = [r] ∧ r.host = false ∧ r.accepted.isSome = true ∧ r.answer = none ∧ r.within = none ∧ (∀ q ∈ s.hbmStacks, q.2.slots = [])) ∧
      Canonical s = true ∧ firstPoisoned s r.pa r.op.bytes = none ∧ s.cycle % 128 / 4 = 0 ∧ s.scAt ≤ s.cycle ∧ s.cycle < { s with scAt := 1 }.scAt ∧
      (let u : State := { s with cycle := 4 * homeSlice r.pa }; u.cycle % 128 / 4 = homeSlice r.pa) := by decide +kernel
theorem test_witness_SlicesAndWalks_line :
    let l : Line := { mask := 0, dirty := false, way := 2 }
    let n := 0x8000 / 128
    let s : State := { ctx with lines := [(n, l)], hbmStacks := [(0, { Stack.reset with period := 4 })] }
    n * 128 < Config.hbmBytes ∧ look s.lines n = some l ∧ l.mask = 0 ∧ 2 * n ∉ s.poison ∧
    (stackOf s (homeSlice (n * 128) / 4)).ueaddr.getLsbD 63 = false ∧ n < 2 ^ 40 ∧ (stackOf { s with hbmStacks := [(0, { Stack.reset with period := 0 })] } 0).period = 0 ∧ (stackOf s 0).period ≠ 0 ∧
    look s.lines ((0 * (Config.stackBytes / 64) + (stackOf s 0).scrub % (Config.stackBytes / 64)) / 2) = none ∧
    (0 * (Config.stackBytes / 64) + (stackOf s 0).scrub % (Config.stackBytes / 64)) ∉ s.poison ∧
    (let u : State := { s with lines := [(0, l)] }
     (look u.lines ((0 * (Config.stackBytes / 64) + (stackOf u 0).scrub % (Config.stackBytes / 64)) / 2)).isSome = true) := by decide +kernel
def walk0 : Walk := { id := 7, core := 0, asid := 0, root := 0x10001, va := 0x8000, write := true, kind := 2, acc := 1, started := true }
def walkState : State := { ctxSeq fun q => { q with wait := .walk 7 } with walks := [walk0] }
def walkEnd : Leaf := match walk walkState walk0.root walk0.va with | .ok l => l | .error _ => { at_ := 0, entry := 0, base := 0, span := 0, level := 0 }
theorem test_witness_SlicesAndWalks_walk :
    walkState.walks = [walk0] ∧ walk0.started = true ∧ (ctxOf walkState walk0.core 0).seq.wait = .walk walk0.id ∧ (∃ l, walk walkState walk0.root walk0.va = .ok l ∧ leafCheck walk0.need l.entry (l.base + walk0.va % (4096 * 2 ^ l.span)) = none) ∧
    Canonical walkState = true := ⟨rfl, rfl, by decide, ⟨walkEnd, ok_of (by decide +kernel), by decide +kernel⟩, by decide +kernel⟩

/-- A packet of slot 0 of core 0 at node 9, for node `dst`. -/
def netPacket (dst : Nat) (load : Payload) : Packet :=
  { id := 7, cls := 1, core := 0, slot := 0, flits := 2, dst := dst, dstUnit := 0, node := 9, dir := 0, esc := false, since := 0, load := load, line := none
    reserved := false, header := none }
def tokLoad : Payload := .tok 1 (flight0 (tokOf [7, 8]))
def netState (p : Packet) (rest : List Packet) : State := { taskCtx id with packets := p :: rest }
/-- Packets that fill the pool at the next node, and one in the class's escape buffer there. -/
def crowd (esc : Bool) : List Packet :=
  (List.range 27).map (fun i => { netPacket 40 tokLoad with id := 100 + i, core := 3 + i, node := nextNode 9 20, dir := 10 }) ++
    (if esc then [{ netPacket 40 tokLoad with id := 200, node := nextNode 9 20, dir := 10, esc := true }] else [])
theorem test_witness_NetworkMoves_hop :
    ∀ rest ∈ [[], crowd false, crowd true], let p := netPacket 20 tokLoad
      let s := netState p rest
      packetOf s 7 = some p ∧ p.node ≠ p.dst ∧ p.reserved = false ∧ p.dir = 0 ∧
      (let there := s.packets.filter fun q => q.node == nextNode p.node p.dst && q.dir == p.node + 1 && !q.reserved
       ((there.filter fun q => !q.esc).length = if rest = [] then 0 else 27) ∧ ((there.any fun q => q.esc && q.cls == p.cls) = (rest == crowd true))) := by decide +kernel
theorem test_witness_NetworkMoves_load : ∀ n, tokLoad ≠ .req n := nofun
theorem test_witness_NetworkMoves_accept :
    (∀ r ∈ [reqOf (.load 4), reqOf (.load 4) false true, reqOf (.store [1, 2] false) false true], let p := { netPacket 9 (.req 5) with dir := 9 }
      let s := { netState p [] with reqs := [r] }
      packetOf s 7 = some p ∧ p.node = p.dst ∧ p.load = .req r.id ∧ p.dir ≠ 0 ∧ s.reqs = [r] ∧ r.answer = none ∧ r.sc = false ∧ Canonical s = true) ∧
    (∀ g ∈ [0, 3], let p := netPacket 9 tokLoad
      let s := onCtx (fun x => { x with gates := g }) (netState p [])
      packetOf s 7 = some p ∧ p.node = p.dst ∧ taskSlot s p.dstUnit 1 = some 0 ∧ (ctxOf s p.dstUnit 0).gates = g) := by decide +kernel
/-- The token's task has no resident context at the node, and the first of its saved contexts is the task's. -/
theorem test_witness_NetworkMoves_saved :
    let v : Saved := { savedCtx with ctx := { savedCtx.ctx with task := 2 } }
    let s := modCore (netState (netPacket 9 (.tok 2 (flight0 (tokOf [7, 8])))) []) 0 fun x => { x with saved := [v] }
    taskSlot s 0 2 = none ∧ (coreOf s 0).saved = [v] ∧ v.ctx.task = 2 := by decide
theorem test_witness_NetworkMoves_reserve :
    ∀ held ∈ [[], [(9, nextNode 9 20 + 1, 4, 3)]], let p := { netPacket 20 tokLoad with reserved := true }
      let s := { netState p [] with slotsResv := held }
      packetOf s 7 = some p ∧ p.reserved = true ∧ p.header = none ∧ p.node ≠ p.dst ∧
      ((∃ x ∈ s.slotsResv.filter fun x => s.cycle ≤ x.2.2.1, x.1 = p.node ∧ x.2.1 = nextNode p.node p.dst + 1 ∧ s.cycle + 3 ≤ x.2.2.1 ∧
        x.2.2.1 < s.cycle + 3 + p.flits) ↔ held ≠ []) := by
  decide +kernel
theorem test_witness_NetworkMoves_ready : Ready { netPacket 20 tokLoad with reserved := true } := .inr nofun
/-- Its header has reserved cycles 3 and 4 of the link; it passes in cycle 3, or waits in cycle 2. -/
theorem test_witness_NetworkMoves_slots :
    ∀ cyc ∈ [2, 3], let p := { netPacket 20 tokLoad with reserved := true, header := some (nextNode 9 20) }
      let next := nextNode p.node p.dst
      let s := { netState p [] with cycle := cyc, slotsResv := [(9, next + 1, 3, 7), (9, next + 1, 4, 7)] }
      packetOf s 7 = some p ∧ p.node ≠ p.dst ∧ ((p.node, next + 1, s.cycle, 7) ∈ s.slotsResv ↔ cyc = 3) ∧
      (∀ x ∈ s.slotsResv, (x.1 = p.node ∧ x.2.1 = next + 1 ∧ x.2.2.2 = 7) → s.cycle ≤ x.2.2.1) := by decide +kernel
theorem test_witness_NetworkMoves_timeout :
    ∀ cyc ∈ [100, 5000], let p := netPacket 20 tokLoad
      let s := { netState p (crowd true) with cycle := cyc }
      packetOf s 7 = some p ∧ p.reserved = false ∧ p.node ≠ p.dst ∧ flowReserved s p.core p.slot p.dstUnit p.cls = false ∧
      (if cyc = 5000 then (s.packets.any fun q => q.esc && q.id != 7 && q.node == nextNode p.node p.dst && q.dir == p.node + 1 && q.since + 4096 < s.cycle) = true
       else ∀ q ∈ s.packets, q.esc = true → s.cycle ≤ q.since + 4096) := by decide +kernel
theorem test_witness_NetworkMoves_flows :
    ∀ cyc ∈ [1023, 1024], let f : Flow := { core := 0, slot := 0, dst := 0, cls := 1, permanent := false, lastSent := 0 }
      let s := { onCore (fun x => { x with bwEn := true }) with flows := [f], cycle := cyc }
      s.flows[0]? = some f ∧ f.permanent = false ∧ (f.lastSent + 1024 ≤ s.cycle ↔ cyc = 1024) ∧ (coreOf s 0).bwEn = true ∧
      ((coreOf s 0).bwStart + 1024 ≤ s.cycle ↔ cyc = 1024) ∧ (coreOf ctx 0).bwEn = false := by decide +kernel
/-! ### Witnesses: registers and the host link -/

/-- Slot 0 of core 0 with a trap pending and one record unreleased. -/
def regState (st : CtxState) (pend : Bool) : State :=
  onCtx fun x => { x with r := { x.r with state := st, trapPend := pend, head := 3, tail := 1 } }
theorem test_witness_RegistersAreWritten :
    SmallId (.host 0) ∧ SmallId (.svc 5) ∧ SmallId (.host 16) ∧ ¬Admitted (.host 16) ∧ Admitted (.host 0) ∧ Admitted (.svc 5) ∧
    ((4 : Nat) ≠ 8 ∧ (2 : Nat) ≠ 4 ∧ (2 : Nat) ≠ 8 ∧ 0x8000000310004 % 8 ≠ 0 ∧ 0x8000000000000 ≤ 0x8000000310004 ∧ 0x8000000310004 < 0x8000010000000) ∧
    (let v : Word := 0x8001; field v 11 41 * 2048 + 2048 ≤ Config.hbmBytes) ∧ (let v : Word := 0x8000000000000; Config.hbmBytes ≤ field v 11 41 * 2048) ∧
    (let s := regState .running true
     let v : Word := 0x300
     (ctxOf s 0 0).pending = [] ∧ ((v.extractLsb' 8 6 : BitVec 6) - (ctxOf s 0 0).r.tail).toNat ≤ ((ctxOf s 0 0).r.head - (ctxOf s 0 0).r.tail).toNat ∧
     ((ctxOf s 0 0).r.head - (ctxOf s 0 0).r.tail).toNat < (((0x400 : Word).extractLsb' 8 6 : BitVec 6) - (ctxOf s 0 0).r.tail).toNat ∧
     (ctxOf s 0 0).r.trapPend = true ∧ (ctxOf (regState .free false) 0 0).r.trapPend = false) ∧
    (let v : Word := 0x10001; field v 16 36 * 65536 + 65536 ≤ Config.hbmBytes) ∧ (let v : Word := 0x8000000000000; Config.hbmBytes ≤ field v 16 36 * 65536) ∧
    (1 : Word).getLsbD 0 = true ∧ (2 : Word).getLsbD 0 = false := by
  refine ⟨?_, ?_, ?_, ?_, .inl rfl, .inr ⟨5, rfl⟩, by decide, by decide, by decide, by decide +kernel, by decide, by decide, by decide, by decide⟩
  · exact Nat.zero_le _
  · exact Nat.le_of_ble_eq_true rfl
  · exact Nat.le_refl _
  · rintro (h | ⟨n, h⟩) <;> cases h
theorem test_witness_RegistersAreWritten_shares :
    let s := onCore fun x => { x with shareNext := [(0, 40), (3, 20)] }
    sharesOf (coreOf s 0).shareNext (· != 3) + field (24 : Word) 0 7 ≤ 64 ∧ 64 < sharesOf (coreOf s 0).shareNext (· != 3) + field (25 : Word) 0 7 := by decide
theorem test_witness_RegistersAreWritten_ways :
    (ctxOf (regState .running true) 0 0).r.state = .running ∧ (ctxOf (regState .free false) 0 0).r.state = .free ∧
    (let s : State := { ctx with vlogs := [(2, { VLog.reset with entries := [(0, (1, 1)), (5, (2, 1))] })] }
     ((lookD s.vlogs 2 VLog.reset).entries.map (·.1)).Nodup) := by decide

/-- Virtual function 3 sees 2 GiB of device memory from 1 GiB on. -/
def windowState : State := { ctx with vfwin := [(2, 2 ||| place 1 30)] }
theorem test_witness_HostReachesTheDevice :
    NoLocks windowState ∧ (∀ f ≤ 16, hostHolds windowState f = false) ∧ Canonical windowState = true ∧ Window windowState 0 0x8000 4 0x8000 ∧ Window windowState 3 0x8000 4 0x40008000 ∧ Window windowState 3 0x8000 8 0x40008000 ∧
    firstPoisoned windowState 0x40008000 8 = none ∧ 0x8000 % 8 = 0 ∧ ((5 : Nat) ≠ 0 ∧ (5 : Nat) ≠ 2 ∧ (5 : Nat) ≠ 4) := by
  refine ⟨⟨rfl, nofun⟩, by decide, by decide +kernel, ?_, ?_, ?_, by decide +kernel, by decide, by decide⟩ <;> unfold Window <;> decide
/-- A line that a near-memory command has locked. -/
theorem test_witness_HostReachesTheDevice_locked :
    let s : State := { ctx with hbmStacks := [(0, { Stack.reset with slots := [(0, nmCmd)] })] }
    isLocked s 0x8000 4 = true ∧ hostHolds s 0 = false ∧ Canonical s = true := by decide +kernel
theorem test_witness_HostReachesTheDevice_doorbell :
    ∀ n ∈ [0, 64], let s : State := { ctx with queues := [(3, { Queue.reset with qcfg := place 5 47, packets := List.replicate n [] })] }
      (queueOf s 3).packets.length = n ∧ field (queueOf s 3).qcfg 47 5 = 5 ∧ (1 : Word).getLsbD 0 = true ∧ hostHolds s 5 = false := by
  decide +kernel
theorem test_witness_HostReachesTheDevice_completion :
    let h : HostRead := { id := 5, addr := 0x8000, n := 4, who := .unit 0 0 0 }
    let r := reqOf (.load 4) false true
    let s : State := { ctx with hostReads := [h], reqs := [r] }
    let u : State := { ctx with hostReads := [{ h with who := .hub }], reqs := [{ r with who := .hub }] }
    (u.hostReads = [{ h with who := .hub }] ∧ u.reqs = [{ r with who := .hub }]) ∧ r.who ≠ .hub ∧ s.hostReads = [h] ∧ s.reqs = [r] ∧ r.id = h.id ∧ r.op = .load h.n ∧ ([1, 2, 3, 4] : List Byte).length = h.n := ⟨⟨rfl, rfl⟩, nofun, rfl, rfl, rfl, rfl, rfl⟩
/-! ### Witnesses: the clamp, steps and debug access -/

def cause0 (dev : Nat := 0) : CauseRec :=
  { unit := 8, cause := .brkpt, dev := dev, core := 0, ctx := 0, siteA := 0, siteB := 0, iter := 0, colour := 0, tick := 0 }
/-- Job 0 with a context in slot 0 of core 0, in a state. -/
def jobState (j : Job) (st : CtxState := .running) (f : Ctx → Ctx := id) : State :=
  { onCtx fun x => f { x with r := { x.r with state := st, prev := .running }, colours := [(0, (2, false))] } with jobs := [(0, j)] }
theorem distinct_of {s : State} (h : (s.cores.map (·.1)).Nodup ∧ ∀ p ∈ s.cores, (p.2.ctxs.map (·.1)).Nodup) : Distinct s := h
theorem test_witness_ClampRequestsLand_request :
    ∀ p ∈ [(false, false), (true, false), (true, true), (false, true)],
      let j : Job := { Job.reset with raised := [cause0], clamped := p.1, stepping := p.2 }
      let s := jobState j
      (jobOf s 0).raised = [cause0] ∧ (jobOf s 0).clamped = p.1 ∧ (jobOf s 0).stepping = p.2 ∧ (jobOf s 0).reverse = none ∧ (cause0).tick.toNat < 2 ^ 63 ∧
      (s.cores.map (·.1)).Nodup ∧ (∀ p ∈ s.cores, (p.2.ctxs.map (·.1)).Nodup) ∧ (jobOf ctx 0).raised = [] := by decide
theorem test_witness_ClampRequestsLand_saves : NoSaves (jobState { Job.reset with raised := [cause0] }) := nofun
theorem test_witness_ClampRequestsLand_land :
    ∀ p ∈ [(0, 0), (2, 0), (2, 15)], let j : Job := { Job.reset with waiting := [cause0, cause0 3], level := BitVec.ofNat 2 p.1, lag := BitVec.ofNat 4 p.2 }
      let s := { jobState j with time := { State.reset.time with ptime := 0x500000 } }
      (jobOf s 0).clamped = false ∧ (jobOf s 0).waiting = [cause0, cause0 3] ∧ (jobOf s 0).tact = false ∧ (jobOf s 0).secs = [] ∧
      (∀ x ∈ [cause0, cause0 3], x.tick.toNat < 2 ^ 63) ∧ (jobOf s 0).late = false ∧
      ((jobOf s 0).level = 2 ↔ p.1 = 2) := by decide
theorem test_witness_ClampRequestsLand_passed :
    (let s := { jobState Job.reset with time := { State.reset.time with ptime := 0x7FFFFFFFFFFFFFFF } }
     Passed s (jobOf s 0) cause0) ∧ ¬Passed (jobState Job.reset) (jobOf (jobState Job.reset) 0) cause0 := by unfold Passed; decide +kernel

def clampedJob (f : Job → Job := id) : Job := f { Job.reset with clamped := true, cmdtick := 9 }
theorem test_witness_CommandsAndSteps_commands :
    Cmd 0x001 1 ∧ Cmd 0x004 4 ∧ Cmd 0x005 5 ∧ Cmd 0x003 3 ∧
    (let s := jobState (clampedJob) .clamped
     (jobOf s 0).stepping = false ∧ (jobOf s 0).clamped = true ∧ field (0x003 : Word) 4 8 = 0 ∧ jobSlot s 0 0 = some 0 ∧ jobSlot s 5 0 = none ∧
     ¬((jobOf s 0).cmdtick.toNat ≤ (tickNow s).toNat) ∧ (ctxOf s 0 0).r.state = .clamped ∧ asidOf (ctxOf s 0 0) = 0) ∧
    (field (0x001 : Word) 0 4 = 1 ∧ field (0x1004 : Word) 0 4 = 4 ∧ 4096 ≤ (0x1004 : Word).toNat ∧ field (0x052 : Word) 0 4 = 2 ∧ field (0x052 : Word) 4 8 = 5) := by
  unfold Cmd; decide +kernel
theorem test_witness_CommandsAndSteps_steps :
    (∀ cyc ∈ [70, 65536 + 7], let s := { jobState (clampedJob fun j => { j with stepping := true, stepCore := some (0, 1, 7) }) with cycle := cyc }
      (jobOf s 0).stepping = true ∧ (jobOf s 0).clamped = true ∧ (jobOf s 0).stepCore = some (0, 1, 7) ∧ (7 + 65536 ≤ s.cycle ↔ cyc = 65543)) ∧
    (let s := jobState { Job.reset with stepTo := some 9, stepping := true }
     (jobOf s 0).stepTo = some 9 ∧ (jobOf s 0).stepping = true ∧ (jobOf s 0).clamped = false ∧ (tickNow s).toNat ≤ (9 : Word).toNat) ∧
    (let s := { jobState { Job.reset with stepTo := some 9, stepping := true } with time := { State.reset.time with ptime := 0x7FFFFFFFFFFFFFFF } }
     (9 : Word).toNat < (tickNow s).toNat ∧ (s.cores.map (·.1)).Nodup ∧ (∀ p ∈ s.cores, (p.2.ctxs.map (·.1)).Nodup)) ∧
    (let s := jobState (clampedJob fun j => { j with resumeAt := some 9 }) .clamped
     (jobOf s 0).clamped = true ∧ (jobOf s 0).stepping = false ∧ (jobOf s 0).resumeAt = some 9 ∧ (tickNow s).toNat < (9 : Word).toNat) ∧
    (let s := jobState (clampedJob fun j => { j with stepTo := some 0 }) .clamped
     (jobOf s 0).clamped = true ∧ (jobOf s 0).stepping = false ∧ (jobOf s 0).resumeAt = none ∧ (jobOf s 0).stepTo = some 0 ∧ (0 : Word).toNat ≤ (tickNow s).toNat) := by decide +kernel

/-- Element 0 of the clamped context holds a matched set, or none. -/
def firingState (sets : List RSet) (j : Job := clampedJob) : State :=
  modElem (jobState j .clamped) 0 0 fun x => { x with ways := [(0, wayWith 0x811E0100)], ready := sets }
theorem test_witness_FiringSteps_fire :
    ∀ l ∈ [[], [readySet]], let s := firingState l
      let u := settleTokens (modJob { s with reply := some [], deferred := false } 0 fun j => { j with stepping := true, stepCore := some (0, 1, s.cycle) }) 0 0 4096
      (jobOf s 0).stepping = false ∧ (jobOf s 0).clamped = true ∧ jobSlot s 0 0 = some 0 ∧ (canonNext u 0 0).isSome = (l == [readySet]) := by decide +kernel
theorem test_witness_FiringSteps_reverse :
    Cmd 0x002 2 ∧ Cmd 0x006 6 ∧ (jobOf (firingState []) 0).level = 0 ∧
    (∀ n ∈ [0, 5], let s := onCtx (fun x => { x with fires := n }) (firingState [] { clampedJob with level := 1, ckValid := true })
      (jobOf s 0).level ≠ 0 ∧ (jobOf s 0).ckValid = true ∧ (jobOf s 0).ckLapsed = false ∧ (firesOn s 0 0 = 0 ↔ n = 0) ∧ jobSlot s 0 0 = some 0) := by
  unfold Cmd; decide +kernel

/-- A context with a selection; L2 is declared, two lanes. -/
def dbgState (sel : Word) (st : CtxState := .clamped) (f : Ctx → Ctx := id) : State :=
  onCtx fun x => f { x with r := { x.r with state := st, dbgsel := sel }, lam := [(2, lam0)] }
theorem test_witness_DebugAccess :
    (ctxOf (dbgState 0 .running) 0 0).r.state ≠ .clamped ∧ 6 ≤ field (ctxOf (dbgState 0x6000) 0 0).r.dbgsel 12 4 ∧
    (∀ p ∈ [(0, 31), (0, 32), (1, 7), (1, 8), (2, 2), (2, 3), (3, 15), (3, 16), (4, 0), (4, 1), (5, 65), (5, 66), (5, 96), (5, 2048)],
      let s := dbgState (BitVec.ofNat 64 (p.1 * 4096 + p.2))
      (ctxOf s 0 0).r.state = .clamped ∧ field (ctxOf s 0 0).r.dbgsel 12 4 = p.1 ∧ field (ctxOf s 0 0).r.dbgsel 0 12 = p.2) ∧
    (let x := ctxOf (dbgState 0x5041) 0 0
     declWidth (lamOf x 2).decl = 2 ∧ declWidth (lamOf x 3).decl = 0) ∧ (ctxOf (dbgState 0) 0 0).seq.wait = .none := by decide
/-- A clamped context whose load of S5 at 0x4000 waits for its answer. -/
theorem test_witness_DebugAccess_load :
    let s : State := { ctx with hbm := writeBytes (writeBytes ctx.hbm 0x4000 (natLE 4 0xFC029869)) 0x4004 (natLE 4 0x1000) }
    let u := modCtx s 0 0 fun x => { x with r := { x.r with state := .clamped, dbgsel := 5 }, seq := { x.seq with wait := .request 9 } }
    pendingLoad { u with reply := some [] } 0 0 = some (9, 5, 2) ∧ (BitVec.ofNat 5 (field (ctxOf u 0 0).r.dbgsel 0 12) : Reg) = 5 ∧
    (ctxOf u 0 0).r.state = .clamped := by decide +kernel
/-! ### Witnesses: resets, time, boot, health, and the step -/

theorem test_witness_ResetsAndKill_jobs :
    Admitted (.host 0) ∧ EndsClean (taskCtx id) [0] ∧ NoLocks (taskCtx id) ∧ coreJobs (coreOf (taskCtx id) 0) = [0] :=
  ⟨.inl rfl, ⟨rfl, by decide, by decide, distinct_of (by decide), fun c => by cases c <;> rfl⟩, ⟨rfl, nofun⟩, by decide⟩
theorem test_witness_ResetsAndKill_queues :
    let s := taskCtx id
    (∀ x ∈ s.tasks, x.queue ≠ 3 ∧ x.over = false) ∧ (s.tasks.map (·.id)).Nodup ∧
    (let u : State := { s with tasks := [{ task0 with ended := task0.cores }] }
     ∀ x ∈ u.tasks, x.over = true → x.queue = 0) ∧ (s.vlogs.map (·.1)).Nodup := by decide
theorem test_witness_TimeIsKept :
    (let z := State.reset.time
     (-10 : Int) ≤ (z.ptime - 7).toInt ∧ (z.ptime - 7).toInt ≤ 10 ∧ (z.ptime - 50).toInt < -10 ∧ z.lock = false) ∧
    (let s : State := { ctx with time := { State.reset.time with ptime := 0x10000, lock := true } }
     s.time.ticked.toNat < (tickNow s).toNat ∧ s.tickOut = [] ∧ s.time.lock = true) ∧ (tickNow ctx).toNat ≤ ctx.time.ticked.toNat := by decide +kernel

/-- An image of one page of M with the header that R442 tables; what its keys hash to and whether its signatures verify is open. -/
def image0 : List Byte :=
  [0x47, 0x4C, 0x4E, 0x53, 0x5A, 0x39, 0x36, 0x30, 1, 0, 0, 0, 5, 0, 1, 0] ++ natLE 8 4096 ++ natLE 8 8 ++ [4] ++ List.replicate (4096 - 0x21 + 4096) 0
theorem header_ok : HeaderOk image0 := by
  have zeros : 4096 ≤ image0.length ∧ leNat (at_ image0 0x81 7) = 0 := by decide +kernel
  have size : leNat (at_ image0 0x10 8) = 4096 ∧ image0.length = 4096 + leNat (at_ image0 0x10 8) := by decide +kernel
  have start : leNat (at_ image0 0x18 8) = 8 ∧ nth image0 0x20 0 = 4 := by decide +kernel
  refine ⟨zeros.1, by decide +kernel, by decide +kernel, by decide +kernel, by decide +kernel, by rw [size.1], by rw [size.1]; decide,
    size.2, by rw [start.1], by rw [start.1, size.1]; decide, start.2, zeros.2, fun b hb => ?_⟩
  have h : at_ image0 0xB8C 0x474 = List.replicate 0x474 0 := by decide +kernel
  rw [h] at hb
  exact List.eq_of_mem_replicate hb
theorem test_witness_DeviceBoots :
    State.reset.boot.phase = 0 ∧ HeaderOk image0 ∧ ¬HeaderOk [] ∧ State.reset.boot.rollback ≤ leNat (at_ image0 0xC 2) ∧ Canonical State.reset = true ∧
    (∀ cyc ∈ [8, 9], let s : State := { ctx with boot := { Boot.reset with phase := 1, retryAt := 9 }, cycle := cyc }
      s.boot.phase = 1 ∧ (s.boot.retryAt ≤ s.cycle ↔ cyc = 9)) :=
  ⟨by decide, header_ok, fun h => absurd h.1 (by decide), by decide +kernel, by decide +kernel, by decide⟩
theorem test_witness_ReportsAndHealth :
    (∀ leaf ∈ [0, 32767, 32768], let s : State := { ctx with boot := { Boot.reset with leaf := leaf } }
      (s.boot.leaf < 32768 ∨ 32768 ≤ s.boot.leaf) ∧ (List.replicate 48 (0 : Byte)).length = 48) ∧ (65535 < 65536) ∧ 223 < 224 ∧ 7 < 8 := by decide

/-- The sequencer of slot 0 has its turn at 0x4000, where two words stand. -/
def turnState (w v : Nat) : State :=
  { ctx with agenda := [(3, .seq 0 0 false false)], hbm := writeBytes (writeBytes ctx.hbm 0x4000 (natLE 4 w)) 0x4004 (natLE 4 v) }
def turnBefore (w v : Nat) : State := { later { turnState w v with agenda := [] } 3 with cur := .seq 0 0, deferred := false, stale := false }
def fetched (w v : Nat) (a : Word) (s : State) : State × Except XFault Phys := translate s 0 (ctxOf (turnState w v) 0 0).r.xlroot a needFetch
def turnAt (pa : Nat) : Phys := { pa := pa, leaf := 0xC0F }
theorem test_witness_StepRunsDecodedInstruction_context :
    let s := turnState 0x6C000002 0
    s.agenda = [(3, .seq 0 0 false false)] ∧ (coreOf s 0).trbuf = [] ∧ seqRuns s 0 0 = true ∧ (ctxOf s 0 0).seq.loops = [] ∧
    ∃ t p, fetched 0x6C000002 0 (ctxOf s 0 0).seq.pc (turnBefore 0x6C000002 0) = (t, .ok p) ∧ Clean t p 4 ∧ meaningOf (fourBytes t p) (.ret { p := 0, neg := false }) :=
  ⟨rfl, by decide, by decide, by decide, _, turnAt 0x4000, Prod.ext rfl (ok_of (by decide +kernel)), .inr (by decide +kernel), .inl (ok_of (by decide +kernel))⟩
theorem reserved_of {bs : List Byte} (h : (match decodeBytes bs with | .error r => r != .truncated | .ok _ => false) = true) :
    meaningOf bs .reservedEncoding := by
  refine .inr ⟨rfl, ?_⟩
  generalize decodeBytes bs = e at h ⊢
  cases e with
  | ok a => cases h
  | error r => exact ⟨r, rfl, by simpa using h⟩
theorem test_witness_StepRunsDecodedInstruction_reserved :
    ∃ t p, fetched 0x0064287F 0 0x4000 (turnBefore 0x0064287F 0) = (t, .ok p) ∧ Clean t p 4 ∧ meaningOf (fourBytes t p) .reservedEncoding :=
  ⟨_, turnAt 0x4000, Prod.ext rfl (ok_of (by decide +kernel)), .inr (by decide +kernel), reserved_of (by decide +kernel)⟩
/-- The first word of LDS.D.BAY S5, [S6+0x1000] has been fetched; its second follows. -/
def firstFetched : State :=
  cached (fetched 0xFC029869 0x1000 0x4000 (turnBefore 0xFC029869 0x1000)).1 (turnAt 0x4000) 0 0x4000 0
    (numberAt (fetched 0xFC029869 0x1000 0x4000 (turnBefore 0xFC029869 0x1000)).1 (turnAt 0x4000) 4)
theorem test_witness_StepRunsDecodedInstruction_two_words :
    let t := (fetched 0xFC029869 0x1000 0x4000 (turnBefore 0xFC029869 0x1000)).1
    isSx (BitVec.ofNat 32 (numberAt t (turnAt 0x4000) 4)) = true ∧ ctxOf firstFetched 0 0 = ctxOf (turnState 0xFC029869 0x1000) 0 0 ∧
    ∃ t' p', fetched 0xFC029869 0x1000 0x4004 firstFetched = (t', .ok p') ∧ Clean t' p' 4 ∧
      meaningOf (fourBytes t (turnAt 0x4000) ++ fourBytes t' p') (.ldsSx 5 6 .d (.sync .bay) 0x1000) :=
  ⟨by decide +kernel, by decide +kernel, _, turnAt 0x4004, Prod.ext rfl (ok_of (by decide +kernel)), .inr (by decide +kernel), .inl (ok_of (by decide +kernel))⟩
/-- A service core at PA 0x1000, where RET or the two words stand. -/
def svcTurn (w v : Nat) : State :=
  { State.reset with agenda := [(3, .svc 0 false false)], hbm := writeBytes (writeBytes [] 0x1000 (natLE 4 w)) 0x1004 (natLE 4 v)
                     svcs := [(0, { Svc.reset with running := true, seq := { Seq.reset with pc := 0x1000 } })] }
theorem test_witness_StepRunsDecodedInstruction_service :
    (let s := svcTurn 0x6C000002 0
     s.agenda = [(3, .svc 0 false false)] ∧ svcRuns s 0 = true ∧ isHbm (svcOf s 0).seq.pc.toNat = true ∧ firstPoisoned s 0x1000 4 = none ∧
     meaningOf (fourBytes s (inHbm (svcOf s 0).seq.pc.toNat)) (.ret { p := 0, neg := false })) ∧
    (let s := svcTurn 0xFC029869 0x1000
     isSx (BitVec.ofNat 32 (numberAt s (inHbm (svcOf s 0).seq.pc.toNat) 4)) = true ∧ isHbm ((svcOf s 0).seq.pc + 4).toNat = true ∧ firstPoisoned s 0x1004 4 = none ∧
     meaningOf (fourBytes s (inHbm (svcOf s 0).seq.pc.toNat) ++ fourBytes s (inHbm ((svcOf s 0).seq.pc + 4).toNat)) (.ldsSx 5 6 .d (.sync .bay) 0x1000)) :=
  ⟨⟨rfl, by decide, by decide, by decide +kernel, .inl (ok_of (by decide +kernel))⟩, by decide +kernel, by decide, by decide +kernel, .inl (ok_of (by decide +kernel))⟩
theorem test_witness_StepRunsDecodedInstruction_element :
    let s : State := { fireCtx [tokOf [1]] 0 id (wayWith 0x811E0100) with agenda := [(3, .elem 0 0 true)] }
    s.agenda = [(3, .elem 0 0 true)] ∧ (coreOf s 0).trbuf = [] ∧ (∃ r, (elemOf s 0 0).issuing = some r ∧ regionMoves s 0 r.way = true ∧
      decodeElem (lookD (lookD (elemOf s 0 0).ways r.way Way.reset).slots r.slot 0) = .ok (.mov { pm := .always, nt := 1, ks := 7, kp := 0, om := 1 })) ∧
    (let u : State := { ctx with agenda := [(3, .ev .holdover true)] }; u.agenda = [(3, .ev .holdover true)]) :=
  ⟨rfl, by decide, ⟨_, rfl, by decide, rfl⟩, rfl⟩
theorem test_witness_EncodeDecode :
    (Instr.add g0 1 2 3).WellFormed ∧ (∃ w, encode (Instr.add g0 1 2 3) = [w]) ∧ (Instr.moviSx 3 7).WellFormed ∧ (∃ w v, encode (Instr.moviSx 3 7) = [w, v]) ∧
    (Instr.mov (hdr 1)).WellFormed ∧ (∃ w, encode (Instr.mov (hdr 1)) = [w]) := ⟨rfl, ⟨_, rfl⟩, rfl, ⟨_, _, rfl⟩, rfl, ⟨_, rfl⟩⟩
theorem test_witness_StepKeepsMemoryCanonical :
    Canonical State.reset = true ∧ (match step State.reset with | .next _ => true | _ => false) = true := by decide +kernel
/-! ### Results that the spec works out -/

/-- The tables of the walk example. -/
def walkTables : Mem :=
  [(0x100018, 0x101001), (0x101028, 0x102001), (0x102038, 0x400000407)].foldl (fun m p => writeBytes m p.1 (natLE 8 p.2)) []
def walkOf : State :=
  modCtx { State.reset with hbm := walkTables, cur := .seq 0 0 } 0 0 fun x => { x with r := { x.r with state := .running, xlroot := 0x100001 } }
theorem test_walk_gives_pa :
    isOk (translate walkOf 0 0x100001 0x018140E092A8 needStore).2 { pa := 0x4000092A8, leaf := 0x400000C07 } = true := by decide +kernel
theorem test_walk_sets_dirty :
    numberAt (translate walkOf 0 0x100001 0x018140E092A8 needStore).1 (inHbm 0x102038) 8 = 0x400000C07 := by decide +kernel
theorem test_home_slice : homeSlice 0x4000092A8 = 3 := by decide
theorem test_core_numbers : coreDie 121 = 1 ∧ coreBay 121 = 17 ∧ bayPos 121 = 2 ∧ coreStack 121 = 4 := by decide
/-- 1.0, 2^24 and −2^24 contributed to one lane read as 1.0; 1.0, 2^−24 and 2^−24 as 1 + 2^−23. -/
theorem test_exact_sum_cancels :
    let c (v : Nat) : Rec := lamRec 0x40 (fp32.read v) 0 0 0x7F
    lamScalar 0x40 .value (combineRec (declKind 0x40) (combineRec (declKind 0x40) (c 0x3F800000) (c 0x4B800000)) (c 0xCB800000)) = 0x3F800000 := by decide +kernel
theorem test_exact_sum_rounds_once :
    let c (v : Nat) : Rec := lamRec 0x40 (fp32.read v) 0 0 0x7F
    lamScalar 0x40 .value (combineRec (declKind 0x40) (combineRec (declKind 0x40) (c 0x3F800000) (c 0x33800000)) (c 0x33800000)) = 0x3F800001 := by decide +kernel
/-- The KB5 block that the chapter on formats encodes: elements 0, 1, 4, 5 are 3.0, −1.25, 0.5, 0.1875. -/
theorem test_kb5_block :
    let l := rowVals 3 16 [0x80, 0xF8, 0xAC, 0x02, 0x80, 0x06, 0, 0, 0, 0, 0, 0]
    [0, 1, 4, 5].map (fun i => fp32.write (nth l i .nan)) = [0x40400000, 0xBFA00000, 0x3F000000, 0x3E400000] := by decide +kernel
/-- Attribution: 0x3DCCCCCD with NX of element 41, +∞ with OF and NX of element 20: XB 0x0A, XU 20. -/
theorem test_attribution :
    let r := combineRec (declKind 0x40) (lamRec 0x40 (fp32.read 0x3DCCCCCD) 0 0x02 41) (lamRec 0x40 (fp32.read 0x7F800000) 0 0x0A 20)
    lamScalar 0x40 .value r = 0x7F800000 ∧ lamScalar 0x40 .xb r = 0x140A := by decide +kernel
/-- ADDI wraps, and SRAI of a negative value rounds down. -/
def stepped (i : Instr) (f : Seq → Seq) : Seq := match exec i (ctxSeq f) with | .next t => curSeq t | _ => Seq.reset
theorem test_add_wraps : readS (stepped (.addi 1 2 0xFFFF) fun q => { q with s := [(2, 0)] }) 1 = BitVec.allOnes 64 := by decide +kernel
theorem test_sub_of_itself : readS (stepped (.sub g0 3 3 4) fun q => { q with s := [(3, 5), (4, 7)] }) 3 = 0xFFFFFFFFFFFFFFFE := by decide +kernel
theorem test_s0_discards : readS (stepped (.addi 0 2 5) fun q => { q with s := [(2, 1)] }) 0 = 0 := by decide +kernel
theorem test_pc_advances : (stepped (.addi 0 2 5) fun q => q).pc = 0x4004 := by decide +kernel
end Sys2Proof.Tests
end

section
/-! The reset state: its tables list nothing, so each part of the machine reads as its own reset value
(R445; values the spec does not give are those of log 6). -/
namespace Sys2Proof.Proofs
open Sys2Proof.Machine Sys2Proof.Safety

/-! ### The parts of the reset state -/

@[simp] theorem lookD_nil {α : Type} (k : Nat) (d : α) : lookD [] k d = d := rfl

@[simp] theorem coreOf_reset (c : Nat) : coreOf State.reset c = Core.reset := by simp [coreOf, State.reset]

@[simp] theorem ctxOf_reset (c k : Nat) : ctxOf State.reset c k = Ctx.reset := by
  simp [ctxOf, ctxIn, Core.reset]

@[simp] theorem elemOf_reset (c e : Nat) : elemOf State.reset c e = Elem.reset := by
  simp [elemOf, elemIn, Core.reset]

@[simp] theorem svcOf_reset (n : Nat) : svcOf State.reset n = Svc.reset := by simp [svcOf, State.reset]

@[simp] theorem jobOf_reset (a : Nat) : jobOf State.reset a = Job.reset := by simp [jobOf, State.reset]

@[simp] theorem queueOf_reset (q : Nat) : queueOf State.reset q = Queue.reset := by
  simp [queueOf, State.reset]

/-- HBM4 and host memory list nothing, and no core is listed whose typed buffers could. -/
theorem canonical_reset : Canonical State.reset = true := by
  simp [Canonical, State.reset, wf_nil]

/-! ### What software finds in the parts after reset -/

/-- Ring pointers at 0, no page root and no fault queue enabled (R39), nothing placed and no instance. -/
theorem ctxReset_idle :
    let x := Ctx.reset
    x.r.head = 0 ∧ x.r.tail = 0 ∧ x.r.xlroot.getLsbD 0 = false ∧ x.r.fqctl.getLsbD 0 = false ∧
      x.insts = [] ∧ x.places = [] := by
  simp [Ctx.reset, CtxRegs.reset]

/-- No clamp, no origin and no section, level 0 (R390, R413). -/
theorem jobReset_unclamped :
    let j := Job.reset
    j.clamped = false ∧ j.late = false ∧ j.stepping = false ∧ j.secs = [] ∧ j.origin = none ∧ j.lag = 1 ∧
      j.level = 0 := by
  simp [Job.reset]

/-- Settles O60: the reset state's memories list nothing, and each other part reads as its own reset value. -/
theorem resetState : Obligations.ResetState := by
  have ctxFree (c k : Nat) : (ctxOf State.reset c k).r.state = .free := by
    rw [ctxOf_reset]; rfl
  have ctxIdle (c k : Nat) := ctxOf_reset c k ▸ ctxReset_idle
  have jobUnclamped (a : Nat) := jobOf_reset a ▸ jobReset_unclamped
  have svcWaits (n : Nat) : (svcOf State.reset n).running = false := by rw [svcOf_reset]; rfl
  have queueEmpty (q : Nat) : (queueOf State.reset q).packets = [] := by rw [queueOf_reset]; rfl
  have elemIdle (c e : Nat) : (elemOf State.reset c e).ready = [] ∧ (elemOf State.reset c e).issuing = none := by
    rw [elemOf_reset]; exact ⟨rfl, rfl⟩
  exact ⟨canonical_reset, rfl, rfl, rfl, ctxFree, ctxIdle, jobUnclamped, rfl, rfl, rfl, rfl, svcWaits, queueEmpty,
    elemIdle⟩

end Sys2Proof.Proofs
end

section
/-! Near-memory SUMX on a running sum whose record is empty (R92, R213): `combineRec` reads a record with V = 0 as no sum at
all, whatever its ACC, while the statement of a chunk counts that ACC. -/
namespace Sys2Proof.Proofs
open Sys2Proof.Machine Sys2Proof.Safety

/-! ### The records of the sum -/

/-- A record with V = 0, which holds no contribution, and with ACC = 1. -/
def emptyRecOfOne : Rec := 1#320 ++ 0#64

theorem recV_emptyRecOfOne : recV emptyRecOfOne = false := by decide +kernel

theorem recAcc_emptyRecOfOne : recAcc emptyRecOfOne = 1 := by decide +kernel

/-- The operator of SUMX. -/
def sumxKind : OpKind := { op := opADDX, float := true, bits := 32 }

/-- What an FP32 element contributes to the sum. -/
def sumxRec (bits : Nat) : Rec := floatRec sumxKind (fp32.read bits) 0 0x7F

theorem recAcc_sumxRec_zero : recAcc (sumxRec 0) = 0 := by decide +kernel

/-- A contribution takes the place of the empty record, whose ACC is gone. -/
theorem combineRec_emptyRecOfOne (k : OpKind) (b : Rec) : combineRec k emptyRecOfOne b = b := by
  simp [combineRec, recV_emptyRecOfOne]

/-! ### The command and its chunk -/

/-- A SUMX command over one FP32 element, +0 at address 0, locked and before its only chunk. -/
def sumxOfZero : NmCmd :=
  { words := [place 6 56 ||| 1, 0x200, 0, 0, 0, 0, 0x100, 0], core := 0, slot := 0, key := 0, asid := 0, root := 0
    cmpl := 0x100, ext := [(0, 4)], obj := 0x200, pas := [(1, [(0, 0, 4)]), (3, [(0x200, 0x200, 64)])], home := 0, ce := 0
    locked := true, chunks := 0, poiscnt := 0, badva := 0, xb := 0, acc := emptyRecOfOne, maxv := 0, abort := false }

/-- The command after its chunk. -/
def sumxDone : NmCmd := { sumxOfZero with acc := combineRec sumxKind emptyRecOfOne (sumxRec 0), chunks := 1 }

/-- The command stands in slot 0 of stack 0; its context runs in slot 0 of core 0; memory is as after reset. -/
def sumxState : State :=
  { State.reset with
    cores := [(0, { Core.reset with ctxs := [(0, { Ctx.reset with r := { CtxRegs.reset with state := .running } })] })]
    hbmStacks := [(0, { Stack.reset with slots := [(0, sumxOfZero)] })] }

theorem chunk_sumxState : Claims.Chunk sumxState 0 0 sumxOfZero 4 := by
  refine ⟨rfl, rfl, rfl, ?_, ?_, ?_⟩ <;> decide

theorem look_nmChunkOp_sumxState :
    look (stackOf (nmChunkOp 0 0 .clean sumxState) 0).slots 0 = some sumxDone := by
  decide +kernel

theorem recAcc_sumxDone : recAcc sumxDone.acc = 0 := by
  rw [sumxDone, combineRec_emptyRecOfOne, recAcc_sumxRec_zero]

/-- Refutes O41: in `sumxState` the chunk of one +0 leaves ACC = 0, where the statement asks for the 1 that stood in ACC of
the empty record (V = 0) plus the 0 contributed. -/
theorem not_nearMemoryCommands : ¬ Obligations.NearMemoryCommands := by
  intro h
  obtain ⟨-, -, -, -, hChunk, -⟩ := h.2 sumxState 0 0 sumxOfZero
  obtain ⟨-, hSum, -⟩ := hChunk 4 .clean chunk_sumxState (by decide) (by decide)
  obtain ⟨t, ht, -, p, hp, -, -, hAcc⟩ := hSum (by decide) (by decide)
  have hExec : exec (.nmChunk 0 (withEcc 0 .clean)) sumxState = .next (nmChunkOp 0 0 .clean sumxState) := rfl
  obtain rfl : nmChunkOp 0 0 .clean sumxState = t := by simpa [hExec] using ht
  obtain rfl : sumxDone = p := by simpa [look_nmChunkOp_sumxState] using hp
  have hOne : 4 / Claims.cmdSize sumxOfZero.words = 1 := by decide
  have hStated := hAcc (fun _ => 0) fun i hi => by
    obtain rfl : i = 0 := by omega
    exact ⟨false, 0, -149, by decide, by decide⟩
  rw [hOne, recAcc_sumxDone, show recAcc sumxOfZero.acc = 1 from recAcc_emptyRecOfOne] at hStated
  revert hStated
  decide +kernel

end Sys2Proof.Proofs
end

section
/-! Traps of the executing sequencer: a trap changes its context or service core, the trace and the job's requests for the
clamp wave, and nothing else (R249, R396, R398, R408). -/
namespace Sys2Proof.Proofs
open Sys2Proof.Machine Sys2Proof.Safety Sys2Proof.Claims

/-! ### Contexts after an update of another part -/

theorem ctxOf_modCtx_other (s : State) {c k c' k' : Nat} (f : Ctx → Ctx) (h : (c', k') ≠ (c, k)) :
    ctxOf (modCtx s c k f) c' k' = ctxOf s c' k' := by
  by_cases hc : c' = c
  · subst hc
    have hk : k' ≠ k := fun e => h (by rw [e])
    simp [ctxOf, modCtx, setCtx, ctxIn, lookD_put_other _ _ _ hk]
  · simp [ctxOf, modCtx, setCtx, coreOf_modCore_other _ _ hc]

/-- An update of a core that keeps its contexts. -/
theorem ctxOf_modCore_of_ctxs (s : State) (c : Nat) (f : Core → Core) (hf : ∀ x, (f x).ctxs = x.ctxs) (c' k' : Nat) :
    ctxOf (modCore s c f) c' k' = ctxOf s c' k' := by
  by_cases hc : c' = c
  · subst hc
    simp [ctxOf, ctxIn, hf]
  · simp [ctxOf, coreOf_modCore_other _ _ hc]

/-! ### Trace records -/

/-- All that recording an event can do: nothing, a record more in the core's buffer, or a record counted as lost. -/
theorem trace_cases (s : State) (c k ev : Nat) (w hash aux : Word) :
    trace s c k ev w hash aux = s ∨
    (∃ r, trace s c k ev w hash aux = modCore s c fun x => { x with trbuf := x.trbuf ++ [r] }) ∨
    (∃ j n, trace s c k ev w hash aux = ringLost s j n) := by
  unfold trace
  split
  · unfold traceRaw
    dsimp only
    split
    · exact .inr (.inl ⟨_, rfl⟩)
    · split
      · exact .inr (.inr ⟨_, _, rfl⟩)
      · exact .inl rfl
  · exact .inl rfl

section
variable (s : State) (c k ev : Nat) (w hash aux : Word)

@[simp] theorem ctxOf_trace (c' k' : Nat) : ctxOf (trace s c k ev w hash aux) c' k' = ctxOf s c' k' := by
  obtain h | ⟨r, h⟩ | ⟨j, n, h⟩ := trace_cases s c k ev w hash aux
  · rw [h]
  · rw [h, ctxOf_modCore_of_ctxs]
    exact fun _ => rfl
  · rw [h]; rfl

/-- Recording an event leaves jobs, memory, service cores, queues and tasks as they are. -/
theorem trace_frame : let t := trace s c k ev w hash aux
    t.jobs = s.jobs ∧ t.hbm = s.hbm ∧ t.hostMem = s.hostMem ∧ t.svcs = s.svcs ∧ t.queues = s.queues ∧
      t.tasks = s.tasks := by
  obtain h | ⟨r, h⟩ | ⟨j, n, h⟩ := trace_cases s c k ev w hash aux <;> rw [h] <;> exact ⟨rfl, rfl, rfl, rfl, rfl, rfl⟩

end

/-! ### Taking a trap -/

/-- A context that has taken a trap, an older one keeping its place. -/
def standAtTrap (x : Ctx) (t : TrapInfo) : Ctx :=
  let y := latchOut x t
  if x.trap.isSome then { y with trap := x.trap } else { y with trap := some t, r := { y.r with traprec := trapRec t } }

@[simp] theorem latchOut_seq (x : Ctx) (t : TrapInfo) : (latchOut x t).seq = x.seq := by
  unfold latchOut
  split
  · rfl
  · split <;> rfl

@[simp] theorem standAtTrap_seq (x : Ctx) (t : TrapInfo) : (standAtTrap x t).seq = x.seq := by
  unfold standAtTrap; dsimp only; split <;> simp

theorem standAtTrap_of_none {x : Ctx} (t : TrapInfo) (h : x.trap = none) :
    (standAtTrap x t).trap = some t ∧ (standAtTrap x t).r.traprec = trapRec t := by
  simp [standAtTrap, h]

section
variable (s : State) (c k : Nat) (t : TrapInfo)

@[simp] theorem ctxOf_requestClamp (a : Nat) (r : CauseRec) (c' k' : Nat) :
    ctxOf (requestClamp s a r) c' k' = ctxOf s c' k' := rfl

@[simp] theorem ctxOf_takeTrap_same : ctxOf (takeTrap s c k t false) c k = standAtTrap (ctxOf s c k) t := by
  have hSet (x : Ctx) : ctxOf (setCtx s c k x) c k = x := ctxOf_modCtx_same s c k fun _ => x
  simp [takeTrap, hSet, standAtTrap]

theorem ctxOf_takeTrap_other {c' k' : Nat} (h : (c', k') ≠ (c, k)) :
    ctxOf (takeTrap s c k t false) c' k' = ctxOf s c' k' := by
  have hSet (x : Ctx) : ctxOf (setCtx s c k x) c' k' = ctxOf s c' k' := ctxOf_modCtx_other s (fun _ => x) h
  simp [takeTrap, hSet]

/-- The trap asks for the clamp wave of the context's job. -/
theorem raised_takeTrap : (jobOf (takeTrap s c k t false) (asidOf (ctxOf s c k))).raised =
    (jobOf s (asidOf (ctxOf s c k))).raised ++ [causeRec s c k t] := by
  simp [takeTrap, requestClamp, modJob, jobOf, trace_frame]

theorem takeTrap_frame : let u := takeTrap s c k t false
    u.hbm = s.hbm ∧ u.hostMem = s.hostMem ∧ u.svcs = s.svcs ∧ u.queues = s.queues ∧ u.tasks = s.tasks := by
  simp [takeTrap, requestClamp, trace_frame]

end

/-- TRAPREC of a sequencer's trap names its cause, and unit 0. -/
theorem field_trapRec_plainTrap (cause : Cause) : field (trapRec (plainTrap cause 0)) 56 8 = cause.code ∧
    field (trapRec (plainTrap cause 0)) 53 3 = 0 := by
  cases cause <;> decide

/-- The state whose context's sequencer waits for nothing. -/
def notWaiting (s : State) (c k : Nat) : State := modCtx s c k fun x => { x with seq := { x.seq with wait := .none } }

theorem ctxOf_notWaiting_same (s : State) (c k : Nat) : ctxOf (notWaiting s c k) c k =
    { ctxOf s c k with seq := { (ctxOf s c k).seq with wait := .none } } := ctxOf_modCtx_same ..

theorem trapCur_of_context {s : State} {c k : Nat} (hc : s.cur = .seq c k) (cause : Cause) :
    trapCur s cause = takeTrap (notWaiting s c k) c k (plainTrap cause 0) false := by
  simp only [trapCur, modCur, modSeq, hc]
  rfl

/-- All that a trap of the executing sequencer does. -/
theorem trapCur_spec (s : State) (cause : Cause) (h : seqActs s = true) : Trapped s (trapCur s cause) cause := by
  cases hc : s.cur with
  | seq c k =>
    have hCtx := ctxOf_notWaiting_same s c k
    have hRaised := raised_takeTrap (notWaiting s c k) c k (plainTrap cause 0)
    rw [hCtx] at hRaised
    simp only [Trapped, hc, trapCur_of_context hc]
    refine ⟨?_, fun hNone => ?_, ⟨_, hRaised, rfl, rfl, rfl, rfl⟩, fun c' k' hOther => ?_, takeTrap_frame ..⟩
    · rw [ctxOf_takeTrap_same, standAtTrap_seq, hCtx]
    · obtain ⟨hStands, hRec⟩ := standAtTrap_of_none (x := ctxOf (notWaiting s c k) c k) (plainTrap cause 0)
        (by rw [hCtx]; exact hNone)
      rw [ctxOf_takeTrap_same, hRec]
      exact ⟨hStands, field_trapRec_plainTrap cause⟩
    · rw [ctxOf_takeTrap_other _ _ _ _ hOther]
      exact ctxOf_modCtx_other s _ hOther
  | svc n =>
    simp only [Trapped, trapCur, hc]
    exact ⟨svcOf_modSvc_same .., rfl⟩
  | _ => simp [seqActs, hc] at h

end Sys2Proof.Proofs
end

section
/-! Fences (R121, R323): what a release and an acquire of a party wait for. -/
namespace Sys2Proof.Proofs
open Sys2Proof.Machine Sys2Proof.Safety Sys2Proof.Claims

/-! ### Draining a party -/

theorem drainParty_of_partyReqs_nil {s : State} {w : Who} (h : partyReqs s w = []) : drainParty s w = (s, true) := by
  rw [drainParty, h]; rfl

/-- A party's only request that may not be performed stays as it is. -/
theorem drainParty_of_held {s : State} {w : Who} {r : Req} (h : partyReqs s w = [r]) (hHeld : mayPerform s r = false) :
    drainParty s w = (s, false) := by
  have hOpen : reqOpen s r.id = true := by
    have hListed : r ∈ partyReqs s w := h ▸ List.mem_singleton_self r
    obtain ⟨hIn, hParty⟩ := List.mem_filter.mp hListed
    exact List.any_eq_true.mpr ⟨r, hIn, by simp [(Bool.and_eq_true_iff.mp hParty).2]⟩
  simp [drainParty, h, drainList, hOpen, hHeld]

/-- A release waits while the party's own requests are not all performed. -/
theorem releaseNow_of_drainParty {s t : State} {w : Who} (z : Scope) (h : drainParty s w = (t, false)) :
    releaseNow s w z = (t, false) := by
  unfold releaseNow
  rw [h]
  dsimp only
  split <;> simp

/-- With nothing under way, a release waits for nothing. -/
theorem releaseNow_of_calm {s : State} (z : Scope) (h : seqActs s = true) (hCalm : Calm s) :
    releaseNow s (seqWho s) z = (s, true) := by
  obtain ⟨-, -, hReqs, hBufs, hSends, hStacks, hCore⟩ := hCalm
  have hDrain : drainParty s (seqWho s) = (s, true) :=
    drainParty_of_partyReqs_nil (by rw [partyReqs, hReqs, List.filter_nil])
  unfold releaseNow
  rw [hDrain]
  cases hc : s.cur with
  | seq c k =>
    have hCopies : (coreOf s c).copies = [] := by simp only [hc] at hCore; exact hCore.1
    have hWay (key : Half) : nmOnWay s c key = false := by
      simp only [nmOnWay, List.any_eq_false]
      intro p hp
      simp [(hStacks p hp).1]
    simp [seqWho, hc, hBufs, hSends, hCopies, hWay]
  | svc n => simp [seqWho, hc]
  | _ => simp [seqActs, hc] at h

/-! ### Waiting and retiring leave requests, tasks and memory as they are -/

/-- An instruction that waits changes the executing sequencer's phase only. -/
theorem waitIn_spec (s : State) (w : Wait) (h : seqActs s = true) :
    curSeq (waitIn s w) = { curSeq s with wait := w } ∧ OnlySeq s (waitIn s w) :=
  ⟨curSeq_modCur s _ h, onlySeq_modCur s _⟩

@[simp] theorem modCur_reqs (s : State) (f : Seq → Seq) : (modCur s f).reqs = s.reqs := by
  unfold modCur modSeq; split <;> rfl
@[simp] theorem modCur_tasks (s : State) (f : Seq → Seq) : (modCur s f).tasks = s.tasks := by
  unfold modCur modSeq; split <;> rfl
@[simp] theorem modCur_hbm (s : State) (f : Seq → Seq) : (modCur s f).hbm = s.hbm := by
  unfold modCur modSeq; split <;> rfl
@[simp] theorem progressed_reqs (s : State) : (progressed s).reqs = s.reqs := by
  unfold progressed; split <;> rfl
@[simp] theorem progressed_tasks (s : State) : (progressed s).tasks = s.tasks := by
  unfold progressed; split <;> rfl
@[simp] theorem progressed_hbm (s : State) : (progressed s).hbm = s.hbm := by
  unfold progressed; split <;> rfl

/-! ### The fences -/

section
variable {s : State} {g : Guard} (z : Scope) (hg : guardHolds (curSeq s) g = true)
include hg

theorem exec_fence_of_guard : exec (.fence g z) s = .next (fenceOp z s) := by
  show Host.Outcome.next (guarded g s (fenceOp z)) = _
  rw [guarded_pass g s _ hg]

theorem exec_fenceAcq_of_guard : exec (.fenceAcq g z) s = .next (fenceAcqOp s) := by
  show Host.Outcome.next (guarded g s fenceAcqOp) = _
  rw [guarded_pass g s _ hg]

theorem exec_fenceRel_of_guard : exec (.fenceRel g z) s = .next (fenceOp z s) := by
  show Host.Outcome.next (guarded g s (fenceOp z)) = _
  rw [guarded_pass g s _ hg]

end

theorem fenceOp_of_released {s t : State} {z : Scope} (h : releaseNow s (seqWho s) z = (t, true)) :
    fenceOp z s = retire t 1 := by simp [fenceOp, h]

theorem fenceOp_of_waiting {s t : State} {z : Scope} (h : releaseNow s (seqWho s) z = (t, false)) :
    fenceOp z s = waitIn t .none := by simp [fenceOp, h]

/-- Plain stores to pages other than UO do not hold an acquire fence. -/
theorem fenceAcqOp_of_no_read {s : State}
    (h : ∀ r ∈ partyReqs s (seqWho s), r.op.reads = false ∧ r.ord ≠ 2) : fenceAcqOp s = retire s 1 := by
  have hNone : ((partyReqs s (seqWho s)).any fun r => r.op.reads || r.ord == 2) = false := by
    rw [List.any_eq_false]
    intro r hr
    simp [h r hr]
  simp [fenceAcqOp, hNone]

theorem fenceAcqOp_of_waiting {s t : State} {r : Req} (hr : r ∈ partyReqs s (seqWho s)) (hOrd : r.ord = 2)
    (h : drainParty s (seqWho s) = (t, false)) : fenceAcqOp s = waitIn t .none := by
  have hSome : ((partyReqs s (seqWho s)).any fun r => r.op.reads || r.ord == 2) = true :=
    List.any_eq_true.mpr ⟨r, hr, by simp [hOrd]⟩
  simp [fenceAcqOp, hSome, h]

theorem fencesRetire : Claims.FencesRetire := by
  intro s g z hActs hCalm hg
  have hOp : fenceOp z s = retire s 1 := fenceOp_of_released (releaseNow_of_calm z hActs hCalm)
  have hAcq : fenceAcqOp s = retire s 1 := by
    obtain ⟨-, -, hReqs, -⟩ := hCalm
    exact fenceAcqOp_of_no_read (by simp [partyReqs, hReqs])
  have hRetire := retire_spec s 1 hActs
  exact ⟨⟨_, exec_fence_of_guard z hg, hOp ▸ hRetire⟩, ⟨_, exec_fenceAcq_of_guard z hg, hAcq ▸ hRetire⟩,
    ⟨_, exec_fenceRel_of_guard z hg, hOp ▸ hRetire⟩⟩

/-- A request to device memory on a line that a lock holds may not be performed (R97). -/
theorem mayPerform_of_isLocked {s : State} {r : Req} (hHost : r.host = false)
    (h : isLocked s r.pa r.op.bytes = true) : mayPerform s r = false := by
  simp [mayPerform, hHost, h]

theorem fencesWaitForEarlierStores : Claims.FencesWaitForEarlierStores := by
  intro s g z r bs hActs hg hReqs hWho hAnswer hStore _ hHost hLocked
  have hParty : partyReqs s (seqWho s) = [r] := by simp [partyReqs, hReqs, hWho, hAnswer]
  have hDrain : drainParty s (seqWho s) = (s, false) :=
    drainParty_of_held hParty (mayPerform_of_isLocked hHost (by rw [hStore]; exact hLocked))
  have hOp : fenceOp z s = waitIn s .none := fenceOp_of_waiting (releaseNow_of_drainParty z hDrain)
  obtain ⟨hWaits, hOnly⟩ := waitIn_spec s .none hActs
  have hKept : (waitIn s .none).reqs = [r] := by rw [waitIn, modCur_reqs, hReqs]
  refine ⟨⟨_, exec_fence_of_guard z hg, ?_⟩, ⟨_, exec_fenceRel_of_guard z hg, ?_⟩,
    fun hOrd => ⟨_, exec_fenceAcq_of_guard z hg, ?_⟩, fun hOrd => ⟨_, exec_fenceAcq_of_guard z hg, ?_⟩⟩
  · exact hOp ▸ ⟨hWaits, hKept, hOnly⟩
  · exact hOp ▸ ⟨hWaits, hKept, hOnly⟩
  · have hAcq : fenceAcqOp s = retire s 1 :=
      fenceAcqOp_of_no_read (by simp [hParty, hStore, ReqOp.reads, hOrd])
    obtain ⟨hRetires, hOnlyRetire⟩ := retire_spec s 1 hActs
    exact hAcq ▸ ⟨hRetires, by rw [retire, progressed_reqs, modCur_reqs, hReqs], hOnlyRetire⟩
  · have hAcq : fenceAcqOp s = waitIn s .none :=
      fenceAcqOp_of_waiting (hParty ▸ List.mem_singleton_self r) hOrd hDrain
    exact hAcq ▸ ⟨hWaits, hKept, hOnly⟩

end Sys2Proof.Proofs
end

section
/-! Barriers (R324, R325): an arrival is counted in its task, and a wait ends when its generation is complete. -/
namespace Sys2Proof.Proofs
open Sys2Proof.Machine Sys2Proof.Safety Sys2Proof.Claims

/-! ### Tasks -/

theorem find?_updFirst {α : Type} {p : α → Bool} {f : α → α} {l : List α} {x : α} (h : l.find? p = some x)
    (hf : p (f x) = true) : (updFirst l p f).find? p = some (f x) := by
  induction l with
  | nil => cases h
  | cons y r ih =>
    by_cases hy : p y = true
    · obtain rfl : y = x := by simpa [hy] using h
      simp [updFirst, hy, hf]
    · have hr : r.find? p = some x := by simpa [hy] using h
      simpa [updFirst, hy] using ih hr

theorem id_of_taskOf {s : State} {i : Nat} {t : Task} (h : taskOf s i = some t) : t.id = i := by
  simpa using List.find?_some h

@[simp] theorem ctxOf_modTask (s : State) (i : Nat) (f : Task → Task) (c k : Nat) :
    ctxOf (modTask s i f) c k = ctxOf s c k := rfl

theorem taskOf_modTask {s : State} {i : Nat} {t : Task} {f : Task → Task} (h : taskOf s i = some t)
    (hf : (f t).id = t.id) : taskOf (modTask s i f) i = some (f t) :=
  find?_updFirst h (by simp [hf, id_of_taskOf h])

/-! ### Counting an arrival -/

@[simp] theorem countArrival_id (e : Nat) (t : Task) (z : Scope) (c n : Nat) : (countArrival e t z c n).id = t.id := rfl

/-- Counting an arrival in a task changes the named barrier of that task, by one arrival, and nothing else in it. -/
theorem counted_of_taskOf {s u : State} {t : Task} {z : Scope} {c n : Nat}
    (ht : taskOf u t.id = some (countArrival s.exid.toNat t z c n)) (hMem : u.hbm = s.hbm) : Counted s u t z c n := by
  refine ⟨_, ht, ?_, fun key hKey => ?_, rfl, hMem⟩
  · exact lookD_put_same ..
  · simp [countArrival, lookD_put_other _ _ _ hKey]

/-- The scope and number that an arrival under way carries. -/
theorem scopeOf_code (z : Scope) : scopeOf z.code.toNat = z := by cases z <;> rfl

theorem arrival_decode (z : Scope) {n : Nat} (h : n < 8) :
    scopeOf ((z.code.toNat * 8 + n) / 8) = z ∧ (z.code.toNat * 8 + n) % 8 = n := by
  have hDiv : (z.code.toNat * 8 + n) / 8 = z.code.toNat := by omega
  exact ⟨by rw [hDiv, scopeOf_code], by omega⟩

/-- BARRIER_ARRIVAL of a context counts its oldest arrival under way. -/
theorem barrierArrival_of_context {s : State} {c k n : Nat} {r : List Nat} {t : Task} (z : Scope)
    (ht : taskOf s (ctxOf s c k).task = some t) (hn : n < 8) (hc : c < 256)
    (hArr : (ctxOf s c k).arriving = (z.code.toNat * 8 + n) :: r) :
    Completes (.barrierArrival c k) s fun u => (ctxOf u c k).arriving = r ∧ Counted s u t z c n := by
  obtain ⟨hScope, hNumber⟩ := arrival_decode z hn
  have hExec : exec (.barrierArrival c k) s = .next (modTask (modCtx s c k fun y => { y with arriving := r })
      (ctxOf s c k).task fun t => countArrival s.exid.toNat t z c n) := by
    show execBarrierArrival c k s = _
    simp [execBarrierArrival, Nat.not_le.mpr hc, hArr, hScope, hNumber]
  refine ⟨_, hExec, by simp, counted_of_taskOf ?_ rfl⟩
  rw [id_of_taskOf ht]
  exact taskOf_modTask (f := fun t => countArrival s.exid.toNat t z c n) ht rfl

/-- BARRIER_ARRIVAL from another device counts an arrival at a barrier of scope POD (log 66). -/
theorem barrierArrival_of_device {s : State} {i : Nat} {t : Task} (n : Nat) (ht : taskOf s i = some t)
    (hTier : t.tier = 4) : Completes (.barrierArrival (256 + t.id) n) s fun u => Counted s u t .pod 0 n := by
  have hCount : (if t.tier = 4 then countArrival s.exid.toNat t .pod 0 n else t) =
      countArrival s.exid.toNat t .pod 0 n := if_pos hTier
  obtain rfl := id_of_taskOf ht
  have hExec : exec (.barrierArrival (256 + t.id) n) s = .next (modTask s t.id fun t =>
      if t.tier = 4 then countArrival s.exid.toNat t .pod 0 n else t) := by
    show execBarrierArrival (256 + t.id) n s = _
    simp [execBarrierArrival]
  refine ⟨_, hExec, counted_of_taskOf ?_ rfl⟩
  rw [taskOf_modTask ht (by rw [hCount]; rfl), hCount]

/-! ### Operands and checks -/

theorem above_eq_decide (v : Word) (n : Nat) : above v n = decide (2 ^ n ≤ v.toNat) := by
  have hPos : 0 < 2 ^ n := Nat.two_pow_pos n
  by_cases h : 2 ^ n ≤ v.toNat
  · simp [above, h, Nat.ne_of_gt (Nat.div_pos h hPos)]
  · simp [above, h, Nat.div_eq_of_lt (Nat.not_le.mp h)]

theorem field_zero_of_lt {v : Word} {n : Nat} (h : v.toNat < 2 ^ n) : field v 0 n = v.toNat := by
  simp [field, Nat.mod_eq_of_lt h]

/-- What the checks of a barrier operation refuse: a barrier number above 7, or a scope wider than the task's tier. -/
theorem barCheck_eq_true {v : Word} {t : Task} {z : Scope} :
    (above v 3 || tierTooNarrow t z) = true ↔ v.toNat ≥ 8 ∨ scopeRank z > t.tier := by
  simp [above_eq_decide, tierTooNarrow]

section
variable {s : State} {c k : Nat} {t : Task} {z : Scope} {g : Guard}

/-! ### Arriving and waiting -/

/-- The state whose context notes that its last arrival at a barrier belongs to a generation. -/
def notedArrival (s : State) (c k b : Nat) (gen : Half) : State :=
  modCtx s c k fun y => { y with arrived := put y.arrived b gen }

/-- An arrival of a member that has none at this barrier in a generation still open is counted at once. -/
theorem arrive_of_free (hc : s.cur = .seq c k) (ht : taskOf s (ctxOf s c k).task = some t) (n : Nat)
    (hNow : s.deferred = false)
    (hFree : look (ctxOf s c k).arrived (z.code.toNat * 8 + n) = none ∨
      ∃ h, look (ctxOf s c k).arrived (z.code.toNat * 8 + n) = some h ∧ genComplete (barDone t z c n) h = true) :
    ∃ u, arrive s c k t z n = some (u, barDone t z c n) ∧ u.cur = s.cur ∧ curSeq u = curSeq s ∧ u.hbm = s.hbm ∧
      taskOf u t.id = some (countArrival s.exid.toNat t z c n) := by
  have hArrive : arrive s c k t z n =
      some (modTask (notedArrival s c k (z.code.toNat * 8 + n) (barDone t z c n)) t.id
        fun u => countArrival s.exid.toNat u z c n, barDone t z c n) := by
    obtain hNone | ⟨h, hSome, hDone⟩ := hFree
    · simp [arrive, hNone, hNow, notedArrival]
    · simp [arrive, hSome, hDone, hNow, notedArrival]
  refine ⟨_, hArrive, rfl, ?_, rfl, ?_⟩
  · simp [curSeq, seqOf, hc, notedArrival]
  · rw [id_of_taskOf ht]
    exact taskOf_modTask (f := fun u => countArrival s.exid.toNat u z c n) ht rfl

theorem barArrive_of_refused {v : Word} {fin : State → Nat → Nat → Nat → Half → State}
    (ht : taskOf s (ctxOf s c k).task = some t) (h : v.toNat ≥ 8 ∨ scopeRank z > t.tier) :
    barArrive z v fin c k s = trapCur s .illop := by
  simp only [barArrive, ht]
  rw [if_pos (barCheck_eq_true.mpr h)]

/-- A barrier operation whose checks pass and whose release is over arrives and goes on with the generation. -/
theorem barArrive_of_arrive {v : Word} {fin : State → Nat → Nat → Nat → Half → State} {u : State} {gen : Half}
    (ht : taskOf s (ctxOf s c k).task = some t) (hv : v.toNat < 8) (hTier : scopeRank z ≤ t.tier)
    (hRelease : releaseNow s (.unit c k 0) z = (s, true)) (hArrive : arrive s c k t z v.toNat = some (u, gen)) :
    barArrive z v fin c k s = fin u c k v.toNat gen := by
  have hPass : ¬(above v 3 || tierTooNarrow t z) = true := by rw [barCheck_eq_true]; omega
  simp only [barArrive, ht]
  rw [if_neg hPass, hRelease, field_zero_of_lt hv]
  simp only [hArrive]

theorem barWait_of_complete {n : Nat} {gen : Half} (ht : taskOf s (ctxOf s c k).task = some t)
    (hTier : scopeRank z ≤ t.tier) (hDone : genComplete (barDone t z c n) gen = true) :
    barWait z n gen c k s = retire s 1 := by
  simp [barWait, ht, tierTooNarrow, Nat.not_lt.mpr hTier, hDone]

theorem barWait_of_narrow {n : Nat} {gen : Half} (ht : taskOf s (ctxOf s c k).task = some t)
    (hTier : scopeRank z > t.tier) : barWait z n gen c k s = trapCur s .illop := by
  simp only [barWait, ht]
  rw [if_pos (by simpa [tierTooNarrow] using hTier)]

/-! ### The barrier instructions -/

section
variable (hc : s.cur = .seq c k) (hg : guardHolds (curSeq s) g = true)
include hc hg

theorem exec_bara_of_guard (d a : Reg) (z : Scope) : exec (.bara g d a z) s =
    .next (barArrive z (readS (curSeq s) a) (fun u _ _ _ n => retireS u d (n.setWidth 64) 1) c k s) := by
  show execBara g d a z s = _
  simp only [execBara, guarded_pass g s _ hg, ctxOnly, hc]
  rfl

theorem exec_barw_of_guard (a b : Reg) (z : Scope) : exec (.barw g a b z) s =
    .next (if above (readS (curSeq s) a) 3 || above (readS (curSeq s) b) 16 then trapCur s .illop
      else barWait z (field (readS (curSeq s) a) 0 3) ((readS (curSeq s) b).setWidth 16) c k s) := by
  show execBarw g a b z s = _
  simp only [execBarw, guarded_pass g s _ hg, ctxOnly, hc]
  rfl

theorem exec_bar_of_waiting {gen : Half} (a : Reg) (z : Scope) (hw : curWait s = .generation gen) :
    exec (.bar g a z) s = .next (barWait z (field (readS (curSeq s) a) 0 3) gen c k s) := by
  show execBar g a z s = _
  simp only [execBar, guarded_pass g s _ hg, ctxOnly, hc, hw]
  rfl

theorem exec_bar_of_first (a : Reg) (z : Scope) (hw : curWait s = .none) : exec (.bar g a z) s =
    .next (barArrive z (readS (curSeq s) a)
      (fun w c k n gen => barWait z n gen c k (waitIn w (.generation gen))) c k s) := by
  show execBar g a z s = _
  simp only [execBar, guarded_pass g s _ hg, ctxOnly, hc, hw]
  rfl

/-- BARA arrives, gives the generation it arrived in, and retires. -/
theorem bara_arrives (d a : Reg) (ht : taskOf s (ctxOf s c k).task = some t) (hCalm : Calm s)
    (hv : (readS (curSeq s) a).toNat < 8) (hTier : scopeRank z ≤ t.tier)
    (hFree : look (ctxOf s c k).arrived (z.code.toNat * 8 + (readS (curSeq s) a).toNat) = none ∨
      ∃ h, look (ctxOf s c k).arrived (z.code.toNat * 8 + (readS (curSeq s) a).toNat) = some h ∧
        genComplete (barDone t z c (readS (curSeq s) a).toNat) h = true) :
    Completes (.bara g d a z) s fun u =>
      SetsS s u d ((barDone t z c (readS (curSeq s) a).toNat).setWidth 64) ∧ RetiresButS s u 1 ∧
        Counted s u t z c (readS (curSeq s) a).toNat := by
  have hActs : seqActs s = true := by simp [seqActs, hc]
  have hRelease : releaseNow s (.unit c k 0) z = (s, true) := by
    simpa [seqWho, hc] using releaseNow_of_calm z hActs hCalm
  obtain ⟨-, hNow, -⟩ := hCalm
  obtain ⟨u, hArrive, hCur, hSeq, hMem, hTask⟩ := arrive_of_free hc ht _ hNow hFree
  obtain ⟨hSets, hRetires, -⟩ := retireS_spec u d ((barDone t z c (readS (curSeq s) a).toNat).setWidth 64) 1
    (by simp [seqActs, hCur, hc])
  refine ⟨_, exec_bara_of_guard hc hg d a z, ?_⟩
  rw [barArrive_of_arrive ht hv hTier hRelease hArrive]
  refine ⟨?_, ?_, counted_of_taskOf ?_ ?_⟩
  · simpa [SetsS, hSeq] using hSets
  · simpa [RetiresButS, hSeq] using hRetires
  · rw [← hTask]
    simp [taskOf, retireS]
  · simp [retireS, hMem]

/-- BARW retires once its generation is complete. -/
theorem barw_retires (a b : Reg) (ht : taskOf s (ctxOf s c k).task = some t)
    (hv : (readS (curSeq s) a).toNat < 8) (hTier : scopeRank z ≤ t.tier) (hGen : (readS (curSeq s) b).toNat < 2 ^ 16)
    (hDone : genComplete (barDone t z c (readS (curSeq s) a).toNat) ((readS (curSeq s) b).setWidth 16) = true) :
    Completes (.barw g a b z) s fun u => Retires s u 1 ∧ OnlySeq s u := by
  refine ⟨_, exec_barw_of_guard hc hg a b z, ?_⟩
  have hPass : ¬(above (readS (curSeq s) a) 3 || above (readS (curSeq s) b) 16) = true := by
    simp only [above_eq_decide, Bool.or_eq_true, decide_eq_true_eq]
    omega
  rw [if_neg hPass, field_zero_of_lt hv, barWait_of_complete ht hTier hDone]
  exact retire_spec s 1 (by simp [seqActs, hc])

/-- BAR retires once the generation it arrived in is complete. -/
theorem bar_retires {gen : Half} (a : Reg) (ht : taskOf s (ctxOf s c k).task = some t)
    (hv : (readS (curSeq s) a).toNat < 8) (hTier : scopeRank z ≤ t.tier) (hw : curWait s = .generation gen)
    (hDone : genComplete (barDone t z c (readS (curSeq s) a).toNat) gen = true) :
    Completes (.bar g a z) s fun u => Retires s u 1 ∧ OnlySeq s u := by
  refine ⟨_, exec_bar_of_waiting hc hg a z hw, ?_⟩
  rw [field_zero_of_lt hv, barWait_of_complete ht hTier hDone]
  exact retire_spec s 1 (by simp [seqActs, hc])

/-- BARW traps where the checks of a barrier operation fail, whatever generation it names. -/
theorem barw_traps (a b : Reg) (ht : taskOf s (ctxOf s c k).task = some t)
    (h : (readS (curSeq s) a).toNat ≥ 8 ∨ scopeRank z > t.tier) :
    exec (.barw g a b z) s = .next (trapCur s .illop) := by
  rw [exec_barw_of_guard hc hg]
  obtain hNumber | hTier := h
  · have hAbove : above (readS (curSeq s) a) 3 = true := by simpa [above_eq_decide] using hNumber
    rw [hAbove, Bool.true_or, if_pos rfl]
  · rw [barWait_of_narrow ht hTier, ite_self]

end

end

theorem barriersCountGenerations : Claims.BarriersCountGenerations := by
  intro s c k g d a b z t hc hg ht
  have hTrapped : Trapped s (trapCur s .illop) .illop := trapCur_spec s .illop (by simp [seqActs, hc])
  refine ⟨fun hv hTier => ⟨fun hCalm hFree => ?_, fun hGen hDone => ?_, fun gen hw hDone => ?_⟩, fun h hw => ⟨?_, ?_, ?_⟩,
    fun n r hn hCore hArr => ?_, fun n hTier => ?_⟩
  · exact bara_arrives hc hg d a ht hCalm hv hTier hFree
  · exact barw_retires hc hg a b ht hv hTier hGen hDone
  · exact bar_retires hc hg a ht hv hTier hw hDone
  · exact ⟨_, exec_bara_of_guard hc hg d a z, by rwa [barArrive_of_refused ht h]⟩
  · exact ⟨_, barw_traps hc hg a b ht h, hTrapped⟩
  · exact ⟨_, exec_bar_of_first hc hg a z hw, by rwa [barArrive_of_refused ht h]⟩
  · exact barrierArrival_of_context z ht hn hCore hArr
  · exact barrierArrival_of_device n ht hTier

/-- Settles O15: a fence goes by what its release or acquire finds under way; a barrier operation by its checks, the
arrival it makes, and the generation it waits for. -/
theorem fencesAndBarriers : Obligations.FencesAndBarriers :=
  ⟨fencesRetire, fencesWaitForEarlierStores, barriersCountGenerations⟩

end Sys2Proof.Proofs
end
